-- ==== Sys2Proof/Word.lean ====
section
/-! DEFINITION. The word types of the Doref: bytes, 32-bit words, 64-bit addresses and lane masks
(R4, R5, R28), the sparse map that memories and register
files are held in, and the small types that name what an event of the machine befalls. -/

namespace Sys2Proof

/-- One byte of any memory. -/
abbrev Byte := BitVec 8

/-- A 32-bit value: one lane of a V register, an S register, an M register (R28). -/
abbrev Word := BitVec 32

/-- A 64-bit value: an address, an A register, an X register (R28). -/
abbrev Word64 := BitVec 64

/-- One bit per lane, bit l for lane l (R96). -/
abbrev Lanes := BitVec 64

/-- A sparse map from numbers: entries in strictly rising order of their numbers, none of them equal
to what an unlisted number reads as. The operations are in Machine/Maps.lean. -/
abbrev FMap (α : Type) := List (Nat × α)

/-- A stream instance of a block: the compute stream or the access stream of a warp, or the matrix stream
(R27, R294). -/
inductive Party where
  | compute (warp : Nat)
  | access (warp : Nat)
  | matrix
  deriving DecidableEq, Repr, Inhabited

/-- What the memory side reports of an access besides its data (R155, R185): nothing, an uncorrectable data
error, or a fabric status of R328. -/
inductive AccessError where
  | ok
  | dataError
  | fabric (status : Nat)
  deriving DecidableEq, Repr, Inhabited

/-- An error that befalls lanes of an access (R186). -/
structure LaneErrors where
  lanes : BitVec 64 := 0
  err : AccessError := .ok
  deriving DecidableEq, Repr, Inhabited

/-- The storage unit an uncorrectable register-file error befalls (R375). -/
inductive EccUnit where
  | vreg (warp reg lane half : Nat)
  | queue (warp queue slot lane half : Nat)
  | tile (tile element : Nat)
  deriving DecidableEq, Repr, Inhabited

/-- What the MMP's place duty acts on (R397): a page moved to a frame of the wanted stack, or of the wanted slice, which is inside its near
window (R260); or the near window of a stack core. -/
inductive PlaceTarget where
  | page (va : BitVec 64) (frame : Nat) (slice : Bool)
  | window (stack k base limit : Nat)
  deriving DecidableEq, Repr, Inhabited

end Sys2Proof
end

