-- ==== Sys2Proof/Machine/Maps.lean ====
section
/-! DEFINITION. The operations on sparse maps: reading, writing, removing, and the canonical form (entries in
strictly rising order of their numbers). -/

namespace Sys2Proof

/-- The entry of number `k`, if the map lists one. -/
def FMap.find {α : Type} : FMap α → Nat → Option α
  | [], _ => none
  | (j, x) :: m, k => if j = k then some x else FMap.find m k

/-- What number `k` reads as, `d` being what an unlisted number reads as. -/
def FMap.get {α : Type} (m : FMap α) (k : Nat) (d : α) : α := (FMap.find m k).getD d

/-- The map without number `k`. -/
def FMap.del {α : Type} : FMap α → Nat → FMap α
  | [], _ => []
  | (j, x) :: m, k => if j = k then FMap.del m k else (j, x) :: FMap.del m k

/-- The map with `(k, x)` put before the first entry of a greater number. -/
def FMap.ins {α : Type} : FMap α → Nat → α → FMap α
  | [], k, x => [(k, x)]
  | (j, y) :: m, k, x => if k < j then (k, x) :: (j, y) :: m else (j, y) :: FMap.ins m k x

/-- The map in which number `k` lists `x`. -/
def FMap.set {α : Type} (m : FMap α) (k : Nat) (x : α) : FMap α := (m.del k).ins k x

/-- The map in which number `k` reads as `x`: unlisted when `x` is what unlisted numbers read as. -/
def FMap.put {α : Type} [DecidableEq α] (m : FMap α) (k : Nat) (x d : α) : FMap α :=
  if x = d then m.del k else m.set k x

/-- The entries stand in strictly rising order of their numbers, all of them at or above `lo`. -/
def FMap.risingFrom {α : Type} (lo : Nat) : FMap α → Bool
  | [] => true
  | (j, _) :: m => decide (lo ≤ j) && FMap.risingFrom (j + 1) m

/-- The canonical form: strictly rising numbers, no entry equal to what an unlisted number reads as. -/
def FMap.wf {α : Type} [DecidableEq α] (m : FMap α) (d : α) : Bool :=
  FMap.risingFrom 0 m && m.all (fun e => decide (e.2 ≠ d))

/-- Every number the map lists. -/
def FMap.keys {α : Type} (m : FMap α) : List Nat := m.map (·.1)

/-- The map with every entry changed by `f`. -/
def FMap.mapV {α β : Type} (m : FMap α) (f : α → β) : FMap β := m.map (fun e => (e.1, f e.2))

/-- The map without the entries that `p` does not hold of. -/
def FMap.keep {α : Type} (m : FMap α) (p : Nat → α → Bool) : FMap α := m.filter (fun e => p e.1 e.2)

/-- The lowest number from `lo` on, within `n`, that the map does not list. -/
def FMap.firstFree {α : Type} (m : FMap α) (lo : Nat) : Nat → Option Nat
  | 0 => none
  | n + 1 => if (m.find lo).isSome then FMap.firstFree m (lo + 1) n else some lo

/-- Writing a list of bytes from address `a` on, an unlisted address reading as zero. -/
def FMap.putBytes (m : FMap Byte) (a : Nat) : List Byte → FMap Byte
  | [] => m
  | x :: xs => FMap.putBytes (m.put a x 0) (a + 1) xs

/-- The `n` bytes from address `a` on. -/
def FMap.getBytes (m : FMap Byte) (a : Nat) : Nat → List Byte
  | 0 => []
  | n + 1 => m.get a 0 :: FMap.getBytes m (a + 1) n

/-- The number that bytes make, the lowest address the least significant (R5). -/
def leNat : List Byte → Nat
  | [] => 0
  | x :: xs => x.toNat + 256 * leNat xs

/-- The `n` bytes of a number, the least significant first (R5). -/
def toLe (v : Nat) : Nat → List Byte
  | 0 => []
  | n + 1 => BitVec.ofNat 8 v :: toLe (v / 256) n

/-- The number of `n` bytes at address `a` of a map of bytes. -/
def FMap.num (m : FMap Byte) (a n : Nat) : Nat := leNat (m.getBytes a n)

/-- The map of bytes with the `n`-byte number `v` at address `a`. -/
def FMap.putNum (m : FMap Byte) (a n v : Nat) : FMap Byte := m.putBytes a (toLe v n)

/-- A field of a number: bits `hi` down to `lo`. -/
def bits (v hi lo : Nat) : Nat := (v / 2 ^ lo) % 2 ^ (hi + 1 - lo)

/-- One bit of a number. -/
def bit (v i : Nat) : Bool := v.testBit i

/-- The value with field `hi` down to `lo` replaced by `x`. -/
def setBits (v hi lo x : Nat) : Nat :=
  v - bits v hi lo * 2 ^ lo + (x % 2 ^ (hi + 1 - lo)) * 2 ^ lo

/-- The numbers of the set bits of a mask, rising, below `n`. -/
def setBitsOf {w : Nat} (m : BitVec w) (n : Nat) : List Nat := (List.range n).filter (fun i => m.getLsbD i)

/-- A mask with bit `i` set to `b`. -/
def putBit {w : Nat} (m : BitVec w) (i : Nat) (b : Bool) : BitVec w :=
  if b then m ||| BitVec.ofNat w (2 ^ i) else m &&& ~~~(BitVec.ofNat w (2 ^ i))

/-- The mask whose bits are those of `p` below `n`. -/
def maskOf (w n : Nat) (p : Nat → Bool) : BitVec w :=
  (List.range n).foldl (fun acc i => if p i then acc ||| BitVec.ofNat w (2 ^ i) else acc) 0

/-- The `n` lowest lanes (R96: a warp's lanes 0 to W − 1). -/
def lowLanes (n : Nat) : Lanes := BitVec.ofNat 64 (2 ^ n - 1)

/-- A lane set from a list of lanes. -/
def lanesOf (xs : List Nat) : Lanes := xs.foldl (fun m l => putBit m l true) 0

/-- The list with element `i` replaced. -/
def listSet {α : Type} : List α → Nat → α → List α
  | [], _, _ => []
  | _ :: xs, 0, y => y :: xs
  | x :: xs, i + 1, y => x :: listSet xs i y

/-- A 32-bit value read as a signed number. -/
def sgn (w v : Nat) : Int := (BitVec.ofNat w v).toInt

end Sys2Proof
end

