-- ==== Sys2Proof/Syntax.lean ====
section
/-! DEFINITION. The instructions: one constructor for every row of spec/opcode_table.json. The rows that are
instruction words carry the word's fields (R36, R44); the rows that are the machine's own events carry
which unit the event befalls and what the outside world supplies to it. -/

namespace Sys2Proof

/-- The control fields every instruction word has (R36): guard, STALL, WAIT, SETF, REUSE, YLD, PAIR. -/
structure Ctl where
  g : BitVec 5
  stall : BitVec 4
  wait : BitVec 12
  setf : BitVec 4
  reuse : BitVec 3
  yld : Bool
  pair : Bool
  deriving DecidableEq, Repr, Inhabited

/-- An R-form word without its opcode (R36). -/
structure RWord where
  d : BitVec 10
  a : BitVec 10
  b : BitVec 10
  mod : BitVec 26
  ctl : Ctl
  deriving DecidableEq, Repr, Inhabited

/-- An I-form word without its opcode (R44). -/
structure IWord where
  d : BitVec 10
  a : BitVec 10
  imm : BitVec 32
  modi : BitVec 4
  ctl : Ctl
  deriving DecidableEq, Repr, Inhabited

/-- Every operation and event of the machine, one constructor per row of the opcode table. -/
inductive Instr where
  /-- NOP (R108): Does nothing; with LAND set it marks a permitted indirect-branch target. -/
  | nop (w : RWord)
  /-- BRA (R103): Direct branch that may divide the split, serialise it, or continue, depending on the taken and not-taken lanes. -/
  | bra (w : IWord)
  /-- BRX (R107): Indirect branch through a permitted-target table, checking the table and the landing word. -/
  | brx (w : RWord)
  /-- BRU (R104): Non-dividing branch taken under the ANY or ALL condition, which moves the whole split. -/
  | bru (w : IWord)
  /-- CALL (R103): Dividing direct call that pushes PC + 12 on the return stack of the split that continues at the target. -/
  | call (w : IWord)
  /-- CALLX (R107): Indirect call through a permitted-target table. -/
  | callx (w : RWord)
  /-- RET (R103): Dividing return to the top entry of the return stack. -/
  | ret (w : RWord)
  /-- EXIT (R110): Ends the active lanes of the split; the split or the warp may end, or a deferred path may be taken. -/
  | exit (w : RWord)
  /-- MERGE (R106): Reconvergence point that runs deferred paths or parks the split as WAITING. -/
  | merge (w : RWord)
  /-- MERGE_STEP (R106): Once every split of the warp waits, the splits at the lowest MERGE address are joined and released. -/
  | mergeStep (core warp : Nat)
  /-- LOOP (R104): Decrements a counter S register and branches while the result is nonzero. -/
  | loop (w : IWord)
  /-- YIELD (R109): Delays the split by n clocks. -/
  | yield (w : RWord)
  /-- PUSHP (R101): Pushes the EN bits on the predicate stack and narrows them by a predicate. -/
  | pushp (w : RWord)
  /-- INVP (R101): Inverts the EN bits within the top predicate-stack entry. -/
  | invp (w : RWord)
  /-- POPP (R101): Restores the EN bits from the top predicate-stack entry and pops it. -/
  | popp (w : RWord)
  /-- PAND (R99): Predicate AND. -/
  | pand (w : RWord)
  /-- POR (R99): Predicate OR. -/
  | por (w : RWord)
  /-- PXOR (R99): Predicate exclusive OR. -/
  | pxor (w : RWord)
  /-- PNOT (R99): Predicate NOT. -/
  | pnot (w : RWord)
  /-- PMOV (R99): Predicate move. -/
  | pmov (w : RWord)
  /-- P2V (R100): Writes a predicate into a V register as 1 or 0. -/
  | p2v (w : RWord)
  /-- V2P (R100): Sets a predicate where the source value is nonzero. -/
  | v2p (w : RWord)
  /-- VOTE (R100): ANY, ALL, EQ or BALLOT vote over the active lanes. -/
  | vote (w : RWord)
  /-- IADD (R117): Integer add, wrapping or saturating. -/
  | iadd (w : RWord)
  /-- IADD_IMM (R117): Integer add with an immediate. -/
  | iaddImm (w : IWord)
  /-- ISUB (R117): Integer subtract. -/
  | isub (w : RWord)
  /-- IMUL (R117): Integer multiply, low half. -/
  | imul (w : RWord)
  /-- IMUL_IMM (R117): Integer multiply with an immediate. -/
  | imulImm (w : IWord)
  /-- IMAD (R117): Integer multiply-add with one exact sum. -/
  | imad (w : RWord)
  /-- IMULHI (R117): High half of the exact product. -/
  | imulhi (w : RWord)
  /-- IMIN (R117): Integer minimum. -/
  | imin (w : RWord)
  /-- IMAX (R117): Integer maximum. -/
  | imax (w : RWord)
  /-- IABS (R117): Integer absolute value. -/
  | iabs (w : RWord)
  /-- INEG (R117): Integer negation. -/
  | ineg (w : RWord)
  /-- AND (R118): Bitwise AND. -/
  | andB (w : RWord)
  /-- AND_IMM (R118): Bitwise AND with an immediate. -/
  | andImm (w : IWord)
  /-- OR (R118): Bitwise OR. -/
  | orB (w : RWord)
  /-- OR_IMM (R118): Bitwise OR with an immediate. -/
  | orImm (w : IWord)
  /-- XOR (R118): Bitwise exclusive OR. -/
  | xorB (w : RWord)
  /-- XOR_IMM (R118): Bitwise exclusive OR with an immediate. -/
  | xorImm (w : IWord)
  /-- NOT (R118): Bitwise complement. -/
  | notB (w : RWord)
  /-- SHL (R118): Shift left. -/
  | shl (w : RWord)
  /-- SHL_IMM (R118): Shift left by an immediate count. -/
  | shlImm (w : IWord)
  /-- SHR (R118): Logical or arithmetic shift right, by TYPE. -/
  | shr (w : RWord)
  /-- SHR_IMM (R118): Shift right by an immediate count. -/
  | shrImm (w : IWord)
  /-- ROT (R118): Rotate left. -/
  | rot (w : RWord)
  /-- ICMP (R119): Integer compare into a predicate. -/
  | icmp (w : RWord)
  /-- ICMP_IMM (R119): Integer compare with an immediate. -/
  | icmpImm (w : IWord)
  /-- SEL (R119): Bitwise select with D as the mask. -/
  | sel (w : RWord)
  /-- MOV (R122): Copy and retag. -/
  | mov (w : RWord)
  /-- MOV_IMM (R122): Move an immediate. -/
  | movImm (w : IWord)
  /-- POPC (R120): Population count. -/
  | popc (w : RWord)
  /-- CLZ (R120): Count leading zeros. -/
  | clz (w : RWord)
  /-- CTZ (R120): Count trailing zeros. -/
  | ctz (w : RWord)
  /-- BREV (R120): Bit reverse. -/
  | brev (w : RWord)
  /-- BFE (R120): Bit-field extract. -/
  | bfe (w : RWord)
  /-- BFI (R120): Bit-field insert. -/
  | bfi (w : RWord)
  /-- LEA (R121): 64-bit address from a base and a scaled index. -/
  | lea (w : RWord)
  /-- LEA_IMM (R121): 64-bit address from a base and an immediate index. -/
  | leaImm (w : IWord)
  /-- VREAD (R123): Reads one lane of a V register into an S register. -/
  | vread (w : RWord)
  /-- VWRITE (R123): Writes a uniform value into one lane. -/
  | vwrite (w : RWord)
  /-- SADD (R124): Uniform add. -/
  | sadd (w : RWord)
  /-- SADD_IMM (R124): Uniform add with an immediate. -/
  | saddImm (w : IWord)
  /-- SSUB (R124): Uniform subtract. -/
  | ssub (w : RWord)
  /-- SMUL (R124): Uniform multiply. -/
  | smul (w : RWord)
  /-- SAND (R124): Uniform AND. -/
  | sand (w : RWord)
  /-- SOR (R124): Uniform OR. -/
  | sor (w : RWord)
  /-- SXOR (R124): Uniform exclusive OR. -/
  | sxor (w : RWord)
  /-- SSHL (R124): Uniform shift left. -/
  | sshl (w : RWord)
  /-- SSHR (R124): Uniform shift right. -/
  | sshr (w : RWord)
  /-- SCMP (R124): Uniform compare into an S register. -/
  | scmp (w : RWord)
  /-- SMOV (R124): Uniform move. -/
  | smov (w : RWord)
  /-- SMOV_IMM (R124): Uniform move of an immediate. -/
  | smovImm (w : IWord)
  /-- SSEL (R124): Uniform bitwise select. -/
  | ssel (w : RWord)
  /-- FADD (R132): Float add, rounded once. -/
  | fadd (w : RWord)
  /-- FADD_IMM (R132): Float add with an immediate. -/
  | faddImm (w : IWord)
  /-- FSUB (R132): Float subtract. -/
  | fsub (w : RWord)
  /-- FMUL (R132): Float multiply. -/
  | fmul (w : RWord)
  /-- FMUL_IMM (R132): Float multiply with an immediate. -/
  | fmulImm (w : IWord)
  /-- FMA (R132): Fused multiply-add, rounded once. -/
  | fma (w : RWord)
  /-- FMIN (R134): Float minimum. -/
  | fmin (w : RWord)
  /-- FMAX (R134): Float maximum. -/
  | fmax (w : RWord)
  /-- FABS (R134): Clears the sign bits. -/
  | fabs (w : RWord)
  /-- FNEG (R134): Inverts the sign bits. -/
  | fneg (w : RWord)
  /-- FCMP (R135): Float compare of one element into a predicate. -/
  | fcmp (w : RWord)
  /-- FCMP_IMM (R135): Float compare with an immediate. -/
  | fcmpImm (w : IWord)
  /-- FCLASS (R135): Classifies one element into a class bit. -/
  | fclass (w : RWord)
  /-- FLGRD (R130): Reads FLAGS into an S register. -/
  | flgrd (w : RWord)
  /-- FLGWR (R130): Writes FLAGS. -/
  | flgwr (w : RWord)
  /-- FLGCLR (R130): Clears selected FLAGS bits. -/
  | flgclr (w : RWord)
  /-- CVT (R137): Element conversion between formats, with RND, SR and SAT. -/
  | cvt (w : RWord)
  /-- QCVT (R140): Quantises F32 against an E8M0 scale. -/
  | qcvt (w : RWord)
  /-- DQCVT (R140): Dequantises elements with an E8M0 scale. -/
  | dqcvt (w : RWord)
  /-- PACK (R138): Packs two low halves into one lane. -/
  | pack (w : RWord)
  /-- UNPACK (R138): Extracts one half. -/
  | unpack (w : RWord)
  /-- SCALE (R140): Computes the E8M0 scale code for a target format. -/
  | scale (w : RWord)
  /-- AMAX (R140): Largest magnitude across the warp, written to every active lane. -/
  | amax (w : RWord)
  /-- EXP2 (R141): Correctly rounded 2^a. -/
  | exp2 (w : RWord)
  /-- LOG2 (R141): Correctly rounded log2 a. -/
  | log2 (w : RWord)
  /-- RCP (R141): Correctly rounded reciprocal. -/
  | rcp (w : RWord)
  /-- RSQ (R141): Correctly rounded reciprocal square root. -/
  | rsq (w : RWord)
  /-- SQRT (R141): Correctly rounded square root. -/
  | sqrt (w : RWord)
  /-- STQ (R143): Quantises a tile per lane and stores it with its trailer. -/
  | stq (w : RWord)
  /-- LDQ (R144): Loads a quantised tile per lane and checks its trailer. -/
  | ldq (w : RWord)
  /-- SRSEED (R78): Sets the per-lane stochastic-rounding generator state. -/
  | srseed (w : RWord)
  /-- DOT4 (R167): Dot product of four I8 pairs into an I32 accumulator. -/
  | dot4 (w : RWord)
  /-- DOT8 (R167): Dot product of eight I4 pairs. -/
  | dot8 (w : RWord)
  /-- DOT2 (R167): Dot product of two I16 pairs. -/
  | dot2 (w : RWord)
  /-- PADD (R168): Packed element-wise add. -/
  | padd (w : RWord)
  /-- PSUB (R168): Packed element-wise subtract. -/
  | psub (w : RWord)
  /-- PMIN (R168): Packed element-wise minimum. -/
  | pmin (w : RWord)
  /-- PMAX (R168): Packed element-wise maximum. -/
  | pmax (w : RWord)
  /-- SHR_RND (R169): Rounding right shift of a 32-bit value. -/
  | shrRnd (w : RWord)
  /-- SHR_SAT (R169): Rounding right shift, clamped to a narrow type and placed in one element. -/
  | shrSat (w : RWord)
  /-- SHR_RND_IMM (R169): Rounding right shift by an immediate count, RN. -/
  | shrRndImm (w : IWord)
  /-- SLIDE (R170): Slides elements across the warp, with zero, edge or register fill. -/
  | slide (w : RWord)
  /-- SLIDE_IMM (R170): Slide by an immediate count, with zero fill. -/
  | slideImm (w : IWord)
  /-- SHFL (R171): Per-lane shuffle, with the mode and k taken from a control word. -/
  | shfl (w : RWord)
  /-- SHFL_IMM (R171): Shuffle with an immediate control word. -/
  | shflImm (w : IWord)
  /-- BCAST (R171): Broadcasts one lane, or one element, to every active lane. -/
  | bcast (w : RWord)
  /-- RED (R172): Tree reduction over the active lanes. -/
  | red (w : RWord)
  /-- SCAN (R173): Inclusive or exclusive scan over the active lanes. -/
  | scan (w : RWord)
  /-- TOPK_INS (R175): Inserts a candidate into the per-lane top-k list. -/
  | topkIns (w : RWord)
  /-- TOPK_CLR (R175): Fills the per-lane top-k list with worst values. -/
  | topkClr (w : RWord)
  /-- LD (R156): All-or-nothing per-lane load. -/
  | ld (w : RWord)
  /-- ST (R156): All-or-nothing per-lane store. -/
  | st (w : RWord)
  /-- LD_NF (R157): Non-faulting load that reports residency in a predicate. -/
  | ldNf (w : RWord)
  /-- PGREQ (R157): Asks the MMP to make pages resident, optionally waiting for the outcome. -/
  | pgreq (w : RWord)
  /-- LDS (R158): Scratchpad load. -/
  | lds (w : RWord)
  /-- STS (R158): Scratchpad store. -/
  | sts (w : RWord)
  /-- LDG (R154): Gather load that commits the lanes that passed their checks before it traps. -/
  | ldg (w : RWord)
  /-- STG (R154): Scatter store with per-lane commit. -/
  | stg (w : RWord)
  /-- LD_W (R160): Reads the weight store of the core's own die. -/
  | ldW (w : RWord)
  /-- WSREF (R161): Reports the position of the weight-store refresh window. -/
  | wsref (w : RWord)
  /-- ATOM (R163): Per-lane relaxed atomic on local HBM. -/
  | atom (w : RWord)
  /-- ATOMS (R163): Per-lane atomic on the scratchpad. -/
  | atoms (w : RWord)
  /-- PREF (R157): Prefetches sectors into the caches without faulting. -/
  | pref (w : RWord)
  /-- AADD (R179): Access-stream add. -/
  | aadd (w : RWord)
  /-- AADD_IMM (R179): Access-stream add of an immediate. -/
  | aaddImm (w : IWord)
  /-- ASUB (R179): Access-stream subtract. -/
  | asub (w : RWord)
  /-- AMUL (R179): Access-stream multiply. -/
  | amul (w : RWord)
  /-- ASHL (R179): Access-stream shift left. -/
  | ashl (w : RWord)
  /-- ASHR (R179): Access-stream shift right. -/
  | ashr (w : RWord)
  /-- AAND (R179): Access-stream AND. -/
  | aand (w : RWord)
  /-- AMOV (R179): Access-stream move. -/
  | amov (w : RWord)
  /-- AMOV_IMM (R179): Access-stream move of an immediate. -/
  | amovImm (w : IWord)
  /-- ACMP (R179): Access-stream compare into a condition bit. -/
  | acmp (w : RWord)
  /-- ABR (R180): Guarded access-stream branch. -/
  | abr (w : IWord)
  /-- ABRQ (R190): Pops a back queue and branches on its entry. -/
  | abrq (w : IWord)
  /-- QLD (R184): Reserves a forward-queue slot and loads one vector entry into it. -/
  | qld (w : RWord)
  /-- QLDG (R184): Pops an index vector from a back queue and gathers into a forward queue. -/
  | qldg (w : RWord)
  /-- QPOP (R191): Pops a back-queue entry into A registers. -/
  | qpop (w : RWord)
  /-- QPUSH (R189): Compute stream pushes a back-queue entry. -/
  | qpush (w : RWord)
  /-- SLIP (R192): Sets the slip register. -/
  | slip (w : RWord)
  /-- AEXIT (R193): Ends the access stream. -/
  | aexit (w : RWord)
  /-- SHLD (R199): Loads a shape record from memory. -/
  | shld (w : RWord)
  /-- SHST (R199): Stores a shape record to memory. -/
  | shst (w : RWord)
  /-- SHSET (R199): Writes one word of a shape record. -/
  | shset (w : RWord)
  /-- CPT (R201): Starts a tiled copy between memory and the scratchpad. -/
  | cpt (w : RWord)
  /-- CPTM (R205): Starts a multicast tiled load into several cores of the stack group. -/
  | cptm (w : RWord)
  /-- CPL (R201): Starts a linear copy. -/
  | cpl (w : RWord)
  /-- CPW (R201): Starts a tiled copy into the weight buffer. -/
  | cpw (w : RWord)
  /-- WAITALL (R207): Waits until no tag of the mask is busy. -/
  | waitall (w : RWord)
  /-- WAITANY (R207): Waits for any done tag of the mask and returns the lowest one. -/
  | waitany (w : RWord)
  /-- TAGFIND (R207): Finds the lowest done or free tag of the mask. -/
  | tagfind (w : RWord)
  /-- TAGCLR (R207): Clears the idle tags of the mask. -/
  | tagclr (w : RWord)
  /-- WAITC (R209): Waits until an engine-class counter falls to n or less. -/
  | waitc (w : RWord)
  /-- MMA (R219): Enters a 128 x 128 matrix multiply into the array queue. -/
  | mma (w : RWord)
  /-- MMA_V (R232): Computes tile columns on the vector units, one per lane. -/
  | mmaV (w : RWord)
  /-- MFENCE (R223): Closes the open batch and numbers it. -/
  | mfence (w : RWord)
  /-- MWAIT (R224): Waits until a batch and every earlier batch are complete. -/
  | mwait (w : RWord)
  /-- TSEQ_INIT (R229): Initialises the tile sequencer. -/
  | tseqInit (w : RWord)
  /-- TSEQ_NEXT (R230): Returns the next tile and lists small groups. -/
  | tseqNext (w : RWord)
  /-- TZERO (R231): Zeroes a tile. -/
  | tzero (w : RWord)
  /-- TLD (R231): Loads a tile from the scratchpad. -/
  | tld (w : RWord)
  /-- TST (R231): Stores a tile to the scratchpad as F32. -/
  | tst (w : RWord)
  /-- TCVT (R231): Converts a tile and stores it to the scratchpad. -/
  | tcvt (w : RWord)
  /-- CBLD (R227): Loads the CB2 codebook table as an array operation. -/
  | cbld (w : RWord)
  /-- WBLD (R228): Matrix-stream copy into the weight buffer. -/
  | wbld (w : RWord)
  /-- MMOV (R215): Matrix-stream move. -/
  | mmov (w : RWord)
  /-- MMOV_IMM (R215): Matrix-stream move of an immediate. -/
  | mmovImm (w : IWord)
  /-- MADD (R215): Matrix-stream add. -/
  | madd (w : RWord)
  /-- MADD_IMM (R215): Matrix-stream add of an immediate. -/
  | maddImm (w : IWord)
  /-- MCMP (R215): Matrix-stream compare into a condition bit. -/
  | mcmp (w : RWord)
  /-- MBR (R215): Guarded matrix-stream branch. -/
  | mbr (w : IWord)
  /-- MBAR_ARV (R225): Matrix stream arrives on a block barrier. -/
  | mbarArv (w : RWord)
  /-- MBAR_WAIT (R225): Matrix stream waits on a barrier phase. -/
  | mbarWait (w : RWord)
  /-- MBAR_SYNC (R225): Matrix stream arrives and waits. -/
  | mbarSync (w : RWord)
  /-- MEXIT (R233): Ends the matrix stream. -/
  | mexit (w : RWord)
  /-- KLD_K (R249): Walks KV pages and decodes key rows into scratchpads. -/
  | kldK (w : RWord)
  /-- KLD_V (R249): Walks KV pages and decodes value rows into scratchpads. -/
  | kldV (w : RWord)
  /-- KST (R246): Appends one token per lane to its KV page. -/
  | kst (w : RWord)
  /-- KPROBE (R245): Reports the status of a KV coordinate. -/
  | kprobe (w : RWord)
  /-- KMAP (R243): Maps a backing page as the frame of an absent KV page. -/
  | kmap (w : RWord)
  /-- KUNMAP (R244): Sets a KV page entry to ABSENT. -/
  | kunmap (w : RWord)
  /-- KVSEL (R238): Selects the stream's current KV space. -/
  | kvsel (w : RWord)
  /-- NMX (R267): Queues a command on each targeted stack core. -/
  | nmx (w : RWord)
  /-- NMXB (R268): Queues an instruction-memory load on each targeted stack core. -/
  | nmxb (w : RWord)
  /-- NMXR (R269): Reads the status words of the targeted stack cores. -/
  | nmxr (w : RWord)
  /-- NMXC (R270): Cancels the context's queued and running commands on the targets. -/
  | nmxc (w : RWord)
  /-- RCLAIM (R277): Stack core claims DRAM rows. -/
  | rclaim (w : RWord)
  /-- RREL (R277): Stack core releases row claims. -/
  | rrel (w : RWord)
  /-- BDMA_LD (R273): Starts a bank DMA from near memory to the scratchpad. -/
  | bdmaLd (w : RWord)
  /-- BDMA_ST (R273): Starts a bank DMA from the scratchpad to near memory. -/
  | bdmaSt (w : RWord)
  /-- XLD (R272): Stack-core scalar scratchpad load. -/
  | xld (w : RWord)
  /-- XST (R272): Stack-core scalar scratchpad store. -/
  | xst (w : RWord)
  /-- ZLD (R272): Stack-core vector scratchpad load. -/
  | zld (w : RWord)
  /-- ZST (R272): Stack-core vector scratchpad store. -/
  | zst (w : RWord)
  /-- ZADD (R274): Stack-core vector add. -/
  | zadd (w : RWord)
  /-- ZSUB (R274): Stack-core vector subtract. -/
  | zsub (w : RWord)
  /-- ZMUL (R274): Stack-core vector multiply. -/
  | zmul (w : RWord)
  /-- ZMIN (R274): Stack-core vector minimum. -/
  | zmin (w : RWord)
  /-- ZMAX (R274): Stack-core vector maximum. -/
  | zmax (w : RWord)
  /-- ZCMP (R274): Stack-core vector compare into lane masks. -/
  | zcmp (w : RWord)
  /-- ZSEL (R274): Stack-core bitwise select. -/
  | zsel (w : RWord)
  /-- ZCVT (R274): Stack-core vector conversion. -/
  | zcvt (w : RWord)
  /-- ZBCAST (R274): Stack-core broadcast of a scalar or a lane. -/
  | zbcast (w : RWord)
  /-- ZRED (R274): Stack-core sequential lane reduction into an X register. -/
  | zred (w : RWord)
  /-- ZMOV (R274): Stack-core move between Z, X and SFLAGS, by mode. -/
  | zmov (w : RWord)
  /-- CMDEND (R275): Ends a command or stack kernel with a result and a status code. -/
  | cmdend (w : RWord)
  /-- FENCE (R291): Waits for earlier accesses at a scope, with acquire and release effect. -/
  | fence (w : RWord)
  /-- LD_ACQ (R292): Acquire load at a scope. -/
  | ldAcq (w : RWord)
  /-- ST_REL (R292): Release store at a scope. -/
  | stRel (w : RWord)
  /-- ATOMG (R293): Scoped atomic with RLX, ACQ, REL or AR ordering. -/
  | atomg (w : RWord)
  /-- BAR_ARV (R295): Arrives on a block barrier. -/
  | barArv (w : RWord)
  /-- BAR_WAIT (R295): Takes the parity and holds until the phase ends. -/
  | barWait (w : RWord)
  /-- BAR_SYNC (R295): Arrives, then waits, in one issue. -/
  | barSync (w : RWord)
  /-- BAR_INIT (R296): Sets a barrier's expected count and resets its state. -/
  | barInit (w : RWord)
  /-- SIG_ADD (R298): Indivisible release add to a signal. -/
  | sigAdd (w : RWord)
  /-- SIG_WAIT (R298): Reads a signal as an acquire until a condition holds or the bound passes. -/
  | sigWait (w : RWord)
  /-- SIG_RD (R298): Acquire read of a signal. -/
  | sigRd (w : RWord)
  /-- ACQR (R310): Requests a region's token for the cluster. -/
  | acqr (w : RWord)
  /-- RELR (R311): Starts handing a held region back. -/
  | relr (w : RWord)
  /-- WB (R306): Writes back the modified sectors of a range. -/
  | wb (w : RWord)
  /-- INV (R306): Invalidates the clean copies of a range. -/
  | inv (w : RWord)
  /-- WBINV (R306): Writes back, then invalidates, a range. -/
  | wbinv (w : RWord)
  /-- PIN (R308): Pins the lines of a range in the cluster's L2 slice. -/
  | pin (w : RWord)
  /-- UNPIN (R308): Unpins the lines of a range. -/
  | unpin (w : RWord)
  /-- RGNQ (R309): Reads a region word. -/
  | rgnq (w : RWord)
  /-- MQ_PUSH (R331): Pushes scratchpad records onto a module queue. -/
  | mqPush (w : RWord)
  /-- MQ_POP (R331): Pops module-queue records into the scratchpad. -/
  | mqPop (w : RWord)
  /-- MATOM (R331): Relaxed atomic command on a module data window. -/
  | matom (w : RWord)
  /-- MRED (R331): Writes a contribution to a reduction window, with an optional arrival. -/
  | mred (w : RWord)
  /-- MFLAG_SET (R331): POD-scope release write of a module flag. -/
  | mflagSet (w : RWord)
  /-- MFLAG_WAIT (R331): Polls a module flag as an acquire until a condition holds or TOUT passes. -/
  | mflagWait (w : RWord)
  /-- COL_RS (R334): Starts a reduce-scatter over a group, arming the member's windows. -/
  | colRs (w : RWord)
  /-- COL_AG (R334): Starts an all-gather, writing the member's shard and flag. -/
  | colAg (w : RWord)
  /-- COL_WAIT (R337): Waits for a bucket's collective status. -/
  | colWait (w : RWord)
  /-- GRP_FORM (R325): Forms a group entry, ending its outstanding collectives as STALE_GEN. -/
  | grpForm (w : RWord)
  /-- GRP_STAT (R327): Reads a group entry. -/
  | grpStat (w : RWord)
  /-- REPLAY (R342): Re-sends parked exchange records from the replay ring. -/
  | replay (w : RWord)
  /-- XCH_PUSH (R342): Pushes expert-exchange records and parks the refused ones. -/
  | xchPush (w : RWord)
  /-- LNK_STAT (R343): Reads a module port's status word. -/
  | lnkStat (w : RWord)
  /-- LAUNCH (R356): Submits one launch descriptor. -/
  | launch (w : RWord)
  /-- LAUNCHG (R356): Submits an array of descriptors, all or none. -/
  | launchg (w : RWord)
  /-- NQ_PUSH (R357): Appends records to a graph node queue. -/
  | nqPush (w : RWord)
  /-- NQ_FLUSH (R357): Forms a batch of the pending records. -/
  | nqFlush (w : RWord)
  /-- NQ_STAT (R357): Reads a node's status. -/
  | nqStat (w : RWord)
  /-- SIG_SET (R358): Release write of a signal value. -/
  | sigSet (w : RWord)
  /-- TRAP (R371): Raises the cause TRAP with a code. -/
  | trap (w : RWord)
  /-- RTT (R372): Returns from the handler and reissues the trapping instruction. -/
  | rtt (w : RWord)
  /-- RTT_NEXT (R372): Returns from the handler past the trapping instruction. -/
  | rttNext (w : RWord)
  /-- RTT_END (R372): Ends the block from the handler. -/
  | rttEnd (w : RWord)
  /-- RTT_SAVED (R380): Vacates the core after a handler save. -/
  | rttSaved (w : RWord)
  /-- RTT_RPL (R188): Replays or zero-fills a poisoned queue slot and returns. -/
  | rttRpl (w : RWord)
  /-- CTXSV (R381): Saves one part of the halted block. -/
  | ctxsv (w : RWord)
  /-- CTXLD (R381): Loads one part of the block back. -/
  | ctxld (w : RWord)
  /-- TIMER (R373): Arms or clears the warp's user timer. -/
  | timer (w : RWord)
  /-- TIMERRD (R373): Reads the clocks remaining on the user timer. -/
  | timerrd (w : RWord)
  /-- SNAP (R386): Fires the common snapshot trigger if it is armed. -/
  | snap (w : RWord)
  /-- SYSRD (R367): Reads a system register. -/
  | sysrd (w : RWord)
  /-- SYSWR (R367): Writes a system register. -/
  | syswr (w : RWord)
  /-- SCRUB (R385): Zeroes the selected block resources. -/
  | scrub (w : RWord)
  /-- FIXED_LATENCY_WRITEBACK (R50): A fixed-latency result, with its sticky flags, lands at the end of clock t + L - 1. -/
  | fixedLatencyWriteback (core : Nat)
  /-- VARIABLE_LATENCY_COMPLETION (R47): A variable-latency instruction completes, writes its results and decrements its SETF counter. -/
  | variableLatencyCompletion (core op : Nat)
  /-- MEM_ACCESS_COMPLETION (R151): A load, store or atomic finishes its accesses and writes its registers. -/
  | memAccessCompletion (core op : Nat) (lanes : BitVec 64) (err : AccessError)
  /-- ADDRESS_CHECK_END (R153): The translation checks of a MEM instruction end, releasing the split or raising a fault. -/
  | addressCheckEnd (core op : Nat)
  /-- WINDOW_STORE_FAILURE (R155): A window store ends with a fabric status, leaving a pending WINDOW_FAULT. -/
  | windowStoreFailure (core op status : Nat)
  /-- QUEUE_LOAD_COMPLETION (R184): A queue load's slot leaves PENDING as FULL or as POISON with a poison record. -/
  | queueLoadCompletion (core op : Nat) (errs : LaneErrors)
  /-- BACK_QUEUE_SLOT_FULL (R189): A pushed back-queue slot becomes FULL at t + 2. -/
  | backQueueSlotFull (core warp queue : Nat)
  /-- COPY_COMPLETION (R202): A copy completes: its tag becomes done, its counter and flag fall, and CPTM arrivals are made. -/
  | copyCompletion (core op : Nat)
  /-- COPY_FAILURE (R203): The copy engine learns of a failed chunk, records the failure and starts no further chunk. -/
  | copyFailure (core op chunk status : Nat) (landed : List Nat)
  /-- ARRAY_OPERATION_PERFORM (R219): The matrix array performs a queued array operation on its operands. -/
  | arrayOperationPerform (core : Nat) (readError : Bool)
  /-- ARRAY_OPERATION_COMPLETION (R221): An array operation drains its tile, and batches may complete. -/
  | arrayOperationCompletion (core : Nat)
  /-- MSTREAM_ORPHAN (R233): The matrix stream holds with every warp ended, and raises a trap. -/
  | mstreamOrphan (core : Nat)
  /-- BAR_ORPHAN (R297): A barrier hold can never end, and the held party raises a trap. -/
  | barOrphan (core : Nat) (party : Party) (slot : Nat)
  /-- BLOCK_END (R233): The block ends once every warp and the matrix stream have ended and their operations are complete; pins and regions are released. -/
  | blockEnd (core : Nat)
  /-- KLD_WALK_END (R251): A KLD's page walk ends, releasing the stream or raising KV_FAULT with KVPROG. -/
  | kldWalkEnd (core op : Nat)
  /-- KLD_COMPLETION (R250): Every receiver's rows are written and each receiver gets one barrier arrival. -/
  | kldCompletion (core op : Nat)
  /-- KV_WALK_WAIT_TIMEOUT (R253): A KV walk waiting on an EVICTED or IN_FLIGHT entry passes 200 us. -/
  | kvWalkWaitTimeout (core op : Nat)
  /-- KV_DATA_ERROR (R254): An uncorrectable KV page data error writes NaN rows and sets the entry POISON. -/
  | kvDataError (core op position : Nat)
  /-- KV_PAGE_EVICTION (R240): The MMP moves a RESIDENT KV page through IN_FLIGHT to EVICTED, invalidating walkers. -/
  | kvPageEviction (asid space : Nat) (coord : BitVec 64) (finish : Bool)
  /-- KV_PAGE_RESTORE (R243): The MMP restores an EVICTED KV page into a frame and sets it RESIDENT. -/
  | kvPageRestore (asid space : Nat) (coord : BitVec 64) (frame : Nat) (finish : Bool)
  /-- KV_PAGE_POISON (R240): The MMP sets a RESIDENT KV page POISON after an uncorrectable error in its frame. -/
  | kvPagePoison (asid space : Nat) (coord : BitVec 64)
  /-- STACK_COMMAND_START (R267): A queue entry reaches the head and its command starts on the stack core. -/
  | stackCommandStart (stack k : Nat)
  /-- NMXB_LOAD_ENTRY (R268): A load entry at the queue head writes instruction memory and ends with a status. -/
  | nmxbLoadEntry (stack k : Nat) (readable : Bool)
  /-- STACK_COMMAND_TIMEOUT (R267): A command reaches its clock limit and ends with TIMEOUT. -/
  | stackCommandTimeout (stack k : Nat)
  /-- STACK_COMMAND_REPORT (R267): After its bank DMAs complete and claims are released, a command reports to the issuing lane. -/
  | stackCommandReport (stack k : Nat)
  /-- BANK_DMA_COMPLETION (R273): A bank DMA completes and its flag falls. -/
  | bankDmaCompletion (stack k dma : Nat) (dataError : Bool)
  /-- DEFERRAL_TIMEOUT (R278): A deferred operation waits 100 us and is refused with RETRY. -/
  | deferralTimeout (stack k entry : Nat)
  /-- STACK_KERNEL_START (R350): The launch controller takes an idle stack core, loads the image and starts the kernel. -/
  | stackKernelStart (launch stack k : Nat) (readable : Bool)
  /-- STACK_KERNEL_PREEMPT (R281): The launch controller stops a stack kernel and saves its state in the core's save area. -/
  | stackKernelPreempt (stack k : Nat)
  /-- STACK_KERNEL_RESTORE (R281): A saved stack kernel is restored on the same stack core and resumes. -/
  | stackKernelRestore (stack k : Nat)
  /-- L2_EVICTION (R303): An evicted modified sector is written back to HBM or the module. -/
  | l2Eviction (slice sector : Nat)
  /-- BISNP (R304): A module back-invalidation makes the home slice write back, invalidate and respond. -/
  | bisnp (module line : Nat)
  /-- HOST_MEM_WRITE (R403): A host BAR2 write overwrites HBM and invalidates cached copies of the sector. -/
  | hostMemWrite (addr : Nat) (data : List (BitVec 8))
  /-- HOST_MEM_READ (R403): A host BAR2 read returns HBM, bypassing L2. -/
  | hostMemRead (addr length : Nat)
  /-- ACQR_TOKEN_GRANT (R310): A waiting ACQR obtains a FREE region, invalidates the cluster's copies and returns OK. -/
  | acqrTokenGrant (core op : Nat)
  /-- ACQR_TIMEOUT (R310): An ACQR's wait bound passes and it returns BUSY. -/
  | acqrTimeout (core op : Nat)
  /-- RELR_COMPLETION (R311): After the region's stores are performed, RELR writes back and invalidates, frees the region and returns OK. -/
  | relrCompletion (core op : Nat)
  /-- COURIER_REQUEST (R338): A courier pops a relay request, performs it on its module and writes the reply. -/
  | courierRequest (port : Nat)
  /-- DRAIN_RECORD (R341): The drain engine pops an exchange record, appends it to its node and writes the reply word. -/
  | drainRecord (asid slot entry : Nat)
  /-- COLLECTIVE_CONTRIBUTE (R334): Once a peer's window is armed with the collective's GEN and SEQ, the member writes its shard and an arrival. -/
  | collectiveContribute (asid col peer : Nat)
  /-- COLLECTIVE_GATHER (R334): After the armed windows are DONE, or peer flags are seen, the member sums or gathers and writes DST. -/
  | collectiveGather (asid col : Nat)
  /-- COLLECTIVE_DECISION (R336): The coordinator decides from the votes, or after TOUT, and writes the decision. -/
  | collectiveDecision (asid col : Nat) (expired : Bool)
  /-- COLLECTIVE_STATUS (R337): The member reads the decision, or finds LOST, takes its status and decrements SIG. -/
  | collectiveStatus (asid col : Nat) (expired : Bool)
  /-- FABRIC_TIMEOUT (R329): A fabric wait passes its group TOUT and its operation ends with TIMEOUT. -/
  | fabricTimeout (core op : Nat)
  /-- LINK_LANE_FAILURE (R324): A lane of a port fails and the port starts retraining. -/
  | linkLaneFailure (port lane : Nat)
  /-- LINK_RETRAIN_COMPLETE (R324): The port comes up at the first whole width, replays unacknowledged flits and answers held BISnps. -/
  | linkRetrainComplete (port replayed : Nat)
  /-- LINK_DOWN (R324): A port loses every usable width; its accesses end with LINK_DOWN and its lines count as recalled. -/
  | linkDown (port : Nat)
  /-- GATE_OPEN (R345): The launch controller reads a PENDING gate as open and releases the launch. -/
  | gateOpen (launch : Nat)
  /-- BLOCK_PLACEMENT (R348): The launch controller places the next block on the lowest free core and assigns its save area. -/
  | blockPlacement
  /-- LAUNCH_DONE (R346): A launch ends, subtracts its signals and logs any failure. -/
  | launchDone (launch : Nat)
  /-- BATCH_SUBMISSION_RETRY (R354): A batch held by the 1,024-launch limit is submitted when room appears. -/
  | batchSubmissionRetry (asid slot node : Nat)
  /-- FLUSH_TIMER_EXPIRY (R354): A node's flush timer expires with records pending and forms a batch. -/
  | flushTimerExpiry (asid slot node : Nat)
  /-- SPATIAL_PREEMPTION_REQUEST (R349): A PRE launch without free cores requests cores of lower-priority launches. -/
  | spatialPreemptionRequest (launch : Nat)
  /-- HANDLER_ENTRY (R365): The trap state and shadows are written and the handler split starts at HANDLER. -/
  | handlerEntry (core : Nat)
  /-- DEFERRED_CAUSE_IN_HANDLER (R429): A cause found while the handler runs, but not raised by it, takes no effect and is raised again after the halt. -/
  | deferredCauseInHandler (core : Nat) (party : Party) (slot : Nat)
  /-- PREEMPT (R380): A pre-emption request with PTRAP reaches the block and enters the handler. -/
  | preempt (core : Nat)
  /-- HARDWARE_SAVE (R377): The block is halted, its commands are cancelled, its drains end, its parts are saved and the core is vacated. -/
  | hardwareSave (core : Nat)
  /-- HANDLER_SAVE_TIMEOUT (R380): RTT.SAVED has not issued 200 us after the request, and the block is saved by hardware. -/
  | handlerSaveTimeout (core : Nat)
  /-- HARDWARE_RESTORE (R379): A saved block is written back on a new core and its halt ends. -/
  | hardwareRestore (saved : Nat)
  /-- RESUME (R380): A block that a handler saved is placed again, halted, and enters the handler on warp 0. -/
  | resume (saved : Nat)
  /-- SCRATCH_ECC (R374): An uncorrectable scratchpad error ends the block, with relaunch if it is idempotent. -/
  | scratchEcc (core : Nat)
  /-- REGISTER_FILE_ECC (R375): An uncorrectable register, queue or accumulator error marks the unit poisoned. -/
  | registerFileEcc (core : Nat) (unit : EccUnit)
  /-- TIMER_EVENT (R373): The user timer fires: the PC is pushed and the split jumps to the target. -/
  | timerEvent (core warp : Nat)
  /-- REFRESH_WINDOW_START (R161): A die's weight-store refresh window begins and holds reads. -/
  | refreshWindowStart (die : Nat)
  /-- REFRESH_WINDOW_END (R161): The refresh window ends and the held reads are served in issue order. -/
  | refreshWindowEnd (die : Nat)
  /-- WSLOAD_WRITE (R32): Once no block runs on the die, a WSLOAD writes its weight store. -/
  | wsloadWrite (launch die : Nat) (readable : Bool)
  /-- WEIGHT_STORE_ZEROING (R412): On a WSGRANT change, once the die is idle, its weight store is zeroed. -/
  | weightStoreZeroing (die : Nat)
  /-- TIMETABLE_TICK (R352): At each microsecond boundary the timetable applies steps and fires or skips due entries. -/
  | timetableTick
  /-- PPS_EDGE (R410): A PPS rising edge latches PPSTS and increments PPSCNT. -/
  | ppsEdge
  /-- TRIG_PIN_PULSE (R413): A TRIG pin pulse fires the snapshot if it is enabled and armed, or counts as missed. -/
  | trigPinPulse (nanoseconds : Nat)
  /-- THERMAL_THROTTLE (R414): Power above PWRCAP or a die at 105 C lowers the clocks in 5 % steps and sets THROTTLE. -/
  | thermalThrottle (powerWatts hottestTenths : Nat)
  /-- THERMAL_SHUTDOWN (R414): A die at 115 C stops all work and a class 4 record is logged. -/
  | thermalShutdown (die : Nat)
  /-- RESET (R405): Reset brings up the host port and clears READY. -/
  | reset
  /-- SELF_TEST_PASS (R405): A function passes self-test and sets its READY bit. -/
  | selfTestPass (bit : Nat)
  /-- READY_FALL (R406): A READY bit falls and an error record is written. -/
  | readyFall (bit : Nat)
  /-- CONTEXT_CREATE (R409): A CTXDB descriptor with OP 0 creates a context and grants its units. -/
  | contextCreate (descriptor : Nat)
  /-- CONTEXT_REGRANT (R409): A CTXDB descriptor with OP 1 changes a live context's grants, saving and scrubbing removed units. -/
  | contextRegrant (descriptor : Nat)
  /-- CONTEXT_DESTROY (R409): A CTXDB descriptor with OP 2 ends a context and frees its units and ASID. -/
  | contextDestroy (descriptor : Nat)
  /-- PODCFG_WRITE (R407): A PODCFG write sets the pod number and order and locks, releasing module ports from reset. -/
  | podcfgWrite (width : Nat) (value : BitVec 64)
  /-- TODSTEP_WRITE (R411): A TODSTEP write queues a signed step, adding to any step not yet applied. -/
  | todstepWrite (width : Nat) (value : BitVec 64)
  /-- REGISTER_WRITE (R7): A host write to any other control register follows its access code. -/
  | registerWrite (offset width : Nat) (value : BitVec 64)
  /-- MMP_PAGE_REQUEST (R396): The MMP resolves a page request by filling a frame and writing the leaf, or refuses it. -/
  | mmpPageRequest
  /-- HOST_PAGE_CALL_ANSWER (R397): The host answers a host-page call and the MMP writes the leaf RESIDENT. -/
  | hostPageCallAnswer (asid page hostFrame : Nat)
  /-- HOST_CALL_TIMEOUT (R397): A host call is unanswered within the context's host timeout and the request is refused. -/
  | hostCallTimeout (asid page : Nat)
  /-- MIGRATING_WAIT_TIMEOUT (R395): An access waits 200 us on a MIGRATING entry and takes PAGE_FAULT. -/
  | migratingWaitTimeout (core op : Nat)
  /-- MMP_MAP (R397): On the host's request, the MMP writes leaves mapping a context range. -/
  | mmpMap (asid : Nat) (va : BitVec 64) (leaf : BitVec 64) (level : Nat)
  /-- MMP_UNMAP (R398): On the host's request, the MMP removes leaves with shootdowns. -/
  | mmpUnmap (asid : Nat) (va : BitVec 64)
  /-- MMP_PROTECT (R398): On the host's request, the MMP changes page permissions. -/
  | mmpProtect (asid : Nat) (va : BitVec 64) (r w x : Bool)
  /-- MMP_PLACE (R397): On the host's request, the MMP moves pages to a stack or slice and sets a stack core's near window. -/
  | mmpPlace (asid : Nat) (target : PlaceTarget)
  /-- MMP_EVICT (R397): On the host's request, the MMP writes a page to host memory and sets it NOTRES. -/
  | mmpEvict (asid : Nat) (va : BitVec 64) (hostFrame : Nat)
  /-- MMP_CREATE_KV_SPACE (R237): On the host's request, the MMP fills a KV space descriptor and its directories. -/
  | mmpCreateKvSpace (asid space nseq nlayer nhead npage dhg : Nat)
  /-- MMP_CREATE_REGION (R397): On the host's request, the MMP enters a region and marks its pages. -/
  | mmpCreateRegion (asid region : Nat) (va : BitVec 64) (length : Nat)
  /-- MMP_SAVE_AREAS (R382): On the host's request, the MMP takes a virtual range and frames for save areas. -/
  | mmpSaveAreas (asid : Nat) (va : BitVec 64) (count : Nat)
  /-- MMP_PIN (R397): On the host's request, the MMP pins pages. -/
  | mmpPin (asid : Nat) (va : BitVec 64)
  /-- MMP_MIGRATE (R398): The MMP migrates a page through MIGRATING, a shootdown and a copy. -/
  | mmpMigrate (asid : Nat) (va : BitVec 64) (frame : Nat) (finish : Bool)
  /-- SHOOTDOWN (R399): A receiver drops matching entries, performs its in-flight accesses and acknowledges. -/
  | shootdown (receiver : Nat)
  /-- PORT_TRAINING_COMPLETE (R318): A port that has left reset finishes its first training and comes up at x16 or the first whole width, after which its module profile block is checked. -/
  | portTrainingComplete (port : Nat) (width : Nat)
  deriving DecidableEq, Repr, Inhabited

end Sys2Proof
end

