-- ==== Sys2Proof/Machine/Decoding.lean ====
section
/-! DEFINITION. What the machine itself reads from an instruction word's bits before it decodes it: the word that twelve
bytes make, its opcode and fields, and whether it is a permitted landing place. -/

namespace Sys2Proof

/-- The 96-bit word that twelve bytes make, the lowest address first (R5). -/
def wordOfBytes (bs : List Byte) : BitVec 96 := BitVec.ofNat 96 (leNat bs)

/-- A permitted target of an indirect branch: NOP with LAND, MOD[0], set (R107, R108). -/
def isLanding (w : BitVec 96) : Bool := w.extractLsb' 86 10 == 0 && w.getLsbD 30

/-- The control fields of a word (R36). -/
def ctlOf (w : BitVec 96) : Ctl :=
  { g := w.extractLsb' 25 5, stall := w.extractLsb' 21 4, wait := w.extractLsb' 9 12, setf := w.extractLsb' 5 4,
    reuse := w.extractLsb' 2 3, yld := w.getLsbD 1, pair := w.getLsbD 0 }

/-- The fields of an R-form word (R36). -/
def rOf (w : BitVec 96) : RWord :=
  { d := w.extractLsb' 76 10, a := w.extractLsb' 66 10, b := w.extractLsb' 56 10, mod := w.extractLsb' 30 26,
    ctl := ctlOf w }

/-- The opcode of a word (R36). -/
def opcOf (w : BitVec 96) : BitVec 10 := w.extractLsb' 86 10

end Sys2Proof
end

