-- ==== Sys2Proof/Machine/Fn.lean ====
section
/-! DEFINITION. The names of the functions of the opcode map (R57) without their operands, and the body of an
instruction word. Everything that the machine keeps about a word in flight names its function by these. -/

namespace Sys2Proof

/-- A function of the opcode map, those that share an opcode told apart by the bits of their entry. -/
inductive Fn where
  | nop
  | bra
  | brx
  | bru
  | call
  | callx
  | ret
  | exit
  | merge
  | loop
  | yield
  | pushp
  | invp
  | popp
  | pand
  | por
  | pxor
  | pnot
  | pmov
  | p2v
  | v2p
  | vote
  | iadd
  | iaddImm
  | isub
  | imul
  | imulImm
  | imad
  | imulhi
  | imin
  | imax
  | iabs
  | ineg
  | andB
  | andImm
  | orB
  | orImm
  | xorB
  | xorImm
  | notB
  | shl
  | shlImm
  | shr
  | shrImm
  | rot
  | icmp
  | icmpImm
  | sel
  | mov
  | movImm
  | popc
  | clz
  | ctz
  | brev
  | bfe
  | bfi
  | lea
  | leaImm
  | vread
  | vwrite
  | sadd
  | saddImm
  | ssub
  | smul
  | sand
  | sor
  | sxor
  | sshl
  | sshr
  | scmp
  | smov
  | smovImm
  | ssel
  | fadd
  | faddImm
  | fsub
  | fmul
  | fmulImm
  | fma
  | fmin
  | fmax
  | fabs
  | fneg
  | fcmp
  | fcmpImm
  | fclass
  | flgrd
  | flgwr
  | flgclr
  | cvt
  | qcvt
  | dqcvt
  | pack
  | unpack
  | scale
  | amax
  | exp2
  | log2
  | rcp
  | rsq
  | sqrt
  | stq
  | ldq
  | srseed
  | dot4
  | dot8
  | dot2
  | padd
  | psub
  | pmin
  | pmax
  | shrRnd
  | shrSat
  | shrRndImm
  | slide
  | slideImm
  | shfl
  | shflImm
  | bcast
  | red
  | scan
  | topkIns
  | topkClr
  | ld
  | st
  | ldNf
  | pgreq
  | lds
  | sts
  | ldg
  | stg
  | ldW
  | wsref
  | atom
  | atoms
  | pref
  | aadd
  | aaddImm
  | asub
  | amul
  | ashl
  | ashr
  | aand
  | amov
  | amovImm
  | acmp
  | abr
  | abrq
  | qld
  | qldg
  | qpop
  | qpush
  | slip
  | aexit
  | shld
  | shst
  | shset
  | cpt
  | cptm
  | cpl
  | cpw
  | waitall
  | waitany
  | tagfind
  | tagclr
  | waitc
  | mma
  | mmaV
  | mfence
  | mwait
  | tseqInit
  | tseqNext
  | tzero
  | tld
  | tst
  | tcvt
  | cbld
  | wbld
  | mmov
  | mmovImm
  | madd
  | maddImm
  | mcmp
  | mbr
  | mbarArv
  | mbarWait
  | mbarSync
  | mexit
  | kldK
  | kldV
  | kst
  | kprobe
  | kmap
  | kunmap
  | kvsel
  | nmx
  | nmxb
  | nmxr
  | nmxc
  | rclaim
  | rrel
  | bdmaLd
  | bdmaSt
  | xld
  | xst
  | zld
  | zst
  | zadd
  | zsub
  | zmul
  | zmin
  | zmax
  | zcmp
  | zsel
  | zcvt
  | zbcast
  | zred
  | zmov
  | cmdend
  | fence
  | ldAcq
  | stRel
  | atomg
  | barArv
  | barWait
  | barSync
  | barInit
  | sigAdd
  | sigWait
  | sigRd
  | acqr
  | relr
  | wb
  | inv
  | wbinv
  | pin
  | unpin
  | rgnq
  | mqPush
  | mqPop
  | matom
  | mred
  | mflagSet
  | mflagWait
  | colRs
  | colAg
  | colWait
  | grpForm
  | grpStat
  | replay
  | xchPush
  | lnkStat
  | launch
  | launchg
  | nqPush
  | nqFlush
  | nqStat
  | sigSet
  | trap
  | rtt
  | rttNext
  | rttEnd
  | rttSaved
  | rttRpl
  | ctxsv
  | ctxld
  | timer
  | timerrd
  | snap
  | sysrd
  | syswr
  | scrub
  deriving DecidableEq, Repr, Inhabited

/-- The body of an instruction word (R36, R44), or none for an event of the machine. -/
inductive Body where
  | r (w : RWord)
  | i (w : IWord)
  | event
  deriving DecidableEq, Repr, Inhabited

/-- The D field of a body. -/
def Body.dIdx (b : Body) : Nat :=
  match b with
  | .r w => w.d.toNat
  | .i w => w.d.toNat
  | .event => 0

/-- The opcode of a function: class × 64 + function (R57). -/
def Fn.opc (f : Fn) : BitVec 10 :=
  match f with
  | .nop => 0x000
  | .bra => 0x001
  | .brx => 0x002
  | .bru => 0x003
  | .call => 0x004
  | .callx => 0x005
  | .ret => 0x006
  | .exit => 0x007
  | .merge => 0x008
  | .loop => 0x009
  | .yield => 0x00A
  | .pushp => 0x00B
  | .invp => 0x00C
  | .popp => 0x00D
  | .pand => 0x00E
  | .por => 0x00F
  | .pxor => 0x010
  | .pnot => 0x011
  | .pmov => 0x012
  | .p2v => 0x013
  | .v2p => 0x014
  | .vote => 0x015
  | .iadd => 0x040
  | .iaddImm => 0x041
  | .isub => 0x042
  | .imul => 0x043
  | .imulImm => 0x044
  | .imad => 0x045
  | .imulhi => 0x046
  | .imin => 0x047
  | .imax => 0x048
  | .iabs => 0x049
  | .ineg => 0x04A
  | .andB => 0x04B
  | .andImm => 0x04C
  | .orB => 0x04D
  | .orImm => 0x04E
  | .xorB => 0x04F
  | .xorImm => 0x050
  | .notB => 0x051
  | .shl => 0x052
  | .shlImm => 0x053
  | .shr => 0x054
  | .shrImm => 0x055
  | .rot => 0x056
  | .icmp => 0x057
  | .icmpImm => 0x058
  | .sel => 0x059
  | .mov => 0x05A
  | .movImm => 0x05B
  | .popc => 0x05C
  | .clz => 0x05D
  | .ctz => 0x05E
  | .brev => 0x05F
  | .bfe => 0x060
  | .bfi => 0x061
  | .lea => 0x062
  | .leaImm => 0x063
  | .vread => 0x064
  | .vwrite => 0x065
  | .sadd => 0x068
  | .saddImm => 0x069
  | .ssub => 0x06A
  | .smul => 0x06B
  | .sand => 0x06C
  | .sor => 0x06D
  | .sxor => 0x06E
  | .sshl => 0x06F
  | .sshr => 0x070
  | .scmp => 0x071
  | .smov => 0x072
  | .smovImm => 0x073
  | .ssel => 0x074
  | .fadd => 0x080
  | .faddImm => 0x081
  | .fsub => 0x082
  | .fmul => 0x083
  | .fmulImm => 0x084
  | .fma => 0x085
  | .fmin => 0x086
  | .fmax => 0x087
  | .fabs => 0x088
  | .fneg => 0x089
  | .fcmp => 0x08A
  | .fcmpImm => 0x08B
  | .fclass => 0x08C
  | .flgrd => 0x08D
  | .flgwr => 0x08E
  | .flgclr => 0x08F
  | .cvt => 0x0C0
  | .qcvt => 0x0C1
  | .dqcvt => 0x0C2
  | .pack => 0x0C3
  | .unpack => 0x0C4
  | .scale => 0x0C5
  | .amax => 0x0C6
  | .exp2 => 0x0C7
  | .log2 => 0x0C8
  | .rcp => 0x0C9
  | .rsq => 0x0CA
  | .sqrt => 0x0CB
  | .stq => 0x0CC
  | .ldq => 0x0CD
  | .srseed => 0x0CE
  | .dot4 => 0x100
  | .dot8 => 0x101
  | .dot2 => 0x102
  | .padd => 0x103
  | .psub => 0x104
  | .pmin => 0x105
  | .pmax => 0x106
  | .shrRnd => 0x107
  | .shrSat => 0x107
  | .shrRndImm => 0x108
  | .slide => 0x109
  | .slideImm => 0x10A
  | .shfl => 0x10B
  | .shflImm => 0x10C
  | .bcast => 0x10D
  | .red => 0x10E
  | .scan => 0x10F
  | .topkIns => 0x110
  | .topkClr => 0x111
  | .ld => 0x140
  | .st => 0x141
  | .ldNf => 0x142
  | .pgreq => 0x143
  | .lds => 0x144
  | .sts => 0x145
  | .ldg => 0x146
  | .stg => 0x147
  | .ldW => 0x148
  | .wsref => 0x149
  | .atom => 0x14A
  | .atoms => 0x14B
  | .pref => 0x14C
  | .aadd => 0x180
  | .aaddImm => 0x181
  | .asub => 0x182
  | .amul => 0x183
  | .ashl => 0x184
  | .ashr => 0x185
  | .aand => 0x186
  | .amov => 0x187
  | .amovImm => 0x188
  | .acmp => 0x189
  | .abr => 0x18A
  | .abrq => 0x18B
  | .qld => 0x18C
  | .qldg => 0x18D
  | .qpop => 0x18E
  | .qpush => 0x18F
  | .slip => 0x190
  | .aexit => 0x191
  | .shld => 0x1C0
  | .shst => 0x1C1
  | .shset => 0x1C2
  | .cpt => 0x1C3
  | .cptm => 0x1C4
  | .cpl => 0x1C5
  | .cpw => 0x1C6
  | .waitall => 0x1C7
  | .waitany => 0x1C8
  | .tagfind => 0x1C9
  | .tagclr => 0x1CA
  | .waitc => 0x1CB
  | .mma => 0x200
  | .mmaV => 0x201
  | .mfence => 0x202
  | .mwait => 0x203
  | .tseqInit => 0x204
  | .tseqNext => 0x204
  | .tzero => 0x205
  | .tld => 0x206
  | .tst => 0x207
  | .tcvt => 0x208
  | .cbld => 0x209
  | .wbld => 0x20A
  | .mmov => 0x20B
  | .mmovImm => 0x20C
  | .madd => 0x20D
  | .maddImm => 0x20E
  | .mcmp => 0x20F
  | .mbr => 0x210
  | .mbarArv => 0x211
  | .mbarWait => 0x211
  | .mbarSync => 0x211
  | .mexit => 0x212
  | .kldK => 0x240
  | .kldV => 0x241
  | .kst => 0x242
  | .kprobe => 0x243
  | .kmap => 0x244
  | .kunmap => 0x245
  | .kvsel => 0x246
  | .nmx => 0x280
  | .nmxb => 0x281
  | .nmxr => 0x282
  | .nmxc => 0x283
  | .rclaim => 0x2A0
  | .rrel => 0x2A1
  | .bdmaLd => 0x2A2
  | .bdmaSt => 0x2A3
  | .xld => 0x2A4
  | .xst => 0x2A5
  | .zld => 0x2A6
  | .zst => 0x2A7
  | .zadd => 0x2A8
  | .zsub => 0x2A9
  | .zmul => 0x2AA
  | .zmin => 0x2AB
  | .zmax => 0x2AC
  | .zcmp => 0x2AD
  | .zsel => 0x2AE
  | .zcvt => 0x2AF
  | .zbcast => 0x2B0
  | .zred => 0x2B1
  | .zmov => 0x2B2
  | .cmdend => 0x2B3
  | .fence => 0x2C0
  | .ldAcq => 0x2C1
  | .stRel => 0x2C2
  | .atomg => 0x2C3
  | .barArv => 0x2C4
  | .barWait => 0x2C5
  | .barSync => 0x2C6
  | .barInit => 0x2C7
  | .sigAdd => 0x2C8
  | .sigWait => 0x2C9
  | .sigRd => 0x2CA
  | .acqr => 0x300
  | .relr => 0x301
  | .wb => 0x302
  | .inv => 0x303
  | .wbinv => 0x304
  | .pin => 0x305
  | .unpin => 0x306
  | .rgnq => 0x307
  | .mqPush => 0x340
  | .mqPop => 0x341
  | .matom => 0x342
  | .mred => 0x343
  | .mflagSet => 0x344
  | .mflagWait => 0x345
  | .colRs => 0x346
  | .colAg => 0x347
  | .colWait => 0x348
  | .grpForm => 0x349
  | .grpStat => 0x34A
  | .replay => 0x34B
  | .xchPush => 0x34C
  | .lnkStat => 0x34D
  | .launch => 0x380
  | .launchg => 0x381
  | .nqPush => 0x382
  | .nqFlush => 0x383
  | .nqStat => 0x384
  | .sigSet => 0x385
  | .trap => 0x3C0
  | .rtt => 0x3C1
  | .rttNext => 0x3C1
  | .rttEnd => 0x3C1
  | .rttSaved => 0x3C1
  | .rttRpl => 0x3C2
  | .ctxsv => 0x3C3
  | .ctxld => 0x3C4
  | .timer => 0x3C5
  | .timerrd => 0x3C6
  | .snap => 0x3C7
  | .sysrd => 0x3C8
  | .syswr => 0x3C9
  | .scrub => 0x3CA

/-- The function of an instruction; none for the machine's own events. -/
def fnOf (i : Instr) : Option Fn :=
  match i with
  | .nop _ => some .nop
  | .bra _ => some .bra
  | .brx _ => some .brx
  | .bru _ => some .bru
  | .call _ => some .call
  | .callx _ => some .callx
  | .ret _ => some .ret
  | .exit _ => some .exit
  | .merge _ => some .merge
  | .mergeStep _ _ => none
  | .loop _ => some .loop
  | .yield _ => some .yield
  | .pushp _ => some .pushp
  | .invp _ => some .invp
  | .popp _ => some .popp
  | .pand _ => some .pand
  | .por _ => some .por
  | .pxor _ => some .pxor
  | .pnot _ => some .pnot
  | .pmov _ => some .pmov
  | .p2v _ => some .p2v
  | .v2p _ => some .v2p
  | .vote _ => some .vote
  | .iadd _ => some .iadd
  | .iaddImm _ => some .iaddImm
  | .isub _ => some .isub
  | .imul _ => some .imul
  | .imulImm _ => some .imulImm
  | .imad _ => some .imad
  | .imulhi _ => some .imulhi
  | .imin _ => some .imin
  | .imax _ => some .imax
  | .iabs _ => some .iabs
  | .ineg _ => some .ineg
  | .andB _ => some .andB
  | .andImm _ => some .andImm
  | .orB _ => some .orB
  | .orImm _ => some .orImm
  | .xorB _ => some .xorB
  | .xorImm _ => some .xorImm
  | .notB _ => some .notB
  | .shl _ => some .shl
  | .shlImm _ => some .shlImm
  | .shr _ => some .shr
  | .shrImm _ => some .shrImm
  | .rot _ => some .rot
  | .icmp _ => some .icmp
  | .icmpImm _ => some .icmpImm
  | .sel _ => some .sel
  | .mov _ => some .mov
  | .movImm _ => some .movImm
  | .popc _ => some .popc
  | .clz _ => some .clz
  | .ctz _ => some .ctz
  | .brev _ => some .brev
  | .bfe _ => some .bfe
  | .bfi _ => some .bfi
  | .lea _ => some .lea
  | .leaImm _ => some .leaImm
  | .vread _ => some .vread
  | .vwrite _ => some .vwrite
  | .sadd _ => some .sadd
  | .saddImm _ => some .saddImm
  | .ssub _ => some .ssub
  | .smul _ => some .smul
  | .sand _ => some .sand
  | .sor _ => some .sor
  | .sxor _ => some .sxor
  | .sshl _ => some .sshl
  | .sshr _ => some .sshr
  | .scmp _ => some .scmp
  | .smov _ => some .smov
  | .smovImm _ => some .smovImm
  | .ssel _ => some .ssel
  | .fadd _ => some .fadd
  | .faddImm _ => some .faddImm
  | .fsub _ => some .fsub
  | .fmul _ => some .fmul
  | .fmulImm _ => some .fmulImm
  | .fma _ => some .fma
  | .fmin _ => some .fmin
  | .fmax _ => some .fmax
  | .fabs _ => some .fabs
  | .fneg _ => some .fneg
  | .fcmp _ => some .fcmp
  | .fcmpImm _ => some .fcmpImm
  | .fclass _ => some .fclass
  | .flgrd _ => some .flgrd
  | .flgwr _ => some .flgwr
  | .flgclr _ => some .flgclr
  | .cvt _ => some .cvt
  | .qcvt _ => some .qcvt
  | .dqcvt _ => some .dqcvt
  | .pack _ => some .pack
  | .unpack _ => some .unpack
  | .scale _ => some .scale
  | .amax _ => some .amax
  | .exp2 _ => some .exp2
  | .log2 _ => some .log2
  | .rcp _ => some .rcp
  | .rsq _ => some .rsq
  | .sqrt _ => some .sqrt
  | .stq _ => some .stq
  | .ldq _ => some .ldq
  | .srseed _ => some .srseed
  | .dot4 _ => some .dot4
  | .dot8 _ => some .dot8
  | .dot2 _ => some .dot2
  | .padd _ => some .padd
  | .psub _ => some .psub
  | .pmin _ => some .pmin
  | .pmax _ => some .pmax
  | .shrRnd _ => some .shrRnd
  | .shrSat _ => some .shrSat
  | .shrRndImm _ => some .shrRndImm
  | .slide _ => some .slide
  | .slideImm _ => some .slideImm
  | .shfl _ => some .shfl
  | .shflImm _ => some .shflImm
  | .bcast _ => some .bcast
  | .red _ => some .red
  | .scan _ => some .scan
  | .topkIns _ => some .topkIns
  | .topkClr _ => some .topkClr
  | .ld _ => some .ld
  | .st _ => some .st
  | .ldNf _ => some .ldNf
  | .pgreq _ => some .pgreq
  | .lds _ => some .lds
  | .sts _ => some .sts
  | .ldg _ => some .ldg
  | .stg _ => some .stg
  | .ldW _ => some .ldW
  | .wsref _ => some .wsref
  | .atom _ => some .atom
  | .atoms _ => some .atoms
  | .pref _ => some .pref
  | .aadd _ => some .aadd
  | .aaddImm _ => some .aaddImm
  | .asub _ => some .asub
  | .amul _ => some .amul
  | .ashl _ => some .ashl
  | .ashr _ => some .ashr
  | .aand _ => some .aand
  | .amov _ => some .amov
  | .amovImm _ => some .amovImm
  | .acmp _ => some .acmp
  | .abr _ => some .abr
  | .abrq _ => some .abrq
  | .qld _ => some .qld
  | .qldg _ => some .qldg
  | .qpop _ => some .qpop
  | .qpush _ => some .qpush
  | .slip _ => some .slip
  | .aexit _ => some .aexit
  | .shld _ => some .shld
  | .shst _ => some .shst
  | .shset _ => some .shset
  | .cpt _ => some .cpt
  | .cptm _ => some .cptm
  | .cpl _ => some .cpl
  | .cpw _ => some .cpw
  | .waitall _ => some .waitall
  | .waitany _ => some .waitany
  | .tagfind _ => some .tagfind
  | .tagclr _ => some .tagclr
  | .waitc _ => some .waitc
  | .mma _ => some .mma
  | .mmaV _ => some .mmaV
  | .mfence _ => some .mfence
  | .mwait _ => some .mwait
  | .tseqInit _ => some .tseqInit
  | .tseqNext _ => some .tseqNext
  | .tzero _ => some .tzero
  | .tld _ => some .tld
  | .tst _ => some .tst
  | .tcvt _ => some .tcvt
  | .cbld _ => some .cbld
  | .wbld _ => some .wbld
  | .mmov _ => some .mmov
  | .mmovImm _ => some .mmovImm
  | .madd _ => some .madd
  | .maddImm _ => some .maddImm
  | .mcmp _ => some .mcmp
  | .mbr _ => some .mbr
  | .mbarArv _ => some .mbarArv
  | .mbarWait _ => some .mbarWait
  | .mbarSync _ => some .mbarSync
  | .mexit _ => some .mexit
  | .kldK _ => some .kldK
  | .kldV _ => some .kldV
  | .kst _ => some .kst
  | .kprobe _ => some .kprobe
  | .kmap _ => some .kmap
  | .kunmap _ => some .kunmap
  | .kvsel _ => some .kvsel
  | .nmx _ => some .nmx
  | .nmxb _ => some .nmxb
  | .nmxr _ => some .nmxr
  | .nmxc _ => some .nmxc
  | .rclaim _ => some .rclaim
  | .rrel _ => some .rrel
  | .bdmaLd _ => some .bdmaLd
  | .bdmaSt _ => some .bdmaSt
  | .xld _ => some .xld
  | .xst _ => some .xst
  | .zld _ => some .zld
  | .zst _ => some .zst
  | .zadd _ => some .zadd
  | .zsub _ => some .zsub
  | .zmul _ => some .zmul
  | .zmin _ => some .zmin
  | .zmax _ => some .zmax
  | .zcmp _ => some .zcmp
  | .zsel _ => some .zsel
  | .zcvt _ => some .zcvt
  | .zbcast _ => some .zbcast
  | .zred _ => some .zred
  | .zmov _ => some .zmov
  | .cmdend _ => some .cmdend
  | .fence _ => some .fence
  | .ldAcq _ => some .ldAcq
  | .stRel _ => some .stRel
  | .atomg _ => some .atomg
  | .barArv _ => some .barArv
  | .barWait _ => some .barWait
  | .barSync _ => some .barSync
  | .barInit _ => some .barInit
  | .sigAdd _ => some .sigAdd
  | .sigWait _ => some .sigWait
  | .sigRd _ => some .sigRd
  | .acqr _ => some .acqr
  | .relr _ => some .relr
  | .wb _ => some .wb
  | .inv _ => some .inv
  | .wbinv _ => some .wbinv
  | .pin _ => some .pin
  | .unpin _ => some .unpin
  | .rgnq _ => some .rgnq
  | .mqPush _ => some .mqPush
  | .mqPop _ => some .mqPop
  | .matom _ => some .matom
  | .mred _ => some .mred
  | .mflagSet _ => some .mflagSet
  | .mflagWait _ => some .mflagWait
  | .colRs _ => some .colRs
  | .colAg _ => some .colAg
  | .colWait _ => some .colWait
  | .grpForm _ => some .grpForm
  | .grpStat _ => some .grpStat
  | .replay _ => some .replay
  | .xchPush _ => some .xchPush
  | .lnkStat _ => some .lnkStat
  | .launch _ => some .launch
  | .launchg _ => some .launchg
  | .nqPush _ => some .nqPush
  | .nqFlush _ => some .nqFlush
  | .nqStat _ => some .nqStat
  | .sigSet _ => some .sigSet
  | .trap _ => some .trap
  | .rtt _ => some .rtt
  | .rttNext _ => some .rttNext
  | .rttEnd _ => some .rttEnd
  | .rttSaved _ => some .rttSaved
  | .rttRpl _ => some .rttRpl
  | .ctxsv _ => some .ctxsv
  | .ctxld _ => some .ctxld
  | .timer _ => some .timer
  | .timerrd _ => some .timerrd
  | .snap _ => some .snap
  | .sysrd _ => some .sysrd
  | .syswr _ => some .syswr
  | .scrub _ => some .scrub
  | .fixedLatencyWriteback _ => none
  | .variableLatencyCompletion _ _ => none
  | .memAccessCompletion _ _ _ _ => none
  | .addressCheckEnd _ _ => none
  | .windowStoreFailure _ _ _ => none
  | .queueLoadCompletion _ _ _ => none
  | .backQueueSlotFull _ _ _ => none
  | .copyCompletion _ _ => none
  | .copyFailure _ _ _ _ _ => none
  | .arrayOperationPerform _ _ => none
  | .arrayOperationCompletion _ => none
  | .mstreamOrphan _ => none
  | .barOrphan _ _ _ => none
  | .blockEnd _ => none
  | .kldWalkEnd _ _ => none
  | .kldCompletion _ _ => none
  | .kvWalkWaitTimeout _ _ => none
  | .kvDataError _ _ _ => none
  | .kvPageEviction _ _ _ _ => none
  | .kvPageRestore _ _ _ _ _ => none
  | .kvPagePoison _ _ _ => none
  | .stackCommandStart _ _ => none
  | .nmxbLoadEntry _ _ _ => none
  | .stackCommandTimeout _ _ => none
  | .stackCommandReport _ _ => none
  | .bankDmaCompletion _ _ _ _ => none
  | .deferralTimeout _ _ _ => none
  | .stackKernelStart _ _ _ _ => none
  | .stackKernelPreempt _ _ => none
  | .stackKernelRestore _ _ => none
  | .l2Eviction _ _ => none
  | .bisnp _ _ => none
  | .hostMemWrite _ _ => none
  | .hostMemRead _ _ => none
  | .acqrTokenGrant _ _ => none
  | .acqrTimeout _ _ => none
  | .relrCompletion _ _ => none
  | .courierRequest _ => none
  | .drainRecord _ _ _ => none
  | .collectiveContribute _ _ _ => none
  | .collectiveGather _ _ => none
  | .collectiveDecision _ _ _ => none
  | .collectiveStatus _ _ _ => none
  | .fabricTimeout _ _ => none
  | .linkLaneFailure _ _ => none
  | .linkRetrainComplete _ _ => none
  | .linkDown _ => none
  | .gateOpen _ => none
  | .blockPlacement => none
  | .launchDone _ => none
  | .batchSubmissionRetry _ _ _ => none
  | .flushTimerExpiry _ _ _ => none
  | .spatialPreemptionRequest _ => none
  | .handlerEntry _ => none
  | .deferredCauseInHandler _ _ _ => none
  | .preempt _ => none
  | .hardwareSave _ => none
  | .handlerSaveTimeout _ => none
  | .hardwareRestore _ => none
  | .resume _ => none
  | .scratchEcc _ => none
  | .registerFileEcc _ _ => none
  | .timerEvent _ _ => none
  | .refreshWindowStart _ => none
  | .refreshWindowEnd _ => none
  | .wsloadWrite _ _ _ => none
  | .weightStoreZeroing _ => none
  | .timetableTick => none
  | .ppsEdge => none
  | .trigPinPulse _ => none
  | .thermalThrottle _ _ => none
  | .thermalShutdown _ => none
  | .reset => none
  | .selfTestPass _ => none
  | .readyFall _ => none
  | .contextCreate _ => none
  | .contextRegrant _ => none
  | .contextDestroy _ => none
  | .podcfgWrite _ _ => none
  | .todstepWrite _ _ => none
  | .registerWrite _ _ _ => none
  | .mmpPageRequest => none
  | .hostPageCallAnswer _ _ _ => none
  | .hostCallTimeout _ _ => none
  | .migratingWaitTimeout _ _ => none
  | .mmpMap _ _ _ _ => none
  | .mmpUnmap _ _ => none
  | .mmpProtect _ _ _ _ _ => none
  | .mmpPlace _ _ => none
  | .mmpEvict _ _ _ => none
  | .mmpCreateKvSpace _ _ _ _ _ _ _ => none
  | .mmpCreateRegion _ _ _ _ => none
  | .mmpSaveAreas _ _ _ => none
  | .mmpPin _ _ => none
  | .mmpMigrate _ _ _ _ => none
  | .shootdown _ => none
  | .portTrainingComplete _ _ => none

/-- The body of an instruction. -/
def bodyOf (i : Instr) : Body :=
  match i with
  | .nop w => .r w
  | .bra w => .i w
  | .brx w => .r w
  | .bru w => .i w
  | .call w => .i w
  | .callx w => .r w
  | .ret w => .r w
  | .exit w => .r w
  | .merge w => .r w
  | .mergeStep _ _ => .event
  | .loop w => .i w
  | .yield w => .r w
  | .pushp w => .r w
  | .invp w => .r w
  | .popp w => .r w
  | .pand w => .r w
  | .por w => .r w
  | .pxor w => .r w
  | .pnot w => .r w
  | .pmov w => .r w
  | .p2v w => .r w
  | .v2p w => .r w
  | .vote w => .r w
  | .iadd w => .r w
  | .iaddImm w => .i w
  | .isub w => .r w
  | .imul w => .r w
  | .imulImm w => .i w
  | .imad w => .r w
  | .imulhi w => .r w
  | .imin w => .r w
  | .imax w => .r w
  | .iabs w => .r w
  | .ineg w => .r w
  | .andB w => .r w
  | .andImm w => .i w
  | .orB w => .r w
  | .orImm w => .i w
  | .xorB w => .r w
  | .xorImm w => .i w
  | .notB w => .r w
  | .shl w => .r w
  | .shlImm w => .i w
  | .shr w => .r w
  | .shrImm w => .i w
  | .rot w => .r w
  | .icmp w => .r w
  | .icmpImm w => .i w
  | .sel w => .r w
  | .mov w => .r w
  | .movImm w => .i w
  | .popc w => .r w
  | .clz w => .r w
  | .ctz w => .r w
  | .brev w => .r w
  | .bfe w => .r w
  | .bfi w => .r w
  | .lea w => .r w
  | .leaImm w => .i w
  | .vread w => .r w
  | .vwrite w => .r w
  | .sadd w => .r w
  | .saddImm w => .i w
  | .ssub w => .r w
  | .smul w => .r w
  | .sand w => .r w
  | .sor w => .r w
  | .sxor w => .r w
  | .sshl w => .r w
  | .sshr w => .r w
  | .scmp w => .r w
  | .smov w => .r w
  | .smovImm w => .i w
  | .ssel w => .r w
  | .fadd w => .r w
  | .faddImm w => .i w
  | .fsub w => .r w
  | .fmul w => .r w
  | .fmulImm w => .i w
  | .fma w => .r w
  | .fmin w => .r w
  | .fmax w => .r w
  | .fabs w => .r w
  | .fneg w => .r w
  | .fcmp w => .r w
  | .fcmpImm w => .i w
  | .fclass w => .r w
  | .flgrd w => .r w
  | .flgwr w => .r w
  | .flgclr w => .r w
  | .cvt w => .r w
  | .qcvt w => .r w
  | .dqcvt w => .r w
  | .pack w => .r w
  | .unpack w => .r w
  | .scale w => .r w
  | .amax w => .r w
  | .exp2 w => .r w
  | .log2 w => .r w
  | .rcp w => .r w
  | .rsq w => .r w
  | .sqrt w => .r w
  | .stq w => .r w
  | .ldq w => .r w
  | .srseed w => .r w
  | .dot4 w => .r w
  | .dot8 w => .r w
  | .dot2 w => .r w
  | .padd w => .r w
  | .psub w => .r w
  | .pmin w => .r w
  | .pmax w => .r w
  | .shrRnd w => .r w
  | .shrSat w => .r w
  | .shrRndImm w => .i w
  | .slide w => .r w
  | .slideImm w => .i w
  | .shfl w => .r w
  | .shflImm w => .i w
  | .bcast w => .r w
  | .red w => .r w
  | .scan w => .r w
  | .topkIns w => .r w
  | .topkClr w => .r w
  | .ld w => .r w
  | .st w => .r w
  | .ldNf w => .r w
  | .pgreq w => .r w
  | .lds w => .r w
  | .sts w => .r w
  | .ldg w => .r w
  | .stg w => .r w
  | .ldW w => .r w
  | .wsref w => .r w
  | .atom w => .r w
  | .atoms w => .r w
  | .pref w => .r w
  | .aadd w => .r w
  | .aaddImm w => .i w
  | .asub w => .r w
  | .amul w => .r w
  | .ashl w => .r w
  | .ashr w => .r w
  | .aand w => .r w
  | .amov w => .r w
  | .amovImm w => .i w
  | .acmp w => .r w
  | .abr w => .i w
  | .abrq w => .i w
  | .qld w => .r w
  | .qldg w => .r w
  | .qpop w => .r w
  | .qpush w => .r w
  | .slip w => .r w
  | .aexit w => .r w
  | .shld w => .r w
  | .shst w => .r w
  | .shset w => .r w
  | .cpt w => .r w
  | .cptm w => .r w
  | .cpl w => .r w
  | .cpw w => .r w
  | .waitall w => .r w
  | .waitany w => .r w
  | .tagfind w => .r w
  | .tagclr w => .r w
  | .waitc w => .r w
  | .mma w => .r w
  | .mmaV w => .r w
  | .mfence w => .r w
  | .mwait w => .r w
  | .tseqInit w => .r w
  | .tseqNext w => .r w
  | .tzero w => .r w
  | .tld w => .r w
  | .tst w => .r w
  | .tcvt w => .r w
  | .cbld w => .r w
  | .wbld w => .r w
  | .mmov w => .r w
  | .mmovImm w => .i w
  | .madd w => .r w
  | .maddImm w => .i w
  | .mcmp w => .r w
  | .mbr w => .i w
  | .mbarArv w => .r w
  | .mbarWait w => .r w
  | .mbarSync w => .r w
  | .mexit w => .r w
  | .kldK w => .r w
  | .kldV w => .r w
  | .kst w => .r w
  | .kprobe w => .r w
  | .kmap w => .r w
  | .kunmap w => .r w
  | .kvsel w => .r w
  | .nmx w => .r w
  | .nmxb w => .r w
  | .nmxr w => .r w
  | .nmxc w => .r w
  | .rclaim w => .r w
  | .rrel w => .r w
  | .bdmaLd w => .r w
  | .bdmaSt w => .r w
  | .xld w => .r w
  | .xst w => .r w
  | .zld w => .r w
  | .zst w => .r w
  | .zadd w => .r w
  | .zsub w => .r w
  | .zmul w => .r w
  | .zmin w => .r w
  | .zmax w => .r w
  | .zcmp w => .r w
  | .zsel w => .r w
  | .zcvt w => .r w
  | .zbcast w => .r w
  | .zred w => .r w
  | .zmov w => .r w
  | .cmdend w => .r w
  | .fence w => .r w
  | .ldAcq w => .r w
  | .stRel w => .r w
  | .atomg w => .r w
  | .barArv w => .r w
  | .barWait w => .r w
  | .barSync w => .r w
  | .barInit w => .r w
  | .sigAdd w => .r w
  | .sigWait w => .r w
  | .sigRd w => .r w
  | .acqr w => .r w
  | .relr w => .r w
  | .wb w => .r w
  | .inv w => .r w
  | .wbinv w => .r w
  | .pin w => .r w
  | .unpin w => .r w
  | .rgnq w => .r w
  | .mqPush w => .r w
  | .mqPop w => .r w
  | .matom w => .r w
  | .mred w => .r w
  | .mflagSet w => .r w
  | .mflagWait w => .r w
  | .colRs w => .r w
  | .colAg w => .r w
  | .colWait w => .r w
  | .grpForm w => .r w
  | .grpStat w => .r w
  | .replay w => .r w
  | .xchPush w => .r w
  | .lnkStat w => .r w
  | .launch w => .r w
  | .launchg w => .r w
  | .nqPush w => .r w
  | .nqFlush w => .r w
  | .nqStat w => .r w
  | .sigSet w => .r w
  | .trap w => .r w
  | .rtt w => .r w
  | .rttNext w => .r w
  | .rttEnd w => .r w
  | .rttSaved w => .r w
  | .rttRpl w => .r w
  | .ctxsv w => .r w
  | .ctxld w => .r w
  | .timer w => .r w
  | .timerrd w => .r w
  | .snap w => .r w
  | .sysrd w => .r w
  | .syswr w => .r w
  | .scrub w => .r w
  | .fixedLatencyWriteback _ => .event
  | .variableLatencyCompletion _ _ => .event
  | .memAccessCompletion _ _ _ _ => .event
  | .addressCheckEnd _ _ => .event
  | .windowStoreFailure _ _ _ => .event
  | .queueLoadCompletion _ _ _ => .event
  | .backQueueSlotFull _ _ _ => .event
  | .copyCompletion _ _ => .event
  | .copyFailure _ _ _ _ _ => .event
  | .arrayOperationPerform _ _ => .event
  | .arrayOperationCompletion _ => .event
  | .mstreamOrphan _ => .event
  | .barOrphan _ _ _ => .event
  | .blockEnd _ => .event
  | .kldWalkEnd _ _ => .event
  | .kldCompletion _ _ => .event
  | .kvWalkWaitTimeout _ _ => .event
  | .kvDataError _ _ _ => .event
  | .kvPageEviction _ _ _ _ => .event
  | .kvPageRestore _ _ _ _ _ => .event
  | .kvPagePoison _ _ _ => .event
  | .stackCommandStart _ _ => .event
  | .nmxbLoadEntry _ _ _ => .event
  | .stackCommandTimeout _ _ => .event
  | .stackCommandReport _ _ => .event
  | .bankDmaCompletion _ _ _ _ => .event
  | .deferralTimeout _ _ _ => .event
  | .stackKernelStart _ _ _ _ => .event
  | .stackKernelPreempt _ _ => .event
  | .stackKernelRestore _ _ => .event
  | .l2Eviction _ _ => .event
  | .bisnp _ _ => .event
  | .hostMemWrite _ _ => .event
  | .hostMemRead _ _ => .event
  | .acqrTokenGrant _ _ => .event
  | .acqrTimeout _ _ => .event
  | .relrCompletion _ _ => .event
  | .courierRequest _ => .event
  | .drainRecord _ _ _ => .event
  | .collectiveContribute _ _ _ => .event
  | .collectiveGather _ _ => .event
  | .collectiveDecision _ _ _ => .event
  | .collectiveStatus _ _ _ => .event
  | .fabricTimeout _ _ => .event
  | .linkLaneFailure _ _ => .event
  | .linkRetrainComplete _ _ => .event
  | .linkDown _ => .event
  | .gateOpen _ => .event
  | .blockPlacement => .event
  | .launchDone _ => .event
  | .batchSubmissionRetry _ _ _ => .event
  | .flushTimerExpiry _ _ _ => .event
  | .spatialPreemptionRequest _ => .event
  | .handlerEntry _ => .event
  | .deferredCauseInHandler _ _ _ => .event
  | .preempt _ => .event
  | .hardwareSave _ => .event
  | .handlerSaveTimeout _ => .event
  | .hardwareRestore _ => .event
  | .resume _ => .event
  | .scratchEcc _ => .event
  | .registerFileEcc _ _ => .event
  | .timerEvent _ _ => .event
  | .refreshWindowStart _ => .event
  | .refreshWindowEnd _ => .event
  | .wsloadWrite _ _ _ => .event
  | .weightStoreZeroing _ => .event
  | .timetableTick => .event
  | .ppsEdge => .event
  | .trigPinPulse _ => .event
  | .thermalThrottle _ _ => .event
  | .thermalShutdown _ => .event
  | .reset => .event
  | .selfTestPass _ => .event
  | .readyFall _ => .event
  | .contextCreate _ => .event
  | .contextRegrant _ => .event
  | .contextDestroy _ => .event
  | .podcfgWrite _ _ => .event
  | .todstepWrite _ _ => .event
  | .registerWrite _ _ _ => .event
  | .mmpPageRequest => .event
  | .hostPageCallAnswer _ _ _ => .event
  | .hostCallTimeout _ _ => .event
  | .migratingWaitTimeout _ _ => .event
  | .mmpMap _ _ _ _ => .event
  | .mmpUnmap _ _ => .event
  | .mmpProtect _ _ _ _ _ => .event
  | .mmpPlace _ _ => .event
  | .mmpEvict _ _ _ => .event
  | .mmpCreateKvSpace _ _ _ _ _ _ _ => .event
  | .mmpCreateRegion _ _ _ _ => .event
  | .mmpSaveAreas _ _ _ => .event
  | .mmpPin _ _ => .event
  | .mmpMigrate _ _ _ _ => .event
  | .shootdown _ => .event
  | .portTrainingComplete _ _ => .event

end Sys2Proof
end

