-- ==== Sys2Proof/Machine/Num.lean ====
section
/-! DEFINITION. Number formats, rounding and exception conditions (chapter "Number formats, tags and the order of
sums", R66 to R76, R79, R95, R127): every float is decoded to an exact number, every operation is exact on those, and
the result is rounded once. -/

namespace Sys2Proof.Machine

/-- A float format (R66): exponent and mantissa widths, bias, and what the top exponent holds: `ieee` infinities and
NaNs, `e4m3` one NaN code, `e2m1` numbers only. -/
inductive FmtKind where
  | ieee
  | e4m3
  | e2m1
  deriving DecidableEq, Repr, Inhabited

structure Fmt where
  eb : Nat
  mb : Nat
  bias : Nat
  kind : FmtKind
  deriving DecidableEq, Repr, Inhabited

/-- The format of a float TYPE code (R43, R66). -/
def fmtOf (ty : Nat) : Fmt :=
  match ty with
  | 8 => ⟨8, 23, 127, .ieee⟩
  | 9 => ⟨5, 10, 15, .ieee⟩
  | 10 => ⟨8, 7, 127, .ieee⟩
  | 11 => ⟨4, 3, 7, .e4m3⟩
  | 12 => ⟨5, 2, 15, .ieee⟩
  | _ => ⟨2, 1, 1, .e2m1⟩

/-- The width of a TYPE code in bits (R43). -/
def tyWidth (ty : Nat) : Nat :=
  match ty with
  | 0 | 1 | 8 => 32
  | 2 | 3 | 9 | 10 => 16
  | 4 | 5 | 11 | 12 => 8
  | 6 | 7 => 64
  | _ => 4

/-- Whether a TYPE code is a float type (R43). -/
def tyFloat (ty : Nat) : Bool := decide (8 ≤ ty) && decide (ty ≤ 13)

/-- Whether a TYPE code is a two's-complement integer type (R43). -/
def tySigned (ty : Nat) : Bool := ty == 0 || ty == 2 || ty == 4 || ty == 6 || ty == 14

/-- The tag that a TYPE code is written as (R80). -/
def tagOf (ty : Nat) : BitVec 4 :=
  match ty with
  | 0 | 1 => 1
  | 2 | 3 => 2
  | 4 | 5 => 3
  | 14 | 15 => 4
  | 6 | 7 => 5
  | 8 => 6
  | 9 => 7
  | 10 => 8
  | 11 => 9
  | 12 => 10
  | _ => 11

/-- An exact number, or an infinity, or a NaN (signalling or quiet, R127). `fin neg m e` stands for
(−1)^neg × m × 2^e; a zero keeps its sign. -/
inductive Num where
  | nan (sig : Bool)
  | inf (neg : Bool)
  | fin (neg : Bool) (m : Nat) (e : Int)
  deriving DecidableEq, Repr, Inhabited

/-- Rounding modes (R73); `sr u` carries the 16 generator bits of R76. -/
inductive RMode where
  | rn
  | rz
  | rd
  | ru
  | sr (u : Nat)
  deriving DecidableEq, Repr, Inhabited

/-- The mode that RND names (R42). -/
def rmode (rnd : Nat) : RMode :=
  match rnd with
  | 0 => .rn
  | 1 => .rz
  | 2 => .rd
  | _ => .ru

/-- The FLAGS bits of R129. -/
def fNV : Nat := 1
def fDZ : Nat := 2
def fOF : Nat := 4
def fUF : Nat := 8
def fNX : Nat := 16
def fSAT : Nat := 32
def fQSAT : Nat := 64
def fTRL : Nat := 128

/-- The number of bits of a natural number: the place above its highest 1 bit. -/
def bitLen (n : Nat) : Nat := if n = 0 then 0 else n.log2 + 1

/-- The value of an encoding (R66, R67, R127). -/
def decodeF (f : Fmt) (x : Nat) : Num :=
  let m := x % 2 ^ f.mb
  let e := (x / 2 ^ f.mb) % 2 ^ f.eb
  let s := (x / 2 ^ (f.mb + f.eb)) % 2 = 1
  let top := e + 1 = 2 ^ f.eb
  let normal : Num := .fin s (m + 2 ^ f.mb) ((e : Int) - f.bias - f.mb)
  if e = 0 then .fin s m (1 - (f.bias : Int) - f.mb)
  else
    match f.kind with
    | .ieee =>
      if top then (if m = 0 then .inf s else .nan (m / 2 ^ (f.mb - 1) % 2 = 0)) else normal
    | .e4m3 => if top ∧ m = 7 then .nan false else normal
    | .e2m1 => normal

/-- The sign bit of a format at its place. -/
def signBit (f : Fmt) (neg : Bool) : Nat := if neg then 2 ^ (f.mb + f.eb) else 0

/-- The canonical NaN (R66); E2M1 has none and takes +0 (R68). -/
def canonNaN (f : Fmt) : Nat :=
  match f.kind with
  | .ieee => (2 ^ f.eb - 1) * 2 ^ f.mb + 2 ^ (f.mb - 1)
  | .e4m3 => 0x7F
  | .e2m1 => 0

/-- The code of the largest finite magnitude (R66). -/
def maxCode (f : Fmt) : Nat :=
  match f.kind with
  | .ieee => (2 ^ f.eb - 1) * 2 ^ f.mb - 1
  | .e4m3 => 0x7E
  | .e2m1 => 7

/-- The code of infinity, in formats that have one. -/
def infCode (f : Fmt) : Nat := (2 ^ f.eb - 1) * 2 ^ f.mb

/-- Rounding m × 2^e to a multiple of 2^q (R73, R76): how many multiples, and whether that differs from the exact
value. -/
def roundQ (mode : RMode) (neg : Bool) (m : Nat) (e q : Int) : Nat × Bool :=
  if q ≤ e then (m * 2 ^ (e - q).toNat, false)
  else
    let s := (q - e).toNat
    let t := m / 2 ^ s
    let r := m % 2 ^ s
    let up := match mode with
      | .rn => decide (2 ^ s < 2 * r) || (decide (2 * r = 2 ^ s) && decide (t % 2 = 1))
      | .rz => false
      | .rd => neg && decide (r ≠ 0)
      | .ru => !neg && decide (r ≠ 0)
      | .sr u => decide (65536 ≤ r * 65536 / 2 ^ s + u)
    (if up then t + 1 else t, decide (r ≠ 0))

/-- What an overflowing result is (R74): its code and the flags it sets. `conv` marks a conversion or quantising
instruction, where a saturation sets QSAT (R79). -/
def overflowTo (f : Fmt) (mode : RMode) (sat conv neg : Bool) : Nat × Nat :=
  let toMax := signBit f neg + maxCode f
  let maxFlags := fNX + (if conv then fQSAT else 0)
  let big : Nat × Nat := match f.kind with
    | .ieee => (signBit f neg + infCode f, fOF + fNX)
    | .e4m3 => (canonNaN f, fOF + fNX)
    | .e2m1 => (toMax, maxFlags)
  if sat then (toMax, maxFlags)
  else match mode with
    | .rn | .sr _ => big
    | .rz => (toMax, maxFlags)
    | .rd => if neg then big else (toMax, maxFlags)
    | .ru => if neg then (toMax, maxFlags) else big

/-- The ulp exponent of a magnitude with `len` bits and exponent `e`, in a format; `free` as if the exponent range
were unbounded. -/
def ulpExp (f : Fmt) (len : Nat) (e : Int) (free : Bool) : Int :=
  let q := e + len - 1 - f.mb
  let lo := 1 - (f.bias : Int) - f.mb
  if free then q else if q < lo then lo else q

/-- Whether n × 2^q is above the largest finite magnitude of a format (R74). -/
def exceeds (f : Fmt) (n : Nat) (q : Int) : Bool :=
  let maxM := 2 ^ f.mb + maxCode f % 2 ^ f.mb
  let maxE : Int := (maxCode f / 2 ^ f.mb : Nat) - (f.bias : Int) - f.mb
  if maxE ≤ q then decide (maxM < n * 2 ^ (q - maxE).toNat) else decide (maxM * 2 ^ (maxE - q).toNat < n)

/-- Rounding the exact value (−1)^neg × m × 2^e into a format, once (R69, R73, R74, R79). `sticky` tells that the
exact magnitude lies strictly above m × 2^e and below (m + 1) × 2^e. -/
def roundF (f : Fmt) (mode : RMode) (sat conv neg : Bool) (m0 : Nat) (e0 : Int) (sticky : Bool) : Nat × Nat :=
  let m := if sticky then 4 * m0 + 1 else m0
  let e := if sticky then e0 - 2 else e0
  if m = 0 then (signBit f neg, 0)
  else
    let len := bitLen m
    let q := ulpExp f len e false
    let (n, ix) := roundQ mode neg m e q
    let qu := ulpExp f len e true
    let (nu, _) := roundQ mode neg m e qu
    if exceeds f n q then overflowTo f mode sat conv neg
    else
      -- the code: n multiples of the smallest ulp's successor scale fall in place by addition
      let lo := 1 - (f.bias : Int) - f.mb
      let code := n + (q - lo).toNat * 2 ^ f.mb
      let minN : Int := 1 - (f.bias : Int)
      -- below the smallest normal when nu × 2^qu < 2^minN
      let tiny := if qu ≤ minN then decide (nu < 2 ^ (minN - qu).toNat) else false
      (signBit f neg + code, (if ix then fNX else 0) + (if ix && tiny then fUF else 0))

/-- Whether a rounding of this value to the format's precision discards anything (R76: an exact result does not step
the generator). -/
def inexactIn (f : Fmt) (m : Nat) (e : Int) : Bool :=
  if m = 0 then false else (roundQ .rz false m e (ulpExp f (bitLen m) e false)).2

/-- Rounding to an integer destination (R73): magnitude and inexactness. -/
def roundInt (mode : RMode) (neg : Bool) (m : Nat) (e : Int) : Nat × Bool := roundQ mode neg m e 0

/-- The signed integer of a sign and a magnitude. -/
def signed (neg : Bool) (n : Nat) : Int := if neg then -(n : Int) else n

/-- m × 2^e as a multiple of 2^q, for q at most e. -/
def scaleTo (neg : Bool) (m : Nat) (e q : Int) : Int := signed neg (m * 2 ^ (e - q).toNat)

/-- The flag of a signalling NaN among the inputs (R127). -/
def sigFlag : Num → Nat
  | .nan true => fNV
  | _ => 0

/-- The exact product: a number, with the flags its form sets (0 × ∞ is invalid, R132). -/
def mulNum (a b : Num) : Num × Nat :=
  let fl := (sigFlag a) ||| (sigFlag b)
  match a, b with
  | .nan _, _ => (.nan false, fl)
  | _, .nan _ => (.nan false, fl)
  | .inf s, .inf t => (.inf (s != t), fl)
  | .inf s, .fin t m _ => if m = 0 then (.nan false, fl ||| fNV) else (.inf (s != t), fl)
  | .fin s m _, .inf t => if m = 0 then (.nan false, fl ||| fNV) else (.inf (s != t), fl)
  | .fin s m e, .fin t n g => (.fin (s != t) (m * n) (e + g), fl)

/-- The exact sum (R132, R73): an exact zero sum of opposite signs is +0, or −0 in RD. -/
def addNum (mode : RMode) (a b : Num) : Num × Nat :=
  let fl := (sigFlag a) ||| (sigFlag b)
  match a, b with
  | .nan _, _ => (.nan false, fl)
  | _, .nan _ => (.nan false, fl)
  | .inf s, .inf t => if s = t then (.inf s, fl) else (.nan false, fl ||| fNV)
  | .inf s, .fin _ _ _ => (.inf s, fl)
  | .fin _ _ _, .inf t => (.inf t, fl)
  | .fin s m e, .fin t n g =>
    let q := if e ≤ g then e else g
    let x := scaleTo s m e q + scaleTo t n g q
    if x = 0 then
      (if m = 0 ∧ n = 0 ∧ s = t then .fin s 0 q else .fin (mode == .rd) 0 q, fl)
    else (.fin (decide (x < 0)) x.natAbs q, fl)

/-- The number with its sign changed. -/
def negNum : Num → Num
  | .nan g => .nan g
  | .inf s => .inf (!s)
  | .fin s m e => .fin (!s) m e

/-- The magnitude. -/
def absNum : Num → Num
  | .nan g => .nan g
  | .inf _ => .inf false
  | .fin _ m e => .fin false m e

/-- Delivering a number into a format (R68, R74, R132): in arithmetic an infinity stays infinite under SAT; in a
conversion R74's rules for infinities and NaNs apply. -/
def deliver (f : Fmt) (mode : RMode) (sat conv : Bool) (x : Num) : Nat × Nat :=
  match x with
  | .nan _ => (canonNaN f, if f.kind = .e2m1 then fNV else 0)
  | .inf s =>
    match f.kind with
    | .ieee => (signBit f s + infCode f, 0)
    | .e4m3 => if sat then (signBit f s + maxCode f, fQSAT + fNX) else (canonNaN f, fNV)
    | .e2m1 => (signBit f s + maxCode f, fQSAT + fNX)
  | .fin s m e => roundF f mode sat conv s m e false

/-- The exact number of an integer. -/
def intNum (x : Int) : Num := .fin (decide (x < 0)) x.natAbs 0

/-- The value of a pattern under an integer TYPE (R70). -/
def intVal (ty w x : Nat) : Int := if tySigned ty then sgn w x else ((x % 2 ^ w : Nat) : Int)

/-- The range of an integer TYPE of width `w` (R70). -/
def rangeLo (ty w : Nat) : Int := if tySigned ty then -(2 ^ (w - 1) : Nat) else 0
def rangeHi (ty w : Nat) : Int := if tySigned ty then (2 ^ (w - 1) : Nat) - 1 else (2 ^ w : Nat) - 1

/-- The low `w` bits of an integer (R70). -/
def wrapInt (w : Nat) (x : Int) : Nat := (x % (2 ^ w : Nat)).toNat

/-- The exact result clamped to the range of TYPE, and whether that changed it (R70). -/
def clampInt (ty w : Nat) (x : Int) : Int × Bool :=
  if x < rangeLo ty w then (rangeLo ty w, true)
  else if rangeHi ty w < x then (rangeHi ty w, true)
  else (x, false)

/-- Delivering a number into an integer type (R75). -/
def deliverInt (ty : Nat) (mode : RMode) (x : Num) : Nat × Nat :=
  let w := tyWidth ty
  match x with
  | .nan _ => (0, fNV)
  | .inf s => (wrapInt w (if s then rangeLo ty w else rangeHi ty w), fNV + fSAT + fNX)
  | .fin s m e =>
    let (n, ix) := roundInt mode s m e
    let (y, cl) := clampInt ty w (signed s n)
    if cl then (wrapInt w y, fNV + fSAT + fNX) else (wrapInt w y, if ix then fNX else 0)

/-- Whether a conversion of this number into the type discards anything (R76). -/
def convInexact (ty : Nat) (x : Num) : Bool :=
  match x with
  | .fin _ m e => if tyFloat ty then inexactIn (fmtOf ty) m e else (roundInt .rz false m e).2
  | _ => false

/-- One conversion of a number into any TYPE, from a float (R137). -/
def convertNum (ty : Nat) (mode : RMode) (sat : Bool) (x : Num) : Nat × Nat :=
  let (y, fl) := if tyFloat ty then deliver (fmtOf ty) mode sat true x else deliverInt ty mode x
  (y, fl ||| sigFlag x)

/-- One conversion of an integer pattern of TYPE `src` (R137, R70, R75): a widening one extends the value, a narrowing one wraps
or clamps under SAT. DESIGN CHOICE (log 121): one between equal widths clamps under SAT too. -/
def convertInt (ty src : Nat) (mode : RMode) (sat : Bool) (x : Nat) : Nat × Nat :=
  let v := intVal src (tyWidth src) x
  if tyFloat ty then deliver (fmtOf ty) mode sat true (intNum v)
  else
    let w := tyWidth ty
    if sat && decide (w ≤ tyWidth src) then
      let (y, cl) := clampInt ty w v
      (wrapInt w y, if cl then fSAT else 0)
    else (wrapInt w v, 0)

/-- The order of two numbers that are not NaN: whether a < b, with −0 equal to +0. -/
def ltNum (a b : Num) : Bool :=
  match a, b with
  | .nan _, _ => false
  | _, .nan _ => false
  | .inf s, .inf t => s && !t
  | .inf s, .fin _ _ _ => s
  | .fin _ _ _, .inf t => !t
  | .fin s m e, .fin t n g =>
    let q := if e ≤ g then e else g
    decide (scaleTo s m e q < scaleTo t n g q)

/-- Whether a number is a NaN. -/
def isNaN : Num → Bool
  | .nan _ => true
  | _ => false

/-- Whether two numbers that are not NaN are equal, −0 equal to +0. -/
def eqNum (a b : Num) : Bool := !isNaN a && !isNaN b && !ltNum a b && !ltNum b a

/-- Whether a number's sign is negative, NaNs apart. -/
def isNeg : Num → Bool
  | .nan _ => false
  | .inf s => s
  | .fin s _ _ => s

/-- The order of R134, with −0 below +0. -/
def below (a b : Num) : Bool := ltNum a b || (eqNum a b && isNeg a && !isNeg b)

/-- The smaller (or the larger) of two encodings by R134; `prop` is PROP. -/
def minMaxF (f : Fmt) (wantMax prop : Bool) (x y : Nat) : Nat × Nat :=
  let a := decodeF f x
  let b := decodeF f y
  let fl := sigFlag a ||| sigFlag b
  if isNaN a && isNaN b then (canonNaN f, fl)
  else if isNaN a then (if prop then canonNaN f else y, fl)
  else if isNaN b then (if prop then canonNaN f else x, fl)
  else if wantMax then (if below a b then y else x, fl) else (if below b a then y else x, fl)

/-- FADD of two encodings (R132). -/
def addF (f : Fmt) (mode : RMode) (sat : Bool) (x y : Nat) : Nat × Nat :=
  let (s, fl) := addNum mode (decodeF f x) (decodeF f y)
  let (z, g) := deliver f mode sat false s
  (z, fl ||| g)

/-- FSUB of two encodings (R132). -/
def subF (f : Fmt) (mode : RMode) (sat : Bool) (x y : Nat) : Nat × Nat :=
  let (s, fl) := addNum mode (decodeF f x) (negNum (decodeF f y))
  let (z, g) := deliver f mode sat false s
  (z, fl ||| g)

/-- FMUL of two encodings (R132). -/
def mulF (f : Fmt) (mode : RMode) (sat : Bool) (x y : Nat) : Nat × Nat :=
  let (s, fl) := mulNum (decodeF f x) (decodeF f y)
  let (z, g) := deliver f mode sat false s
  (z, fl ||| g)

/-- FMA of three encodings, x × y + d (R132): exact product, exact sum, one rounding. -/
def fmaF (f : Fmt) (mode : RMode) (sat : Bool) (x y d : Nat) : Nat × Nat :=
  let (p, fl) := mulNum (decodeF f x) (decodeF f y)
  let (s, gl) := addNum mode p (decodeF f d)
  let (z, g) := deliver f mode sat false s
  (z, fl ||| gl ||| g)

/-- roundF32RN of a sum, as the matrix path and MMA.V form their nodes (R95); no flags. -/
def addRN (x y : Num) : Num := decodeF (fmtOf 8) (deliver (fmtOf 8) .rn false false (addNum .rn x y).1).1

/-- roundF32RN of an exact number. -/
def rn32 (x : Num) : Num := decodeF (fmtOf 8) (deliver (fmtOf 8) .rn false false x).1

/-- The F32 encoding of a number that is exact in F32, or its rounding by RN. -/
def enc32 (x : Num) : Nat := (deliver (fmtOf 8) .rn false false x).1

/-- The integer square root, found bit by bit from bit `k` down. -/
def isqrtFrom (n : Nat) : Nat → Nat → Nat
  | 0, r => r
  | k + 1, r =>
    let t := r + 2 ^ k
    isqrtFrom n k (if t * t ≤ n then t else r)

def isqrt (n : Nat) : Nat := isqrtFrom n (bitLen n / 2 + 1) 0

/-- ln 2 × 2^256, truncated. -/
def ln2 : Nat := 0xB17217F7D1CF79ABC9E3B39803F2F6AF40F343267298B62D8A0D175B8BAAFA2B

/-- The sum of t^i / i! from i = k on, in units of 2^−256: `term` is t^k / k!. -/
def expSeries (t : Nat) : Nat → Nat → Nat → Nat
  | 0, _, _ => 0
  | n + 1, k, term => term + expSeries t n (k + 1) (term * t / 2 ^ 256 / (k + 1))

/-- 2^f × 2^256 for f = x / 2^256 in [0, 1), from below, exact to far beyond 200 bits. -/
def exp2Frac (x : Nat) : Nat := expSeries (x * ln2 / 2 ^ 256) 80 0 (2 ^ 256)

/-- The first `n` bits of log2 of x / 2^256 in [1, 2), by repeated squaring. -/
def log2Bits : Nat → Nat → Nat → Nat
  | 0, _, acc => acc
  | n + 1, x, acc =>
    let y := x * x / 2 ^ 256
    if 2 ^ 257 ≤ y then log2Bits n (y / 2) (2 * acc + 1) else log2Bits n y (2 * acc)

/-- Whether an exact value overflows a format in a rounding mode (R74): its rounding to the destination's precision exceeds
the largest finite magnitude. -/
def overflows (f : Fmt) (mode : RMode) (neg : Bool) (m0 : Nat) (e0 : Int) (sticky : Bool) : Bool :=
  let m := if sticky then 4 * m0 + 1 else m0
  let e := if sticky then e0 - 2 else e0
  let q := ulpExp f (bitLen m) e false
  decide (m ≠ 0) && exceeds f (roundQ mode neg m e q).1 q

/-- One rounding of a special function's exact value, by R141: a saturation sets NX and never QSAT, and an overflow with
SAT = 0 sets OF and NX in every rounding mode, ±max being delivered or not. -/
def specF (mode : RMode) (sat neg : Bool) (m : Nat) (e : Int) (sticky : Bool) : Nat × Nat :=
  let r := roundF (fmtOf 8) mode sat false neg m e sticky
  (r.1, r.2 ||| if !sat && overflows (fmtOf 8) mode neg m e sticky then fOF else 0)

/-- EXP2 (R141). -/
def exp2F (mode : RMode) (sat : Bool) (x : Nat) : Nat × Nat :=
  match decodeF (fmtOf 8) x with
  | .nan s => (0x7FC00000, if s then fNV else 0)
  | .inf neg => if neg then (0, 0) else (0x7F800000, 0)
  | .fin neg m e =>
    if m = 0 then (0x3F800000, 0)
    else if 10 < e + bitLen m then
      -- beyond every range: a value that certainly overflows or underflows
      specF mode sat false 1 (if neg then -4096 else 4096) false
    else if e + bitLen m < -40 then
      -- 1 plus or minus less than any bit that a rounding can see
      if neg then specF mode sat false (2 ^ 64 - 1) (-64) true else specF mode sat false (2 ^ 64) (-64) true
    else
      -- the argument in units of 2^−256, its floor and its fraction
      let a := scaleTo neg m e (-256)
      let k := a.fdiv (2 ^ 256 : Nat)
      let f := (a - k * (2 ^ 256 : Nat)).toNat
      if f = 0 then specF mode sat false 1 k false
      else specF mode sat false (exp2Frac f / 2 ^ 56) (k - 200) true

/-- LOG2 (R141). -/
def log2F (mode : RMode) (sat : Bool) (x : Nat) : Nat × Nat :=
  match decodeF (fmtOf 8) x with
  | .nan s => (0x7FC00000, if s then fNV else 0)
  | .inf neg => if neg then (0x7FC00000, fNV) else (0x7F800000, 0)
  | .fin neg m e =>
    if m = 0 then (0xFF800000, fDZ)
    else if neg then (0x7FC00000, fNV)
    else
      let k : Int := e + bitLen m - 1
      let y := m * 2 ^ (257 - bitLen m)
      if y = 2 ^ 256 then specF mode sat (decide (k < 0)) k.natAbs 0 false
      else
        let n := log2Bits 128 y 0
        if 0 ≤ k then specF mode sat false (k.toNat * 2 ^ 128 + n) (-128) true
        else specF mode sat true (k.natAbs * 2 ^ 128 - n - 1) (-128) true

/-- RCP (R141). -/
def rcpF (mode : RMode) (sat : Bool) (x : Nat) : Nat × Nat :=
  match decodeF (fmtOf 8) x with
  | .nan s => (0x7FC00000, if s then fNV else 0)
  | .inf neg => (signBit (fmtOf 8) neg, 0)
  | .fin neg m e =>
    if m = 0 then (signBit (fmtOf 8) neg + 0x7F800000, fDZ)
    else
      let k := bitLen m + 64
      specF mode sat neg (2 ^ k / m) (-e - k) (decide (2 ^ k % m ≠ 0))

/-- SQRT (R141). -/
def sqrtF (mode : RMode) (sat : Bool) (x : Nat) : Nat × Nat :=
  match decodeF (fmtOf 8) x with
  | .nan s => (0x7FC00000, if s then fNV else 0)
  | .inf neg => if neg then (0x7FC00000, fNV) else (0x7F800000, 0)
  | .fin neg m e =>
    if m = 0 then (signBit (fmtOf 8) neg, 0)
    else if neg then (0x7FC00000, fNV)
    else
      let m' := if e % 2 = 0 then m * 2 ^ 80 else m * 2 ^ 81
      let e' := if e % 2 = 0 then e - 80 else e - 81
      let r := isqrt m'
      specF mode sat false r (e' / 2) (decide (r * r ≠ m'))

/-- RSQ (R141). -/
def rsqF (mode : RMode) (sat : Bool) (x : Nat) : Nat × Nat :=
  match decodeF (fmtOf 8) x with
  | .nan s => (0x7FC00000, if s then fNV else 0)
  | .inf neg => if neg then (0x7FC00000, fNV) else (0, 0)
  | .fin neg m e =>
    if m = 0 then (signBit (fmtOf 8) neg + 0x7F800000, 0)
    else if neg then (0x7FC00000, fNV)
    else
      let m' := if e % 2 = 0 then m else 2 * m
      let e' := if e % 2 = 0 then e else e - 1
      let k := bitLen m' + 80
      let r := isqrt (2 ^ (2 * k) / m')
      specF mode sat false r (-(e' / 2) - k) (decide (r * r * m' ≠ 2 ^ (2 * k)))

/-- One step of the generator (R76). -/
def xorshift (g : Word) : Word :=
  let a := g ^^^ (g <<< 13)
  let b := a ^^^ (a >>> 17)
  b ^^^ (b <<< 5)

/-- The least e in 0 … 254 with the positive m × 2^x at most maxFinite × 2^(e − 127), from `e` on; 254 if none (R140). -/
def scaleSearch (f : Fmt) (m : Nat) (x : Int) : Nat → Nat → Nat
  | 0, _ => 254
  | n + 1, e =>
    let top := decodeF f (maxCode f)
    let lim := match top with
      | .fin _ tm te => Num.fin false tm (te + (e : Int) - 127)
      | y => y
    if ltNum lim (.fin false m x) then scaleSearch f m x n (e + 1) else e

/-- scaleCode of R140: the value itself is compared, so that a negative one is at most the bound of e = 0. -/
def scaleCode (ty : Nat) (a : Num) : Nat :=
  match a with
  | .nan _ => 0xFF
  | .inf _ => 0xFF
  | .fin neg m e => if m = 0 then 127 else if neg then 0 else scaleSearch (fmtOf ty) m e 255 0

/-- The number divided (or multiplied) by an E8M0 scale, 2^(s − 127); code 0xFF is NaN (R72, R140). -/
def scaleDown (x : Num) (s : Nat) : Num :=
  if s = 0xFF then .nan false
  else match x with
    | .fin n m e => .fin n m (e - ((s : Int) - 127))
    | y => y
def scaleUp (x : Num) (s : Nat) : Num :=
  if s = 0xFF then .nan false
  else match x with
    | .fin n m e => .fin n m (e + ((s : Int) - 127))
    | y => y

/-- The E8M0 value of a scale code (R72). -/
def e8m0 (s : Nat) : Num := if s = 0xFF then .nan false else .fin false 1 ((s : Int) - 127)

/-- The larger of two magnitudes, neither of them NaN. -/
def maxMag (a b : Num) : Num := if ltNum (absNum a) (absNum b) then absNum b else absNum a

/-- CRC-32C over bytes in ascending order, in reflected form (R93). -/
def crcBit : Nat → Nat → Nat
  | 0, c => c
  | n + 1, c => crcBit n (if c % 2 = 1 then (c / 2) ^^^ 0x82F63B78 else c / 2)
def crcBytes : List Byte → Nat → Nat
  | [], c => c
  | b :: bs, c => crcBytes bs (crcBit 8 (c ^^^ b.toNat))
def crc32c (bs : List Byte) : Nat := crcBytes bs 0xFFFFFFFF ^^^ 0xFFFFFFFF

end Sys2Proof.Machine
end

