-- ==== Sys2Proof/Machine/State.lean ====
section
/-! DEFINITION. The state of one LX-D96 package as the spec gives it, the reasons a step can stop, and the
machine right after reset. Every record is plain data. Maps that are unlisted at a number read there as the
default value of their records, which is the value of that number at reset or at block start. -/

namespace Sys2Proof.Machine

/-- Where a word is issued from: a split of a compute stream, the access stream of a warp, the matrix stream,
the handler split of a halted block (R365), a stack core; `outside` for the events of the machine. -/
inductive Actor where
  | compute (core warp slot : Nat)
  | access (core warp : Nat)
  | matrix (core : Nat)
  | handler (core : Nat)
  | stackCore (stack k : Nat)
  | outside
  deriving DecidableEq, Repr, Inhabited

/-- The kinds of instruction stream that words stand in (R27, R59). -/
inductive Stream where
  | compute
  | access
  | matrix
  | stack
  deriving DecidableEq, Repr, Inhabited

/-- The register kinds that the checking scoreboard watches (R52, R368). -/
inductive RegKind where
  | v
  | s
  | p
  | a
  | m
  | tile
  deriving DecidableEq, Repr, Inhabited

/-- One register of a block: its kind, its warp (0 for M registers and tiles), its index. -/
structure Reg where
  kind : RegKind
  warp : Nat
  idx : Nat
  deriving DecidableEq, Repr, Inhabited

/-- The causes of R362. -/
inductive Cause where
  | fetchFault | illegalOpcode | illegalForm | illegalPair | regRange | schedCheck | privOp
  | pstackOverflow | pstackEmpty | callDepth | retEmpty | splitOverflow | targetFault | targetRange
  | targetLand | formatMismatch | qshape | trailerMismatch | alignFault | scratchRange | wsRange | wbRange
  | pageFault | protFault | regionFault | atomSpace | windowFault | queuePoison | queueEmpty | shapeForm
  | copyFault | batchOpen | tseqTable | mstreamOrphan | mtxData | kvSpace | kvForm | kvFault | kvData
  | barCount | barBusy | barOrphan | dataError | trap | preempt | resume | scratchEcc | doubleTrap | ctxForm
  deriving DecidableEq, Repr, Inhabited

/-- What an instruction found when it trapped: the cause and the trap-state data of R367 and R368. -/
structure Trap where
  cause : Cause
  aux : Word := 0
  addr : Word64 := 0
  fmask : Lanes := 0
  done : Lanes := 0
  taux : Word64 := 0
  pois : List Word64 := []
  kvprog : BitVec 128 := 0
  deriving DecidableEq, Repr, Inhabited

/-- What the word that issued last in this step raised: its rank in R55 (7 for the entry's own traps) and its
trap. Bookkeeping of a step, used to order the traps of a pair. -/
structure Raised where
  rank : Nat
  trap : Trap
  deriving DecidableEq, Repr, Inhabited

/-- A poison mark (R375): of a storage error, or of a load whose data was lost (R155), whose pc, address and status it
keeps. -/
structure BadMark where
  load : Bool := false
  pc : Word64 := 0
  addr : Word64 := 0
  status : Nat := 0
  deriving DecidableEq, Repr, Inhabited

/-- A vector register: its lanes, its format tag (R80) and the poison marks of its 16-bit halves (R375), half `h` of
lane `l` under 2 l + h. -/
structure VReg where
  w : FMap Word := []
  tag : BitVec 4 := 0
  bad : FMap BadMark := []
  deriving DecidableEq, Repr, Inhabited

/-- An entry of a split's deferral stack (R105, R106). -/
structure Deferral where
  parked : Bool
  lanes : Lanes
  pc : Word64
  depth : Nat
  deriving DecidableEq, Repr, Inhabited

/-- One split of a warp (R96). `ready` is the first clock at which its next word may issue (R46, R109);
`landed` is the clock by which every fixed-latency instruction it issued has reached its latency; `held` is the
operation whose checks or walk hold it (R153, R251, R298); stacks have their top first. -/
structure Split where
  pc : Word64 := 0
  m : Lanes := 0
  depth : Nat := 0
  rets : List Word64 := []
  defer : List Deferral := []
  waiting : Bool := false
  ready : Nat := 0
  landed : Nat := 0
  held : Option Nat := none
  bar : Option (Nat × Bool) := none
  ymark : Bool := false
  deriving DecidableEq, Repr, Inhabited

/-- The states of a queue slot (R181). -/
inductive SlotState where
  | free
  | pending
  | full
  | poison
  deriving DecidableEq, Repr, Inhabited

/-- A poison record (R186). -/
structure PoisonRec where
  apc : Word64 := 0
  base : Word64 := 0
  faddr : Word64 := 0
  fmask : Lanes := 0
  word : Word := 0
  deriving DecidableEq, Repr, Inhabited

/-- A queue slot: its state, its payload with tag and poison marks, its poison record; `due` is the clock from which
a back-queue slot is FULL (R189), and `mark` the number above the operations that its core launched before the push (R194). -/
structure QSlot where
  st : SlotState := .free
  due : Nat := 0
  mark : Nat := 0
  reg : VReg := {}
  record : PoisonRec := {}
  deriving DecidableEq, Repr, Inhabited

/-- A queue of eight slots in ring order (R181). `count` is the number of occupied slots. -/
structure Queue where
  slots : FMap QSlot := []
  head : Nat := 0
  tail : Nat := 0
  count : Nat := 0
  deriving DecidableEq, Repr, Inhabited

/-- The access stream of a warp (R176), without its counters; `qmark` is the greatest mark of the back-queue entries it has popped
(R194). -/
structure AStream where
  apc : Word64 := 0
  a : FMap Word64 := []
  c : BitVec 4 := 0
  slip : Nat := 64
  slipCount : Nat := 0
  aend : Bool := false
  ready : Nat := 0
  held : Option Nat := none
  bar : Option (Nat × Bool) := none
  ymark : Bool := false
  qmark : Nat := 0
  deriving DecidableEq, Repr, Inhabited

/-- An error that waits to be reported at a later instruction of a stream: a failed window store (R155) or a KV
data error (R254). `flag` and `eng` are the counters the failed operation was counted in. -/
structure Pending where
  cause : Cause
  party : Party
  flag : Nat
  eng : Option Nat
  pc : Word64
  addr : Word64
  status : Nat
  op : Nat := 0
  deriving DecidableEq, Repr, Inhabited

/-- One warp of a block. The counters F1 to F12 stand under 1 to 12 (R47); the engine-class counters CPY, GAT,
STK and COL under 0 to 3 (R209); `lp` and `arvd` are bit vectors over the barriers (R294); `copies` counts the
copies issued (R208). -/
structure Warp where
  v : FMap VReg := []
  s : FMap Word := []
  p : FMap Lanes := []
  pstack : FMap Lanes := []
  en : Lanes := 0
  splits : FMap Split := []
  live : Lanes := 0
  flags : Word := 0
  f : FMap Nat := []
  af : FMap Nat := []
  gen : FMap Word := []
  eng : FMap Nat := []
  copies : Nat := 0
  kvs : BitVec 4 := 0
  akvs : BitVec 4 := 0
  lp : Word := 0
  arvd : Word := 0
  alp : Word := 0
  aarvd : Word := 0
  cmp : Word64 := 0
  tt : Word64 := 0
  clkhi : Word := 0
  todhi : Word := 0
  acc : AStream := {}
  queues : FMap Queue := []
  ended : Bool := false
  pendings : List Pending := []
  deriving DecidableEq, Repr, Inhabited

/-- A write of results that has been computed and not yet landed (R50). Lanes not listed are not written. -/
inductive Wr where
  | v (warp reg : Nat) (w : FMap Word) (tag : BitVec 4)
  | vbad (warp reg lane : Nat) (mark : BadMark)
  | s (warp reg : Nat) (x : Word)
  | p (warp reg : Nat) (lanes val : Lanes)
  | a (warp reg : Nat) (x : Word64)
  | c (warp idx : Nat) (b : Bool)
  | m (reg : Nat) (x : Word)
  | mc (idx : Nat) (b : Bool)
  | sh (rec word : Nat) (x : Word)
  | flagsOr (warp : Nat) (x : Word)
  | flagsSet (warp : Nat) (keep set : Word)
  | sys (i : Nat) (x : Word64)
  deriving DecidableEq, Repr, Inhabited

/-- The results and the completion of a fixed-latency word: due at the start of clock `due` (R47, R50). -/
structure Pend where
  due : Nat
  party : Party
  flag : Nat
  wrs : List Wr
  deriving DecidableEq, Repr, Inhabited

/-- A translation kept in a TLB (R393): the address space, the leaf's virtual base, its size and its word; or, with `table`, an entry
of a core's walk cache: what a table entry spans, and the address of the table it points to. -/
structure TlbEntry where
  asid : Nat
  va : Nat
  size : Nat
  leaf : Nat
  table : Bool := false
  deriving DecidableEq, Repr, Inhabited

/-- The stages of an operation in flight: its checks or walk have not ended; its accesses or its work remain to
be performed; it is complete and waits only to retire in order (R209); it is held (R161, R278, R301). -/
inductive Stage where
  | check
  | go
  | done
  | held
  deriving DecidableEq, Repr, Inhabited

/-- A variable-latency operation in flight: the word it came from, what it captured at issue, and how far it has
gone. `addr` and `data` are keyed by lane or by position; `args` are the uniform operands in the order of the
entry; `dests` are the registers it will write (R52); `since` is the clock of its issue and `born` the reference tick;
`todo` has the lanes that remain to be performed and `outs` what the performed ones gave; `xl` has the translations that
its checks found, under which it is performed (R399); `waits` has the tick from which it waits for a MIGRATING page, by the
page's number (0 where it waits for all of them together); `fail` is the trap of a gather, scatter or tile of which some lanes
failed their checks, raised once the lanes that passed are performed (R154), and `again` tells that a retry governs it; `near` marks a store that a release
or fence of WARP or BLOCK scope has taken as performed at its core (R291); `pub` is set when a forced publish has arrived, above every
operation issued before (R289); `spans` are the scratchpad ranges of a tile operation; `regions` is the cluster's held list at issue
(R312); `kvw` has the tick from which a KV walk waits for a page, by the page of a tile load or the lane of a KST (R253), and `outs` those
that are refused; `port` is the tick from which it waits for a port that retrains, and `expired` tells that this wait has passed its bound (R329);
`seq` is a copy's place among those its warp issued, from 1 (R208). -/
structure Op where
  id : Nat
  party : Party
  slot : Nat
  handler : Bool := false
  fn : Fn
  body : Body
  pc : Word64
  since : Nat
  flag : Nat
  eng : Option Nat := none
  stage : Stage
  lanes : Lanes := 0
  addr : FMap Word64 := []
  data : FMap Word := []
  bad : Lanes := 0
  args : List Word64 := []
  bytes : List Byte := []
  dests : List Reg := []
  pos : Nat := 0
  status : Nat := 0
  faddr : Word64 := 0
  born : Nat := 0
  todo : Lanes := 0
  done : Lanes := 0
  outs : FMap Word64 := []
  xl : List TlbEntry := []
  waits : FMap Nat := []
  fail : Option Trap := none
  again : Bool := false
  near : Bool := false
  pub : Option Nat := none
  spans : List (Nat × Nat) := []
  regions : List Nat := []
  kvw : FMap Nat := []
  port : Option Nat := none
  expired : Bool := false
  seq : Nat := 0
  deriving DecidableEq, Repr, Inhabited

/-- What a gather, scatter or row store that trapped keeps for its retry (R154, R247): the lanes performed and the
addresses that it captured; and what a KLD that a return continues has done (R252), marked `kv`. -/
structure Replay where
  party : Party
  slot : Nat
  pc : Word64
  done : Lanes
  addr : FMap Word64 := []
  kv : Bool := false
  deriving DecidableEq, Repr, Inhabited

/-- A tag record (R203, R208); `seq` is the copy's place among those its warp issued, from 1; a restored record has 0, so that it is before
every copy issued after it. -/
structure TagRec where
  seq : Nat := 0
  status : Nat := 0
  faddr : Word64 := 0
  pc : Word64 := 0
  warp : Nat := 0
  reported : Bool := false
  deriving DecidableEq, Repr, Inhabited

/-- A block barrier (R294); `now` and `last` are what the arrivals of this phase and of the last one release: by stream instance, the
number below which its operations are (R297). -/
structure Barrier where
  expect : Nat := 0
  n : Nat := 0
  ph : Bool := false
  now : FMap Nat := []
  last : FMap Nat := []
  deriving DecidableEq, Repr, Inhabited

/-- An accumulator tile (R28, R80, R375): element (r, n) under 128 r + n. -/
structure Tile where
  el : FMap Word := []
  tag : BitVec 4 := 0
  bad : FMap Bool := []
  deriving DecidableEq, Repr, Inhabited

/-- The state of the tile sequencer (R230). -/
structure TileSeq where
  tbl : Nat := 0
  g : Nat := 0
  lst : Nat := 0
  gi : Nat := 0
  j : Nat := 0
  n : Nat := 0
  init : Bool := false
  deriving DecidableEq, Repr, Inhabited

/-- The matrix stream of a block (R211, R215). -/
structure MStream where
  mpc : Word64 := 0
  m : FMap Word := []
  c : BitVec 4 := 0
  f : FMap Nat := []
  bseq : Nat := 0
  done : Nat := 0
  seq : TileSeq := {}
  mend : Bool := false
  bar : Option (Nat × Bool) := none
  lp : Word := 0
  arvd : Word := 0
  ready : Nat := 0
  held : Option Nat := none
  pendings : List Pending := []
  deriving DecidableEq, Repr, Inhabited

/-- An array operation in the queue of the matrix array (R213, R219): what it captured at issue, the batch it belongs to,
the clocks at which its fetch starts and at which it completes (R221), and whether it has been performed. -/
structure ArrayOp where
  id : Nat
  fn : Fn
  body : Body
  pc : Word64
  flag : Nat
  batch : Nat
  args : List Word64 := []
  bytes : List Byte := []
  start : Nat := 0
  due : Nat := 0
  performed : Bool := false
  deriving DecidableEq, Repr, Inhabited

/-- What the last MMA asked the array to keep (R222): the operand fields of the A panel and of the B block, and the tile.
That a write drops a latch is not kept (log 35): it changes only time. -/
structure Latches where
  a : Option (List Word64) := none
  b : Option (List Word64) := none
  tile : Option Nat := none
  deriving DecidableEq, Repr, Inhabited

/-- The handler split (R365, R366). -/
structure HSplit where
  warp : Nat
  pc : Word64
  m : Lanes
  rets : List Word64 := []
  ready : Nat := 0
  held : Option Nat := none
  bar : Option (Nat × Bool) := none
  deriving DecidableEq, Repr, Inhabited

/-- A halt (R364): the clock in which it was found, who raised it, what was found, how many words each stream
instance issued in the skid clocks, which instances stand at a word that found a trap of its own and issues again only after
the halt (R363, R364), and the handler split once it runs. `save` tells that the block is leaving its core
(R377); `soft` that its handler has saved it (R380). -/
structure Halt where
  found : Nat
  party : Party
  slot : Nat := 0
  pair2 : Bool := false
  pc : Word64 := 0
  trap : Trap
  skid : FMap Nat := []
  stood : List (Party × Nat) := []
  handler : Option HSplit := none
  entered : Bool := false
  save : Bool := false
  soft : Bool := false
  deriving DecidableEq, Repr, Inhabited

/-- The kernel record of R65, with its address. -/
structure Kernel where
  addr : Nat := 0
  w : Nat := 16
  nwarps : Nat := 1
  n : Nat := 32
  matrix : Bool := false
  check : Bool := false
  idemp : Bool := false
  ntiles : Nat := 0
  accmask : Word := 0
  scratch : Nat := 0
  centry : Word64 := 0
  aentry : Word64 := 0
  mentry : Word64 := 0
  k0base : Word64 := 0
  slip : Nat := 64
  smallg : Nat := 16
  paramsz : Nat := 0
  k1base : Word64 := 0
  deriving DecidableEq, Repr, Inhabited

/-- The block a core runs (R41, R348, R369, R382). `failed` is the cause that ends the block once its outstanding
operations are complete (R362, R372, R374). -/
structure Block where
  launch : Nat := 0
  asid : Nat := 0
  b : Nat := 0
  blk : Nat × Nat × Nat := (0, 0, 0)
  grd : Nat × Nat × Nat := (1, 1, 1)
  kernel : Kernel := {}
  relaunch : Nat := 0
  savebase : Nat := 0
  failed : Option Cause := none
  deriving DecidableEq, Repr, Inhabited

/-- The issue selectors of a quad (R361): pointer and ages of the compute candidates and of the access
candidates. -/
structure Quad where
  ptr : Nat := 0
  age : FMap Nat := []
  aptr : Nat := 0
  aage : FMap Nat := []
  deriving DecidableEq, Repr, Inhabited

/-- A pre-emption request outstanding for a core (R376, R380): the launch it serves (none when it serves a change
of grants), the clock it reached the core, and the tie that joins the blocks that must be saved together (R255). -/
structure Preempt where
  launch : Option Nat
  since : Nat
  tie : Option Nat := none
  deriving DecidableEq, Repr, Inhabited

/-- An entry of a KV walker's cache (R241): a RESIDENT position-table entry. -/
structure KvEntry where
  asid : Nat
  space : Nat
  page : Nat
  frame : Nat
  deriving DecidableEq, Repr, Inhabited

/-- One core (R14) with the block resident on it. `lastOp` is above the number of every operation launched here, and
`marks` keeps, for an observing and an observed stream instance, the number below which the operations of the second are acquired by
barrier waits of the first (R297); `fenced` has the scope of a stream's last fence with release effect and the number above the
operations before it, and `fmarks` and `nmarks` the marks that such fences of wide scope, and of WARP or BLOCK scope, carry onward
(R286, R291); `fwaits` has the tick from which a fetch waits for a MIGRATING page
(R395), by the page's number; `arrayFetch` and `arrayCompute` are the clocks at which the fetch and the compute stage of the last
array operation end (R221); `badCode` has the 64-byte sectors of code, by virtual address, whose copy in the core's instruction
storage has an uncorrectable error (R55, R107); `redRead` has the words of reduction windows that a warp has read (R331). -/
structure Core where
  block : Option Block := none
  warps : FMap Warp := []
  scratch : FMap Byte := []
  wbuf : FMap Byte := []
  codebook : FMap (BitVec 16) := []
  tiles : FMap Tile := []
  shapes : FMap Byte := []
  tags : Word64 := 0
  busy : Word64 := 0
  tagerr : Word64 := 0
  tagrec : FMap TagRec := []
  bars : FMap Barrier := []
  sys : FMap Word64 := []
  ptrap : Bool := false
  haltclk : Nat := 0
  halt : Option Halt := none
  mst : MStream := {}
  array : List ArrayOp := []
  arrayFetch : Nat := 0
  arrayCompute : Nat := 0
  latch : Latches := {}
  ops : List Op := []
  pends : List Pend := []
  replays : List Replay := []
  marks : FMap Nat := []
  fenced : FMap (Nat × Nat) := []
  fmarks : FMap Nat := []
  nmarks : FMap Nat := []
  lastOp : Nat := 0
  quads : FMap Quad := []
  preempt : Option Preempt := none
  reserved : Option Nat := none
  tlb : List TlbEntry := []
  ctlb : List TlbEntry := []
  kvc : List KvEntry := []
  l1 : FMap (List Byte) := []
  bloom : FMap Bool := []
  tenant : Nat := 0
  fwaits : FMap Nat := []
  badCode : FMap Bool := []
  redRead : FMap Word := []
  deriving DecidableEq, Repr, Inhabited

/-- A stack-core command or load entry in a command queue (R264, R268): the issuing core and operation, the lane,
the context, and what the lane gave. -/
structure StackCmd where
  core : Nat
  op : Nat
  lane : Nat
  asid : Nat
  load : Bool
  args : List Word64
  deriving DecidableEq, Repr, Inhabited

/-- A row claim (R277). -/
structure Claim where
  lo : Nat
  hi : Nat
  deriving DecidableEq, Repr, Inhabited

/-- An operation that waits in a deferral buffer (R278). -/
structure Deferred where
  core : Nat
  op : Nat
  lane : Nat
  addr : Nat
  since : Nat
  deriving DecidableEq, Repr, Inhabited

/-- A bank DMA in progress (R273). -/
structure Dma where
  id : Nat
  load : Bool
  near : Nat
  scr : Nat
  len : Nat
  flag : Nat
  deriving DecidableEq, Repr, Inhabited

/-- What a stack core runs: nothing, a command or a kernel (R264, R280). -/
inductive StackJob where
  | idle
  | command (c : StackCmd)
  | kernel (launch : Nat)
  deriving DecidableEq, Repr, Inhabited

/-- One stack core (R18, R263); `saved` is the launch of the kernel that its save area holds (R281); `wlo` and `whi` bound the
near window under which its job started, `slo` and `shi` the one of the saved kernel (R260); `kpc` is the pc at which a kernel has ended, and
`stopping` tells that the launch controller has stopped its kernel to save it. -/
structure SCore where
  x : FMap Word64 := []
  z : FMap (BitVec 512) := []
  pc : Nat := 0
  sflags : Word := 0
  scratch : FMap Byte := []
  imem : FMap Byte := []
  rets : List Nat := []
  f : FMap Nat := []
  queue : List StackCmd := []
  job : StackJob := .idle
  ending : Option Nat := none
  lastPc : Nat := 0
  sticky : Nat := 0
  code : Nat := 0
  result : Word64 := 0
  claims : List Claim := []
  deferral : List Deferred := []
  dmas : List Dma := []
  nwbase : Nat := 0
  nwlim : Nat := 0
  wlo : Nat := 0
  whi : Nat := 0
  started : Nat := 0
  ready : Nat := 0
  nextDma : Nat := 0
  saved : Option Nat := none
  slo : Nat := 0
  shi : Nat := 0
  kpc : Nat := 0
  stopping : Bool := false
  asid : Nat := 0
  fenced : Option Nat := none
  deriving DecidableEq, Repr, Inhabited

/-- One entry of the region table (R309, R310): state 0 FREE, 1 HELD, 2 PASSING, 3 SAVED. -/
structure Region where
  valid : Bool := false
  state : Nat := 0
  gen : Nat := 0
  holder : Nat := 0xFF
  len : Nat := 0
  asid : Nat := 0
  base : Nat := 0
  deriving DecidableEq, Repr, Inhabited

/-- The states of a sector at its home (R301). -/
inductive L2State where
  | i
  | s
  | e
  | m
  deriving DecidableEq, Repr, Inhabited

/-- A sector of a home L2 slice (R301): its state, and `old`, where it is M, has the 64 bytes that the DRAM or the module still
holds beneath it. -/
structure L2Sector where
  st : L2State := .i
  old : List Byte := []
  deriving DecidableEq, Repr, Inhabited

/-- A sector that a cluster holds as part of a region (R301, R311): the region, whether it is M or else E, and the bytes of an M
one. -/
structure HeldSector where
  rgn : Nat
  m : Bool
  bytes : List Byte
  deriving DecidableEq, Repr, Inhabited

/-- An entry of a home slice's publish directory (R289): the line, the releasing agent and the scope; `upto` is above every operation
launched before the release was performed. -/
structure PubEntry where
  line : Nat
  agent : Nat
  scope : Nat
  upto : Nat
  deriving DecidableEq, Repr, Inhabited

/-- The releases that a location of HBM has seen, each an agent and a scope (R286): `own` are those with which a read of the present
value synchronises, `all` every one of them. -/
structure RelSet where
  own : List (Nat × Nat) := []
  all : List (Nat × Nat) := []
  deriving DecidableEq, Repr, Inhabited

/-- A bag of module bytes granted to a context (R339). -/
structure ModRange where
  module : Nat
  first : Nat
  len : Nat
  deriving DecidableEq, Repr, Inhabited

/-- A module port of the package (R318, R324, R343): its state (0 RESET, 1 UP, 2 RETRAINING, 3 DOWN), width code, failed
lanes and counters. -/
structure Port where
  state : Nat := 0
  width : Nat := 0
  failed : BitVec 16 := 0
  retrains : Nat := 0
  replays : Nat := 0
  deriving DecidableEq, Repr, Inhabited

/-- A group entry of a context (R325, R327). -/
structure Group where
  formed : Bool := false
  mask : Word64 := 0
  gen : Word := 0
  tout : Nat := 200
  dead : Nat := 0xFF
  seq : Nat := 0
  deriving DecidableEq, Repr, Inhabited

/-- How far a collective has come on this package (R334, R336): issued; running; voted; decided; and with a status, while its signal's
page is fetched (R337). -/
inductive ColStage where
  | run
  | start
  | voted (code : Nat)
  | ending (code : Nat)
  | decided (code : Nat)
  deriving DecidableEq, Repr, Inhabited

/-- A collective outstanding on this package (R333 to R337): the core that issued it, its group, bucket, GEN and SEQ, its
descriptor, the members that it has contributed to, the windows (a module and a window each) that it armed, the order in which
their DONE was seen, whether a quantisation saturated, and the tick at which its running wait began. -/
structure Collective where
  core : Nat
  grp : Nat
  bkt : Nat
  gather : Bool
  gen : Word
  seq : Nat
  desc : List Byte
  done : Lanes := 0
  armed : List (Nat × Nat) := []
  seen : List (Nat × Nat) := []
  ovf : Bool := false
  stage : ColStage := .start
  since : Nat := 0
  party : Party := .matrix
  op : Nat := 0
  deriving DecidableEq, Repr, Inhabited

/-- Why a launch failed (R346, R415): the cause and its kind, an address, the unit. -/
structure LaunchFail where
  cause : Nat
  ckind : Nat
  addr : Nat := 0
  unit : Nat := 0
  deriving DecidableEq, Repr, Inhabited

/-- What submitted a launch (R344). -/
inductive LaunchSource where
  | program
  | timetable (entry : Nat)
  | batch (slot node seq : Nat)
  deriving DecidableEq, Repr, Inhabited

/-- A block of a launch that has left its core and waits to be placed again (R348, R374, R377, R380): how it left (0 to run again
from block start, 1 saved by hardware, 2 saved by its handler), its save area, the regions kept with it, and, for blocks that
must be restored together (R255), the tie that joins them, its position in the stack group, and the group once one is chosen;
`pend` has the errors of each warp that wait to be reported, and under 64 those of the matrix stream (R234), `replays` the retries outstanding, and `haltclk` the clock of its
last halt; `redRead` goes with it (R331). -/
structure Away where
  launch : Nat
  b : Nat
  how : Nat
  relaunch : Nat
  area : Nat
  regions : List Nat := []
  tie : Option (Nat × Nat) := none
  group : Option Nat := none
  pend : FMap (List Pending) := []
  replays : List Replay := []
  haltclk : Nat := 0
  redRead : FMap Word := []
  deriving DecidableEq, Repr, Inhabited

/-- A launch that is not DONE (R345): its descriptor, what was read with it, its state (0 PENDING, 1 RELEASED, 2 RUNNING), its
place in the order of release, its next unplaced block, the units of it that have not ended, the dies or stack cores that it
has still to take, its failure, and the tick from which its end waits for the page of a signal (R346). A `suspended` launch places no block (R352). -/
structure Launch where
  asid : Nat
  desc : List Byte
  src : LaunchSource
  prio : Nat := 0
  kernel : Kernel := {}
  expects : List Nat := []
  table : List Byte := []
  stage : Nat := 0
  rel : Nat := 0
  next : Nat := 0
  left : Nat := 0
  todo : List (Nat × Nat) := []
  suspended : Bool := false
  fail : Option LaunchFail := none
  sigWait : Option Nat := none
  deriving DecidableEq, Repr, Inhabited

/-- A batch of a graph node that has not been retired (R354): its sequence number, its first ring index and its record count, its
launch once it has been submitted, and whether it has ended. -/
structure Batch where
  seq : Nat
  first : Nat
  count : Nat
  launch : Option Nat := none
  isOver : Bool := false
  deriving DecidableEq, Repr, Inhabited

/-- A node of an active graph (R354): PEND, the ring index at which the next append goes, the batches formed, those not retired
oldest first, the tick at which the flush timer started, and a flush that waits for room under MAXB. -/
structure GraphNode where
  pend : Nat := 0
  tail : Nat := 0
  formed : Nat := 0
  batches : List Batch := []
  timer : Option Nat := none
  flush : Bool := false
  deriving DecidableEq, Repr, Inhabited

/-- An active graph slot (R353, R354): the activating launch, the table, the nodes, the ending launches once appends have
stopped, the drain entries that cannot reach their module. -/
structure GraphSlot where
  launch : Nat
  table : List Byte
  nodes : FMap GraphNode := []
  enders : List Nat := []
  unreachable : List Nat := []
  deriving DecidableEq, Repr, Inhabited

/-- What the timetable unit keeps for an entry beside its bytes in memory (R351, R352): the launch of the running instance, and
of the instance that is saved under PREEMPT, and the boundary of a firing whose descriptor waits for a page. -/
structure Instance352 where
  run : Option Nat := none
  susp : Option Nat := none
  wait : Option Nat := none
  deriving DecidableEq, Repr, Inhabited

/-- A regrant or destroy that has begun (R409): its descriptor's address, the context, what it is, and the new grants. -/
structure ContextChange where
  descriptor : Nat
  asid : Nat
  destroy : Bool
  sgrant : Nat
  wsgrant : Nat
  priocap : Nat
  ptrap : Bool
  deriving DecidableEq, Repr, Inhabited

/-- The control registers of BAR0 that are neither fields of their own nor computed (R404, R413); `snaps` counts the firings of
the snapshot trigger. -/
structure HostRegs where
  ctxstat : Nat := 0
  ttbase : Nat := 0
  ttlen : Nat := 0
  ppsts : Nat := 0
  ppscnt : Nat := 0
  snapbuf : Nat := 0
  missed : Nat := 0
  enerr : Bool := false
  entrig : Bool := false
  entt : Bool := false
  armed : Bool := false
  snaps : Nat := 0
  snapclk : Nat := 0
  elogbase : Nat := 0
  elogsize : Nat := 0
  eloghead : Nat := 0
  elogtail : Nat := 0
  elogdrop : Nat := 0
  pwrcap : Nat := 5600
  hottest : Nat := 0
  deriving DecidableEq, Repr, Inhabited

/-- A context (R408). The KV space table stands in `kvtab` (R237); `evicted` has the host address that keeps the bytes of
an evicted page, by the page's address (R396, R397); `areas` are the save areas of the context, and whether each is
assigned (R382); `moves` has the frame that a page being migrated goes to (R398), by the page's address; `clogTail` counts the records of its own error ring. -/
structure Context where
  live : Bool := false
  root : Nat := 0
  handler : Word64 := 0
  ptrap : Bool := false
  sgrant : Nat := 0
  wsgrant : Nat := 0
  priocap : Nat := 0
  c48 : Bool := false
  quota : Nat := 0
  htout : Nat := 0
  mrangeAt : Nat := 0
  mranges : List ModRange := []
  clog : Nat := 0
  clogTail : Nat := 0
  kvtab : FMap Byte := []
  evicted : FMap Nat := []
  areas : FMap Bool := []
  hostPins : FMap Bool := []
  moves : FMap Nat := []
  groups : FMap Group := []
  cols : FMap Collective := []
  nextCol : Nat := 0
  bkts : FMap Nat := []
  xseq : FMap Nat := []
  graphs : FMap GraphSlot := []
  ending : Bool := false
  deriving DecidableEq, Repr, Inhabited

/-- What a run of HBM frames is used for. -/
inductive FrameRole where
  | free
  | page
  | table
  | directory
  | save
  deriving DecidableEq, Repr, Inhabited

/-- A run of 64 KiB HBM frames that the MMP has handed out, by its first frame: how many, what for, and the context (its
ASID plus one; zero for none). A run that is free keeps who held it last (R401). -/
structure FrameRun where
  n : Nat
  role : FrameRole
  owner : Nat
  deriving DecidableEq, Repr, Inhabited

/-- What follows once a shootdown has been acknowledged by every receiver (R398). -/
inductive AfterShoot where
  | nothing
  | release (frame : Nat)
  | evict (frame size host : Nat)
  | evictKv (entry frame size : Nat)
  deriving DecidableEq, Repr, Inhabited

/-- A shootdown (R398, R399): the range of a context, and the receivers that have not acknowledged: core TLBs from 0, copy
engines from 96, the launch controller 192. -/
structure Shoot where
  asid : Nat
  va : Nat
  size : Nat
  waiting : List Nat
  after : AfterShoot
  deriving DecidableEq, Repr, Inhabited

/-- A KV page that the MMP keeps elsewhere, by its handle (R239, R243): the backing page and the bytes. -/
structure KvCopy where
  asid : Nat
  va : Nat
  bytes : List Byte
  deriving DecidableEq, Repr, Inhabited

/-- What the MMP knows of a mapped KV page, by the place of its position-table entry (R240, R243): the address of the
backing page, the handle while the bytes are elsewhere, and the first of the frames that a restore which goes on has taken. -/
structure KvBack where
  asid : Nat
  va : Nat
  handle : Option Nat := none
  into : Option Nat := none
  deriving DecidableEq, Repr, Inhabited

/-- A request of a KV walk for an evicted page (R253). -/
structure KvReq where
  asid : Nat
  space : Nat
  coord : Word64
  deriving DecidableEq, Repr, Inhabited

/-- What a leaf's access can need (R392). -/
inductive Need where
  | read
  | write
  | both
  | fetch
  deriving DecidableEq, Repr, Inhabited

/-- A lane of an operation in flight that waits for a page request. -/
structure Waiter where
  core : Nat
  op : Nat
  lane : Nat
  deriving DecidableEq, Repr, Inhabited

/-- A page request posted to the MMP (R394, R396): the page's address, the kind of access (none for a PGREQ), whether
the requester runs in handler mode or is the launch controller, and who waits for it. -/
structure PageReq where
  asid : Nat
  va : Nat
  kind : Option Need
  ho : Bool
  waiters : List Waiter := []
  deriving DecidableEq, Repr, Inhabited

/-- A host-page call of the MMP that the host has not answered (R397), with the reference tick it was made at. -/
structure HostCall where
  req : PageReq
  since : Nat
  deriving DecidableEq, Repr, Inhabited

/-- An error to be entered in the log (R375, R415): its class, context, unit, launch and address. -/
structure ErrorNote where
  cls : Nat
  asid : Nat := 0xFF
  unit : Nat := 0
  launch : Nat := 0
  addr : Option Nat := none
  deriving DecidableEq, Repr, Inhabited

/-- A turn: what takes place next. -/
inductive Turn where
  | issue (a : Actor)
  | event (i : Instr)
  | clock
  | stackClock
  | moduleWrite (module offset : Nat) (data : List Byte)
  | moduleCommand (module head op target b c : Nat) (data : List Byte)
  | moduleError (module offset : Nat)
  | relayAnswer (package status : Nat)
  | registerRead (offset width : Nat)
  | snapshotRead (place : Nat)
  | codeError (core sector : Nat)
  | errorRecords
  | stackError (stack k : Nat)
  deriving DecidableEq, Repr, Inhabited

/-- Why a step stops with a fault. -/
inductive Fault where
  /-- Raised by the memory operations on a physical HBM address at or above 2,304 GiB, which the spec says does not
  exist (R388). Safe: the machine stops where the spec gives no behaviour. -/
  | noSuchAddress
  deriving DecidableEq, Repr, Inhabited

/-- Why a step is refused. -/
inductive Refusal where
  /-- Raised by the dispatch for an instruction whose meaning is not modelled. Safe: nothing is claimed of it. -/
  | notModelled (mnemonic : String)
  deriving DecidableEq, Repr, Inhabited

/-- The package. `ref` counts the ticks of the reference oscillator (R410), `clk` the arithmetic clocks and `sclk` the
stack clocks; `rels` keeps for a 4-byte location of HBM the releases that have written it, and `strm` has the lines, by slice, that replacement
takes first (R149); `tod` is TODNS in units of 1 / (5 × 2^32) nanosecond, so that a tick is a whole number of them. `tick` is the last boundary of a microsecond at
which the timetable ran (R352). `denied` has the pages that the MMP refused to the launch controller, until it has taken note,
and `moving` the ticks from which it waits for a MIGRATING page (R395); `zeroing` the dies whose weight store waits to be zeroed (R412); `lastRead` is what the host's last read of a register
returned (R8); `errors` what is to be entered in the error log. -/
structure State where
  ref : Nat := 0
  clk : Nat := 0
  sclk : Nat := 0
  cores : FMap Core := []
  scores : FMap SCore := []
  hbm : FMap Byte := []
  l2 : FMap L2Sector := []
  copies : FMap Bool := []
  dir : FMap (List PubEntry) := []
  rels : FMap RelSet := []
  strm : FMap Bool := []
  pins : FMap Nat := []
  heldBytes : FMap HeldSector := []
  regions : FMap Region := []
  host : FMap Byte := []
  mods : FMap Byte := []
  ws : FMap Byte := []
  ctxs : FMap Context := []
  agenda : List Turn := []
  actor : Actor := .outside
  pairing : Bool := false
  second : Bool := false
  raised : Option Raised := none
  tod : Nat := 0
  tick : Nat := 0
  todStep : Int := 0
  rate : Int := 0
  throttle : Nat := 0
  frames : FMap FrameRun := []
  shoots : List Shoot := []
  kvCopies : FMap KvCopy := []
  kvBack : FMap KvBack := []
  kvBad : List KvReq := []
  kvHandle : Nat := 0
  kvq : List KvReq := []
  ltlb : List TlbEntry := []
  mmpq : List PageReq := []
  calls : List HostCall := []
  refresh : FMap Bool := []
  podcfg : Word64 := 0
  ready : Word64 := 0
  ports : FMap Port := []
  relays : FMap Nat := []
  modBad : FMap Bool := []
  courierWait : FMap Nat := []
  host0 : HostRegs := {}
  errors : List ErrorNote := []
  launches : FMap Launch := []
  nextLaunch : Nat := 1
  releases : Nat := 0
  away : FMap Away := []
  nextAway : Nat := 0
  denied : List (Nat × Nat) := []
  moving : FMap Nat := []
  zeroing : List Nat := []
  timetable : FMap Instance352 := []
  change : Option ContextChange := none
  stopped : Bool := false
  lastRead : Nat := 0
  fresh : Nat := 0
  opId : Nat := 0
  bad : Option Fault := none
  deriving DecidableEq, Repr, Inhabited

/-- The machine right after reset. -/
def State.reset : State := {}

end Sys2Proof.Machine
end

