-- ==== Sys2Proof/Machine/Forms.lean ====
section
/-! DEFINITION. The forms of instruction words: which functions each stream admits (R58, R59), and for each
function the class of each register field, the MOD bits its entry assigns and the TYPE codes it accepts (R38, R42,
R43, and the entry's own field table). The register lists of SCHED_CHECK (R52) and the ranges of REG_RANGE (R55)
are read from the same table. -/

namespace Sys2Proof

/-- The selector of A: MOD[25:24] (R38). -/
def RWord.asel (w : RWord) : Nat := bits w.mod.toNat 25 24

/-- The selector of B: MOD[23:22] (R38). -/
def RWord.bsel (w : RWord) : Nat := bits w.mod.toNat 23 22

/-- TYPE: MOD[21:18] (R42). -/
def RWord.ty (w : RWord) : Nat := bits w.mod.toNat 21 18

/-- A field of MOD. -/
def RWord.fld (w : RWord) (hi lo : Nat) : Nat := bits w.mod.toNat hi lo

/-- A bit of MOD. -/
def RWord.mb (w : RWord) (i : Nat) : Bool := w.mod.getLsbD i

end Sys2Proof

namespace Sys2Proof.Machine

/-- The class of a register field D, A or B of an entry. `gen sels wide` is a general source that admits the
selectors set in `sels` (bit 0 for 0b00); `wide` marks a 64-bit operand; `s n k` names `n` S registers from an index that
is a multiple of `k`; `uni` a uniform source (S register or constant, LANEID apart); `cst` an S register or a constant word;
`v4` names four V registers from a multiple of four; `base` is a 64-bit base address (R146), in the access stream an A register;
`idx` an index, absent in the access stream; `pres` a predicate or none (15), none in the access stream; `ua wide` an operand that is an S register or a constant in a
compute stream, an A register in the access stream, an M register or a constant in the matrix stream (wide: a pair, or the
whole A register); `us n k na` a list of `n` S registers from a multiple of `k`, or of `na` A registers; `ud` one destination
register of the stream; `va wide` a V register or pair in a compute stream, an A register in the access stream; `q lo hi` a queue within a range, other queues being ILLEGAL_FORM. -/
inductive Fld where
  | none
  | free
  | gen (sels : Nat) (wide : Bool)
  | uni (wide : Bool)
  | cst (pair : Bool)
  | v (wide : Bool)
  | vn (n : Nat)
  | v4
  | base
  | idx
  | pres
  | s (n k : Nat)
  | pd
  | ps
  | a (n : Nat)
  | c
  | m (n : Nat)
  | t
  | sh
  | bar
  | q (lo hi : Nat)
  | x (n k : Nat)
  | z
  | ua (wide : Bool)
  | us (n k na : Nat)
  | ud
  | va (wide : Bool)
  deriving DecidableEq, Repr, Inhabited

/-- What the entry of an instruction says of its fields. `mod` has the MOD bits [21:0] that the entry assigns;
`types` the TYPE codes it accepts, for an entry that has a TYPE; `asel` and `bsel` the selector of a field whose class
is fixed; `ptOnly` that G must be 0x0F; `other` any further condition of the entry on the word's bits. `dRead` says that
the instruction also reads its destination. `range` is false where a field of the word alone names a register beyond
its range; `lanes` is a count that must not exceed W; `dPred` marks a compare, whose D[3:0] is a predicate;
`extra` lists registers that MOD names; `accPt` that G must be 0x0F in the access stream. -/
structure Form where
  d : Fld := .none
  a : Fld := .none
  b : Fld := .none
  asel : Nat := 0
  bsel : Nat := 0
  mod : Nat := 0
  types : Option (List Nat) := Option.none
  ptOnly : Bool := false
  other : Bool := true
  dRead : Bool := false
  range : Bool := true
  lanes : Nat := 0
  dPred : Bool := false
  extra : List (RegKind × Nat) := []
  accPt : Bool := false
  deriving DecidableEq, Repr, Inhabited

/-- An entry that assigns nothing. -/
def Form.empty : Form := {}




/-- MOD bits of TYPE, RND, SR, SAT in the classes that lay MOD out by R42. -/
def mTY : Nat := 0x3C0000
def mRND : Nat := 0x30000
def mSR : Nat := 0x8000
def mSAT : Nat := 0x4000

/-- The four integer types of the INT class (R114). -/
def ty4 : List Nat := [0, 1, 6, 7]

/-- Whether a TYPE is 64 bits wide. -/
def wide (ty : Nat) : Bool := ty == 6 || ty == 7

/-- All selectors (R38). -/
def any : Nat := 15

/-- A two-source INT instruction (R116): `unary` reserves B, `b32` makes B one 32-bit operand. -/
def intForm (w : RWord) (unary b32 sat dRead : Bool) : Form :=
  let g := wide w.ty
  { d := .v g, a := .gen any g, b := if unary then .none else .gen any (g && !b32),
    mod := mTY + (if sat then mSAT else 0), types := some ty4, dRead := dRead }

/-- An I-form of a typed class: A and D vectors (R44). -/
def immForm (w : IWord) (types : List Nat) : Form :=
  let g := wide w.modi.toNat
  { d := .v g, a := .v g, types := some types }

/-- A uniform instruction (R124). -/
def uniForm (w : RWord) (unary b32 sat : Bool) : Form :=
  let g := wide w.ty
  let n := if g then 2 else 1
  { d := .s n n, a := .uni g, b := if unary then .none else .uni (g && !b32),
    mod := mTY + (if sat then mSAT else 0), types := some ty4 }

/-- Class CTL (R98 to R110). -/
def formCtl (f : Fn) (r : RWord) (i : IWord) : Form :=
  match f with
  | .nop => { mod := 1 }
  | .bra => { other := i.modi == 0 }
  | .bru => { other := decide (i.modi.toNat < 2) }
  | .call => { other := i.modi == 0 }
  | .loop => { a := .s 1 1, other := i.modi == 0 }
  | .brx => { a := .cst false, b := .cst true }
  | .callx => { a := .cst false, b := .cst true }
  | .ret => {}
  | .exit => {}
  | .merge => { ptOnly := true }
  | .yield => { mod := 0xFF }
  | .pushp => { a := .ps, mod := 0x200000, ptOnly := true }
  | .invp => { ptOnly := true }
  | .popp => { ptOnly := true }
  | .pand => { d := .pd, a := .ps, b := .ps, mod := 0x300000 }
  | .por => { d := .pd, a := .ps, b := .ps, mod := 0x300000 }
  | .pxor => { d := .pd, a := .ps, b := .ps, mod := 0x300000 }
  | .pnot => { d := .pd, a := .ps, mod := 0x200000 }
  | .pmov => { d := .pd, a := .ps, mod := 0x200000 }
  | .p2v => { d := .v false, a := .ps, mod := 0x200000 }
  | .v2p => { d := .pd, a := .gen any false }
  | .vote => { d := if r.fld 1 0 == 3 then .s 2 2 else .pd, a := .ps, mod := 0x200003 }
  | _ => Form.empty

/-- The destination of a compare (R119, R135): predicate in D[3:0], CC in D[6:4], D[9:7] reserved. `ccs` is how many
condition codes the entry has. -/
def cmpOther (d : BitVec 10) (ccs : Nat) : Bool := decide (bits d.toNat 9 7 = 0) && decide (bits d.toNat 6 4 < ccs)
def cmpRange (d : BitVec 10) : Bool := decide (bits d.toNat 3 0 ≠ 15)

/-- Class INT (R113 to R124). -/
def formInt (f : Fn) (r : RWord) (i : IWord) : Form :=
  match f with
  | .iadd => intForm r false false true false
  | .iaddImm => immForm i ty4
  | .isub => intForm r false false true false
  | .imul => intForm r false false true false
  | .imulImm => immForm i ty4
  | .imad => intForm r false false true true
  | .imulhi => intForm r false false false false
  | .imin => intForm r false false false false
  | .imax => intForm r false false false false
  | .iabs => { intForm r true false true false with types := some [0, 6] }
  | .ineg => intForm r true false true false
  | .andB => intForm r false false false false
  | .andImm => immForm i ty4
  | .orB => intForm r false false false false
  | .orImm => immForm i ty4
  | .xorB => intForm r false false false false
  | .xorImm => immForm i ty4
  | .notB => intForm r true false false false
  | .shl => intForm r false true false false
  | .shlImm => immForm i ty4
  | .shr => intForm r false true false false
  | .shrImm => immForm i ty4
  | .rot => intForm r false true false false
  | .icmp => { intForm r false false false false with d := .free, dPred := true, other := cmpOther r.d 6, range := cmpRange r.d }
  | .icmpImm => { immForm i ty4 with d := .free, dPred := true, other := cmpOther i.d 6, range := cmpRange i.d }
  | .sel => intForm r false false false true
  | .mov => intForm r true false false false
  | .movImm => { immForm i ty4 with a := .none }
  | .popc => intForm r true false false false
  | .clz => intForm r true false false false
  | .ctz => intForm r true false false false
  | .brev => intForm r true false false false
  | .bfe => intForm r false true false false
  | .bfi => intForm r false true false true
  | .lea => { d := .v true, a := .gen any true, b := .gen any (wide r.ty), mod := mTY + 7, types := some ty4 }
  | .leaImm => { d := .v true, a := .v true, types := some ty4 }
  | .vread =>
    let n := if wide r.ty then 2 else 1
    { d := .s n n, a := .v (wide r.ty), b := .uni false, mod := mTY, types := some ty4 }
  | .vwrite => { d := .v (wide r.ty), a := .uni (wide r.ty), b := .uni false, mod := mTY, types := some ty4 }
  | .sadd => uniForm r false false true
  | .saddImm =>
    let n := if wide i.modi.toNat then 2 else 1
    { d := .s n n, a := .s n n, types := some ty4 }
  | .ssub => uniForm r false false true
  | .smul => uniForm r false false true
  | .sand => uniForm r false false false
  | .sor => uniForm r false false false
  | .sxor => uniForm r false false false
  | .sshl => uniForm r false true false
  | .sshr => uniForm r false true false
  | .scmp => { uniForm r false false false with d := .s 1 1, mod := mTY + 7, other := decide (r.fld 2 0 < 6) }
  | .smov => uniForm r true false false
  | .smovImm =>
    let n := if wide i.modi.toNat then 2 else 1
    { d := .s n n, types := some ty4 }
  | .ssel => { uniForm r false false false with dRead := true }
  | _ => Form.empty

/-- F32, F16 and BF16; the comparable float types; every float type. -/
def fl3 : List Nat := [8, 9, 10]
def fl5 : List Nat := [8, 9, 10, 11, 12]
def fl6 : List Nat := [8, 9, 10, 11, 12, 13]

/-- A float arithmetic form (R131). -/
def fltForm (mod : Nat) (types : List Nat) (unary dRead : Bool) : Form :=
  { d := .v false, a := .gen any false, b := if unary then .none else .gen any false, mod := mTY + mod,
    types := some types, dRead := dRead }

/-- Elements per lane of a type of at most 32 bits (R126). -/
def perLane (ty : Nat) : Nat := 32 / tyWidth ty

/-- Class FLT (R129 to R135). -/
def formFlt (f : Fn) (r : RWord) (i : IWord) : Form :=
  match f with
  | .fadd => fltForm (mRND + mSAT) fl3 false false
  | .faddImm => immForm i fl3
  | .fsub => fltForm (mRND + mSAT) fl3 false false
  | .fmul => fltForm (mRND + mSAT) fl3 false false
  | .fmulImm => immForm i fl3
  | .fma => fltForm (mRND + mSAT) fl3 false true
  | .fmin => fltForm 1 fl5 false false
  | .fmax => fltForm 1 fl5 false false
  | .fabs => fltForm 0 fl6 true false
  | .fneg => fltForm 0 fl6 true false
  | .fcmp =>
    { fltForm 7 fl5 false false with
      d := .free, dPred := true, other := cmpOther r.d 8 && decide (r.fld 2 0 < perLane r.ty), range := cmpRange r.d }
  | .fcmpImm => { immForm i fl5 with d := .free, dPred := true, other := cmpOther i.d 8, range := cmpRange i.d }
  | .fclass => { fltForm 7 fl5 true false with other := decide (r.fld 2 0 < perLane r.ty) }
  | .flgrd => { d := .s 1 1 }
  | .flgwr => { a := .uni false }
  | .flgclr => { a := .uni false }
  | _ => Form.empty

/-- SR is admitted with RND = 0b00 only (R42). -/
def srOk (w : RWord) : Bool := !w.mb 15 || decide (w.fld 17 16 = 0)

/-- Elements converted per lane (R136): k for source and destination types. -/
def convK (src dst : Nat) : Nat :=
  if wide src || wide dst then 1 else 32 / max (tyWidth src) (tyWidth dst)

/-- Whether an element selector is in range on a side of type `ty` (R136). -/
def selOk (sel ty k : Nat) : Bool := if wide ty then decide (sel = 0) else decide (sel < perLane ty / k)

/-- QCVT's TYPE set, also DQCVT's SRCT set (R139). -/
def qTypes : List Nat := [11, 12, 13, 4, 5, 14, 15]

/-- Class CVT (R78, R136 to R142). -/
def formCvt (f : Fn) (r : RWord) (i : IWord) : Form :=
  match f with
  | .cvt =>
    let k := convK (r.fld 3 0) r.ty
    { d := .v (wide r.ty), a := .gen any (wide (r.fld 3 0)), mod := mTY + mRND + mSR + mSAT + 0x3FF,
      types := some (List.range 16),
      other := srOk r && selOk (r.fld 6 4) (r.fld 3 0) k && selOk (r.fld 9 7) r.ty k }
  | .qcvt =>
    { d := .v false, a := .gen any false, b := .gen any false, mod := mTY + mRND + mSR + mSAT + 0x380,
      types := some qTypes, other := srOk r && selOk (r.fld 9 7) r.ty (convK 8 r.ty) }
  | .dqcvt =>
    let k := convK (r.fld 3 0) r.ty
    { d := .v false, a := .gen any false, b := .gen any false, mod := mTY + mRND + mSR + mSAT + 0x3FF,
      types := some fl3,
      other := srOk r && qTypes.contains (r.fld 3 0) && selOk (r.fld 6 4) (r.fld 3 0) k && selOk (r.fld 9 7) r.ty k }
  | .pack =>
    { d := .v false, a := .gen any false, b := .gen any false, mod := mTY,
      types := some [2, 3, 4, 5, 9, 10, 11, 12, 13, 14, 15] }
  | .unpack =>
    { d := .v false, a := .gen any false, mod := mTY + 1, types := some [2, 3, 4, 5, 9, 10, 11, 12, 13, 14, 15] }
  | .scale => { d := .v false, a := .gen any false, mod := mTY, types := some [11, 12, 13] }
  | .amax => { d := .v false, a := .gen any false, mod := mTY, types := some fl5 }
  | .exp2 => fltForm (mRND + mSAT) [8] true false
  | .log2 => fltForm (mRND + mSAT) [8] true false
  | .rcp => fltForm (mRND + mSAT) [8] true false
  | .rsq => fltForm (mRND + mSAT) [8] true false
  | .sqrt => fltForm (mRND + mSAT) [8] true false
  | .stq =>
    { d := .s 1 1, a := .gen 11 false, b := .gen 3 true, mod := mTY + mRND + mSR + mSAT,
      types := some [11, 12, 13, 4, 5, 14, 15, 9, 10], other := srOk r, dRead := true }
  | .ldq =>
    { d := .s 1 1, a := .gen 11 false, b := .gen 3 true, mod := mTY + 0xF,
      types := some [11, 12, 13, 4, 5, 14, 15, 9, 10], dRead := true,
      extra := if r.fld 3 0 == 15 then [] else [(.p, r.fld 3 0)] }
  | .srseed => { a := .gen any false }
  | _ => Form.empty

/-- The types of SLIDE, SHFL and BCAST: any code but I64 and N64. -/
def ty32s : List Nat := [0, 1, 2, 3, 4, 5, 8, 9, 10, 11, 12, 13, 14, 15]

/-- RED and SCAN admit RND for float ADD only, SAT for ADD only, and no bitwise operation on floats (R172). -/
def redOther (w : RWord) : Bool :=
  let op := w.fld 2 0
  decide (op < 6) && !(tyFloat w.ty && decide (3 ≤ op)) &&
    (decide (w.fld 17 16 = 0) || (op == 0 && tyFloat w.ty)) && (!w.mb 14 || op == 0)

/-- Class PKX (R165 to R175). -/
def formPkx (f : Fn) (r : RWord) (i : IWord) : Form :=
  match f with
  | .dot4 => { fltForm (mSAT + 3) [4] false true with }
  | .dot8 => { fltForm (mSAT + 3) [14] false true with }
  | .dot2 => { fltForm (mSAT + 3) [2] false true with }
  | .padd => fltForm mSAT [2, 3, 4, 5, 14, 15] false false
  | .psub => fltForm mSAT [2, 3, 4, 5, 14, 15] false false
  | .pmin => fltForm 0 [2, 3, 4, 5, 14, 15] false false
  | .pmax => fltForm 0 [2, 3, 4, 5, 14, 15] false false
  | .shrRnd => { fltForm (mRND + 1) [0, 1] false false with other := !r.mb 0 }
  | .shrSat =>
    { fltForm (mRND + 0x381) [2, 3, 4, 5] false false with
      other := r.mb 0 && decide (r.fld 9 7 < perLane r.ty) }
  | .shrRndImm => immForm i [0, 1]
  | .slide =>
    { d := .v false, a := .gen 5 false, b := .uni false, mod := mTY + 0x33FF, types := some ty32s,
      other := decide (r.fld 13 12 < 3) && (r.fld 13 12 == 2 || r.fld 9 0 == 0),
      extra := if r.fld 13 12 == 2 then [(.v, r.fld 9 0)] else [] }
  | .slideImm => immForm i ty32s
  | .shfl => { d := .v false, a := .gen 5 false, b := .gen any false, mod := mTY, types := some ty32s }
  | .shflImm => immForm i ty32s
  | .bcast =>
    { d := .v false, a := .gen 5 false, b := .uni false, mod := mTY + 0xF, types := some ty32s,
      other := if r.mb 3 then decide (r.fld 2 0 < perLane r.ty) else r.fld 2 0 == 0 }
  | .red =>
    { d := .v false, a := .gen 5 false, mod := mTY + mRND + mSAT + 7, types := some [0, 1, 2, 3, 4, 5, 8, 9, 10],
      other := redOther r }
  | .scan =>
    { d := .v false, a := .gen 5 false, mod := mTY + mRND + mSAT + 0xF, types := some [0, 1, 2, 3, 4, 5, 8, 9, 10],
      other := redOther r }
  | .topkIns =>
    { d := .vn (2 * (r.fld 2 0 + 1)), a := .gen any false, b := .gen any false, mod := mTY + 0xF,
      types := some [8, 0, 1], dRead := true }
  | .topkClr => { d := .vn (2 * (r.fld 2 0 + 1)), mod := mTY + 0xF, types := some [8, 0, 1] }
  | _ => Form.empty

/-- CP: 0b11 is ILLEGAL_FORM (R149). -/
def cpOk (cp : Nat) : Bool := decide (cp < 3)

/-- A selector 0b11 that an entry admits for a constant word pair alone: an even word, no special register. -/
def pairOnly (sel idx : Nat) : Bool := sel != 3 || (decide (idx % 2 = 0) && (decide (idx < 0x200) || decide (0x216 ≤ idx)))

/-- The values that R183 gives the fields of a queue load: SZ up to 32 bits, SGN for 8 and 16 bits alone, a tag, a policy, and a
base that is an A register or a constant word pair. -/
def queueLoadOk (r : RWord) : Bool :=
  decide (r.fld 21 19 < 3) && (!r.mb 18 || decide (r.fld 21 19 < 2)) && decide (r.fld 13 10 < 14) && cpOk (r.fld 9 8) &&
    pairOnly r.asel r.a.toNat

/-- Class ACC (R178 to R193). -/
def formAcc (f : Fn) (r : RWord) (i : IWord) : Form :=
  match f with
  | .aadd => { d := .a 1, a := .gen 9 true, b := .gen 9 true, mod := mTY, types := some [6, 7] }
  | .aaddImm => { d := .a 1, a := .a 1, types := some [6, 7] }
  | .asub => { d := .a 1, a := .gen 9 true, b := .gen 9 true, mod := mTY, types := some [6, 7] }
  | .amul => { d := .a 1, a := .gen 9 true, b := .gen 9 true, mod := mTY, types := some [6, 7] }
  | .ashl => { d := .a 1, a := .gen 9 true, b := .gen 9 true, mod := mTY, types := some [6, 7] }
  | .ashr => { d := .a 1, a := .gen 9 true, b := .gen 9 true, mod := mTY, types := some [6, 7] }
  | .aand => { d := .a 1, a := .gen 9 true, b := .gen 9 true, mod := mTY, types := some [6, 7] }
  | .amov => { d := .a 1, a := .gen 9 true, mod := mTY, types := some [6, 7] }
  | .amovImm => { d := .a 1, types := some [6, 7] }
  | .acmp =>
    { d := .c, a := .gen 9 true, b := .gen 9 true, mod := mTY + 7, types := some [6, 7], other := decide (r.fld 2 0 < 6) }
  | .abr => { other := i.modi == 0 }
  | .abrq =>
    { d := if i.modi.getLsbD 2 then .a 1 else .none, a := .q 12 15, other := decide (bits i.modi.toNat 1 0 ≠ 3),
      ptOnly := true }
  | .qld =>
    { d := .q 0 11, a := .gen 9 true, b := .gen 9 false, mod := 0x3FBFFF, other := queueLoadOk r }
  | .qldg =>
    { d := .q 0 11, a := .gen 9 true, b := .q 12 15, bsel := 2, mod := 0x3FFFFF, other := queueLoadOk r }
  | .qpop => { d := .a (r.fld 5 0 + 1), a := .q 12 15, asel := 2, mod := 0x7F, lanes := r.fld 5 0 + 1 }
  | .qpush => { d := .q 12 15, a := .gen 11 false }
  | .slip => { a := .gen 9 true }
  | .aexit => { ptOnly := true }
  | _ => Form.empty

/-- The system register indices of R367. -/
def sysIndexOk (n : Nat) : Bool :=
  decide (n < 6) || (decide (8 ≤ n) && decide (n ≤ 0xC)) || (decide (0xE ≤ n) && decide (n ≤ 0x16)) ||
    (decide (0x20 ≤ n) && decide (n ≤ 0x24)) || (decide (0x100 ≤ n) && decide (n ≤ 0x103))

/-- PART and WARP of CTXSV and CTXLD (R381). -/
def partOther (w : RWord) : Bool :=
  let p := w.fld 4 0
  let wn := w.fld 10 5
  decide (p < 9) && (if 1 ≤ p ∧ p ≤ 4 then decide (wn < 32) || wn == 63 else wn == 0)

/-- Class SYS (R188, R370 to R386). -/
def formSys (f : Fn) (r : RWord) (i : IWord) : Form :=
  match f with
  | .trap => { mod := 0xFFFF }
  | .rtt => { mod := 3, ptOnly := true, other := r.fld 1 0 == 0 }
  | .rttNext => { mod := 3, ptOnly := true, other := r.fld 1 0 == 1 }
  | .rttEnd => { mod := 3, ptOnly := true, other := r.fld 1 0 == 2 }
  | .rttSaved => { mod := 3, ptOnly := true, other := r.fld 1 0 == 3 }
  | .rttRpl => { mod := 1, ptOnly := true }
  | .ctxsv => { a := .s 2 2, asel := 1, mod := 0x7FF, other := partOther r }
  | .ctxld => { a := .s 2 2, asel := 1, mod := 0x7FF, other := partOther r }
  | .timer => { a := .cst true, b := .cst true }
  | .timerrd => { d := .s 2 2 }
  | .snap => { d := .s 2 2 }
  | .sysrd => { d := .s 2 2, mod := 0xFFF, other := sysIndexOk (r.fld 11 0) }
  | .syswr => { a := .s 2 2, asel := 1, mod := 0xFFF, other := sysIndexOk (r.fld 11 0) }
  | .scrub => { mod := 0xFF }
  | _ => Form.empty

/-- The register that an access of size code SZ names (R148). -/
def szFld (sz : Nat) : Fld := if sz = 3 then .v true else if sz = 4 then .v4 else .v false

/-- The index field of the address mould (R146). -/
def idxFld (w : RWord) : Fld := if w.mb 14 then .idx else .none

/-- A load or store of the address mould (R146): `mod` has the MOD bits it assigns beyond SZ, SCL, IDX and TAG. -/
def mouldForm (w : RWord) (mod : Nat) (load base64 : Bool) : Form :=
  let sz := w.fld 21 19
  { d := szFld sz, a := if base64 then .base else .gen 11 false, b := idxFld w,
    mod := 0x3BFC00 + (if load && decide (sz < 2) then 0x40000 else 0) + mod,
    other := decide (sz < 5) && decide (w.fld 13 10 < 14) && (mod &&& 0x300 == 0 || cpOk (w.fld 9 8)), dRead := !load }

/-- Class MEM (R146 to R164). -/
def formMem (f : Fn) (r : RWord) (i : IWord) : Form :=
  match f with
  | .ld => mouldForm r 0x3FF true true
  | .st => mouldForm r 0x3FF false true
  | .ldg => mouldForm r 0x3FF true true
  | .stg => mouldForm r 0x3FF false true
  | .ldNf =>
    { mouldForm r 0x30F true true with range := decide (r.fld 3 0 ≠ 15), extra := [(.p, r.fld 3 0)] }
  | .lds => mouldForm r 0xFF true false
  | .sts => mouldForm r 0xFF false false
  | .ldW => mouldForm r 0xFF true false
  | .pgreq =>
    { d := .pres, a := .base, b := idxFld r, mod := 0x3C1FF, other := r.mb 8 || r.d == 15, accPt := true }
  | .pref =>
    { a := .base, b := idxFld r, mod := 0x3C3FF, other := decide (r.fld 9 8 < 2), accPt := true }
  | .wsref => { d := .s 2 2 }
  | .atom =>
    let op := r.fld 17 14
    { d := if r.mb 13 then .v (wide r.ty) else .none, a := .base, b := .gen 11 (wide r.ty), mod := 0x3FFFFF,
      types := some [0, 1, 6, 7, 8], dRead := op == 4, extra := [(.p, r.fld 12 9)],
      other := decide (op < 8) && (op != 4 || r.mb 13) && (r.ty != 8 || decide (op < 5)) && decide (r.fld 12 9 ≠ 15) }
  | .atoms =>
    let op := r.fld 17 14
    { d := if r.mb 13 then .v false else .none, a := .gen 11 false, b := .gen 11 false, mod := 0x3FE1FF,
      types := some [0, 1, 8], dRead := op == 4,
      other := decide (op < 8) && (op != 4 || r.mb 13) && (r.ty != 8 || decide (op < 5)) }
  | _ => Form.empty

/-- Class CPY (R198 to R209). -/
def formCpy (f : Fn) (r : RWord) (i : IWord) : Form :=
  match f with
  | .shld => { d := .sh, a := .ua true }
  | .shst => { d := .sh, a := .ua true }
  | .shset => { d := .sh, a := .ua false, mod := 0x1F }
  | .cpt => { d := .sh, a := .ua false, b := .us 1 1 1, mod := 0x3F8018, other := cpOk (r.fld 4 3) }
  | .cptm => { d := .sh, a := .ua false, b := .us 1 1 1, mod := 0x3F3FF8, other := cpOk (r.fld 4 3) }
  | .cpw => { d := .sh, a := .ua false, b := .us 1 1 1, mod := 0x3F0018, other := cpOk (r.fld 4 3) }
  | .cpl => { a := .us 5 2 3, mod := 0x3FC018, other := cpOk (r.fld 4 3) }
  | .waitall => { a := .ua true }
  | .waitany => { d := .ud, a := .ua true }
  | .tagfind => { d := .ud, a := .ua true, mod := 1 }
  | .tagclr => { a := .ua true }
  | .waitc => { mod := 0x3000FF }
  | _ => Form.empty

/-- The types of the MMA format codes (R216); 99 for the codes that name none. -/
def mmaTy (c : Nat) : Nat := match c with
  | 0 => 10
  | 1 => 11
  | 2 => 12
  | 3 => 13
  | _ => 99

/-- The elements K of a permitted pair of formats and its A row bytes (R216); none for the others. CB2 is code 4 of B. -/
def mmaPair (a b bsrc : Nat) (sck : Bool) : Option (Nat × Nat) :=
  if 1 < bsrc then none
  else
    match a, b with
    | 0, 0 => if sck then none else some (96, 192)
    | 1, 1 | 1, 2 | 2, 1 | 2, 2 => some (192, 192)
    | 3, 3 => some (384, 192)
    | 1, 4 | 2, 4 => if sck || bsrc != 0 then none else some (768, 768)
    | _, _ => none

/-- Whether an MMA's formats are permitted. -/
def mmaOk (w : RWord) : Bool := (mmaPair (w.fld 17 15) (w.fld 14 12) (w.fld 11 10) (w.mb 9)).isSome

/-- Class MTX (R214 to R233). -/
def formMtx (f : Fn) (r : RWord) (i : IWord) : Form :=
  match f with
  | .mma =>
    { d := .t, a := .m (if r.mb 9 then 3 else 2), b := .m 1, mod := 0x3FFF00, other := r.a.toNat % 2 == 0 && mmaOk r,
      range := decide (r.a.toNat + 2 ≤ 15) }
  | .mmaV =>
    { d := .t, a := .s (if r.mb 9 then 3 else 2) 2, b := .s 2 1, asel := 1, bsel := 1, mod := 0x3FFF00, other := mmaOk r }
  | .mfence => { d := if r.mb 0 then .m 1 else .none, mod := 1 }
  | .mwait => { a := .gen 9 false }
  | .tseqInit => { a := .m 3, mod := 7, other := decide (r.fld 2 0 = 0) }
  | .tseqNext => { d := .m 3, mod := 7, other := r.mb 0 }
  | .tzero => { d := .t }
  | .tld => { d := .t, a := .ua false }
  | .tst => { d := .t, a := .ua false }
  | .tcvt => { d := .t, a := .ua false, mod := mTY + mRND + mSAT, types := some [9, 10, 11, 12] }
  | .cbld => { a := .m 1 }
  | .wbld =>
    { a := .m 3, b := .m 1, mod := 0x3F8018,
      other := r.a.toNat % 2 == 0 && cpOk (r.fld 4 3) && (!r.mb 15 || r.fld 4 3 == 0) }
  | .mmov => { d := .m 1, a := .gen 9 false }
  | .mmovImm => { d := .m 1, other := i.modi == 0 }
  | .madd => { d := .m 1, a := .gen 9 false, b := .gen 9 false }
  | .maddImm => { d := .m 1, a := .m 1, other := i.modi == 0 }
  | .mcmp =>
    { d := .c, a := .gen 9 false, b := .gen 9 false, mod := mTY + 7, types := some [0, 1], other := decide (r.fld 2 0 < 6) }
  | .mbr => { other := i.modi == 0 }
  | .mbarArv => { a := .bar, mod := 3, other := r.fld 1 0 == 0 }
  | .mbarWait => { a := .bar, mod := 3, other := r.fld 1 0 == 1 }
  | .mbarSync => { a := .bar, mod := 3, other := r.fld 1 0 == 2 }
  | .mexit => { ptOnly := true }
  | _ => Form.empty

/-- A tile load (R248). -/
def kldForm (r : RWord) : Form :=
  { a := .us 4 2 2, mod := 0x3FF000, other := r.mb 21 || decide (r.fld 20 12 = 0) }

/-- Class KVA (R236 to R253). -/
def formKva (f : Fn) (r : RWord) (i : IWord) : Form :=
  match f with
  | .kldK => kldForm r
  | .kldV => kldForm r
  | .kst => { d := .v false, a := .v true, b := .gen 11 false, mod := 0x200000 }
  | .kprobe => { d := .va false, a := .va true }
  | .kmap =>
    { d := .v false, a := .v true, b := .v true, mod := 0x2000FF, other := r.mb 21 || decide (r.fld 7 0 = 0),
      extra := if r.mb 21 then [(.s, r.fld 7 0)] else [] }
  | .kunmap => { d := .v false, a := .v true }
  | .kvsel =>
    { a := if r.mb 4 then .none else .ua false, mod := 0x1F, other := r.mb 4 || decide (r.fld 3 0 = 0) }
  | _ => Form.empty

/-- STKN names a stack, or the issuer's own (R266). -/
def stknOk (w : RWord) : Bool := decide (w.fld 21 17 < 24) || w.fld 21 17 == 31

/-- The types of the stack core's vector instructions. -/
def zTypes : List Nat := [9, 2, 3]

/-- A two-source Z instruction. -/
def zForm (mod : Nat) (other : Bool) : Form :=
  { d := .z, a := .z, b := .z, mod := mTY + mod, types := some zTypes, other := other }

/-- Class STK (R266 to R275). -/
def formStk (f : Fn) (r : RWord) (i : IWord) : Form :=
  match f with
  | .nmx =>
    { d := if r.mb 1 then .none else .v true, a := .uni false, b := .gen 11 true, mod := 0x3FFFFE,
      other := stknOk r && decide (r.fld 10 6 < 22) && pairOnly r.bsel r.b.toNat }
  | .nmxb => { a := .cst true, b := .uni false, mod := 0x3FF83C, other := stknOk r }
  | .nmxr => { d := .v true, mod := 0x3FF800, other := stknOk r }
  | .nmxc => { mod := 0x3FF83C, other := stknOk r }
  | .rclaim => { d := .c, a := .x 1 1, b := .x 1 1 }
  | .rrel => { a := if r.mb 0 then .none else .x 1 1, b := if r.mb 0 then .none else .x 1 1, mod := 1 }
  | .bdmaLd => { d := .x 1 1, a := .x 1 1, b := .x 1 1 }
  | .bdmaSt => { d := .x 1 1, a := .x 1 1, b := .x 1 1 }
  | .xld =>
    { d := .x 1 1, a := .x 1 1, mod := 0x3CFFFF,
      other := decide (r.fld 21 19 < 4) && (!r.mb 18 || decide (r.fld 21 19 < 3)) }
  | .xst => { d := .x 1 1, a := .x 1 1, mod := 0x38FFFF, other := decide (r.fld 21 19 < 4) }
  | .zld => { d := .z, a := .x 1 1, mod := 0xFFFF }
  | .zst => { d := .z, a := .x 1 1, mod := 0xFFFF }
  | .zadd => zForm 0 true
  | .zsub => zForm 0 true
  | .zmul => zForm 0 true
  | .zmin => zForm 0 true
  | .zmax => zForm 0 true
  | .zcmp => zForm 7 (r.ty == 9 || decide (r.fld 2 0 < 6))
  | .zsel => { d := .z, a := .z, b := .z }
  | .zcvt =>
    { d := .z, a := .z, mod := mTY + mRND + mSAT + 0xF, types := some [9, 10, 2, 3],
      other := [9, 10, 2, 3].contains (r.fld 3 0) }
  | .zbcast => { d := .z, a := .z, mod := 0x3F }
  | .zred => { d := .x 1 1, a := .z, mod := mTY + 3, types := some zTypes, other := decide (r.fld 1 0 < 3) }
  | .zmov => { d := .z, a := if r.fld 1 0 == 3 then .none else .z, mod := 0x7F }
  | .cmdend => { a := .x 1 1, mod := 0x7F }
  | _ => Form.empty

/-- SCOPE: 0b110 and 0b111 are ILLEGAL_FORM (R282). -/
def scopeOk (x : Nat) : Bool := decide (x < 6)

/-- A status predicate that MOD names, 15 for none. -/
def stpExtra (x : Nat) : List (RegKind × Nat) := if x = 15 then [] else [(.p, x)]

/-- Class SYN (R291 to R298). -/
def formSyn (f : Fn) (r : RWord) (i : IWord) : Form :=
  match f with
  | .fence => { mod := 0x3E0000, other := scopeOk (r.fld 21 19) && decide (r.fld 18 17 < 3) }
  | .ldAcq =>
    { mouldForm r 0x3FF false true with
      dRead := false, other := (r.fld 21 19 == 2 || r.fld 21 19 == 3) && decide (r.fld 13 10 < 14) && scopeOk (r.fld 9 7) }
  | .stRel =>
    { mouldForm r 0x3FF false true with
      other := (r.fld 21 19 == 2 || r.fld 21 19 == 3) && decide (r.fld 13 10 < 14) && scopeOk (r.fld 9 7) }
  | .atomg =>
    let op := r.fld 17 14
    { d := if r.mb 13 then .v (wide r.ty) else .none, a := .base, b := .gen 11 (wide r.ty), mod := 0x3FFFFF,
      types := some [0, 1, 6, 7, 8], dRead := op == 4, extra := [(.p, r.fld 12 9)],
      other := decide (op < 8) && (op != 4 || r.mb 13) && (r.ty != 8 || decide (op < 5)) && decide (r.fld 12 9 ≠ 15) &&
        scopeOk (r.fld 8 6) }
  | .barArv => { a := .bar }
  | .barWait => { a := .bar }
  | .barSync => { a := .bar }
  | .barInit => { a := .bar, b := .uni false }
  | .sigAdd =>
    { d := if r.mb 18 then .s 2 2 else .none, a := .ua true, b := .ua true, mod := 0x3C1E00, other := scopeOk (r.fld 21 19),
      extra := stpExtra (r.fld 12 9) }
  | .sigWait =>
    { d := .s 2 2, a := .ua true, b := .ua true, mod := 0x3FFE00, other := scopeOk (r.fld 21 19),
      extra := stpExtra (r.fld 12 9) }
  | .sigRd => { d := .s 2 2, a := .ua true, mod := 0x380000, other := scopeOk (r.fld 21 19) }
  | _ => Form.empty

/-- The shared mould of WB, INV and WBINV, PIN and UNPIN (R305, R308). -/
def rangeForm (d : Fld) (mod : Nat) (other : Bool) : Form := { d := d, a := .cst true, b := .uni false, mod := mod, other := other }

/-- Class RGN (R301 to R313). -/
def formRgn (f : Fn) (r : RWord) (i : IWord) : Form :=
  match f with
  | .acqr => { d := .s 1 1, a := .uni false, mod := 0xF }
  | .relr => { d := .s 1 1, a := .uni false }
  | .wb => rangeForm .none 0x300000 (decide (r.fld 21 20 < 3))
  | .inv => rangeForm .none 0x300000 (decide (r.fld 21 20 < 3))
  | .wbinv => rangeForm .none 0x300000 (decide (r.fld 21 20 < 3))
  | .pin => rangeForm (.s 1 1) 0 true
  | .unpin => rangeForm (.s 1 1) 0 true
  | .rgnq => { d := .s 2 2, a := .uni false }
  | _ => Form.empty

/-- A window instruction (R330): its MADDR in A and its status register in MOD[7:0]. `extra` are further S registers that
it names. -/
def windowForm (d b : Fld) (bsel mod : Nat) (other : Bool) (r : RWord) (extra : List (RegKind × Nat)) : Form :=
  { d := d, a := .cst true, b := b, bsel := bsel, mod := 0x3C00FF + mod, other := other, extra := (.s, r.fld 7 0) :: extra }

/-- Class POD (R314 to R343). -/
def formPod (f : Fn) (r : RWord) (i : IWord) : Form :=
  match f with
  | .mqPush => windowForm (.s 1 1) (.uni false) 0 0xF00 true r []
  | .mqPop => windowForm (.s 1 1) (.uni false) 0 0xF00 true r []
  | .matom =>
    windowForm (if r.mb 12 then .s 2 2 else .none) (.s (if r.fld 17 14 == 4 then 4 else 2) 2) 1 0x3F000
      (decide (r.fld 17 14 < 8)) r []
  | .mred => windowForm .none (.s 2 2) 1 0x20000 true r []
  | .mflagSet => windowForm .none (.s 2 2) 1 0 true r []
  | .mflagWait => windowForm (.s 2 2) (.s 2 2) 1 0x30000 true r []
  | .colRs => { a := .cst true, mod := 0x3CFF00 }
  | .colAg => { a := .cst true, mod := 0x3CFF00 }
  | .colWait => { d := .s 1 1, mod := 0x3CFF00 }
  | .grpForm => { d := .s 1 1, a := .cst true, mod := 0x3C0000 }
  | .grpStat => { d := .s 4 4, mod := 0x3C0000 }
  | .replay => windowForm (.s 2 2) (.s 1 1) 1 0 true r []
  | .xchPush => windowForm (.s 2 2) (.s 4 2) 1 0 true r []
  | .lnkStat => { d := .s 2 2, mod := 0x700 }
  | _ => Form.empty

/-- Class GRF (R355). -/
def formGrf (f : Fn) (r : RWord) (i : IWord) : Form :=
  match f with
  | .launch => { d := .s 1 1, a := .cst true }
  | .launchg => { d := .s 2 2, a := .cst true, b := .uni false }
  | .nqPush => { d := .s 1 1, a := .uni false, b := .uni false, mod := 0x30003F }
  | .nqFlush => { d := .s 1 1, a := .uni false, mod := 0x300000 }
  | .nqStat => { d := .s 4 4, a := .uni false, mod := 0x300000 }
  | .sigSet =>
    { a := .cst true, b := .cst true, mod := 0x381E00, other := scopeOk (r.fld 21 19), extra := stpExtra (r.fld 12 9) }
  | _ => Form.empty

/-- What the entry of an instruction says of its fields. -/
def formOf (f : Fn) (b : Body) : Form :=
  let r : RWord := match b with
    | .r w => w
    | _ => default
  let i : IWord := match b with
    | .i w => w
    | _ => default
  match f.opc.toNat / 64 with
  | 0 => formCtl f r i
  | 1 => formInt f r i
  | 2 => formFlt f r i
  | 3 => formCvt f r i
  | 4 => formPkx f r i
  | 5 => formMem f r i
  | 6 => formAcc f r i
  | 7 => formCpy f r i
  | 8 => formMtx f r i
  | 9 => formKva f r i
  | 10 => formStk f r i
  | 11 => formSyn f r i
  | 12 => formRgn f r i
  | 13 => formPod f r i
  | 14 => formGrf f r i
  | _ => formSys f r i

/-- Whether the functions of a class are valid in a stream (R58), or in the stack profile (R59). -/
def validFn (st : Stream) (cls fn : Nat) : Bool :=
  match st with
  | .compute =>
    match cls with
    | 6 => fn == 15
    | 8 => fn == 1 || (decide (5 ≤ fn) && decide (fn ≤ 8))
    | 10 => decide (fn < 4)
    | _ => true
  | .access =>
    match cls with
    | 0 => fn == 0 || fn == 10
    | 5 => fn == 3 || fn == 12
    | 6 => fn != 15
    | 7 => true
    | 9 => fn == 0 || fn == 1 || fn == 3 || fn == 6
    | 11 => fn == 0 || fn == 4 || fn == 5
    | 15 => fn == 0
    | _ => false
  | .matrix =>
    match cls with
    | 0 => fn == 0
    | 7 => fn == 7 || fn == 8 || fn == 9
    | 8 => !(fn == 1 || fn == 6 || fn == 7 || fn == 8)
    | 15 => fn == 0
    | _ => false
  | .stack =>
    match cls with
    | 0 => fn == 0 || fn == 1 || fn == 3 || fn == 4 || fn == 6 || fn == 7 || fn == 9
    | 1 => decide (fn ≤ 0x23)
    | 10 => decide (0x20 ≤ fn)
    | 11 => fn == 0
    | 15 => fn == 0 || fn == 7
    | _ => false

/-- Whether an instruction word is valid in a stream. -/
def validIn (st : Stream) (f : Fn) : Bool := validFn st (f.opc.toNat / 64) (f.opc.toNat % 64)

/-- An index that names a pair in a constant bank is even; special registers are widened (R114). -/
def cstForm (wide : Bool) (idx : Nat) : Bool := !wide || decide (0x200 ≤ idx) || decide (idx % 2 = 0)

/-- The ILLEGAL_FORM conditions of one register field (R38, R39, R42, R114, R177): `sel` is its selector, `fix` the one
that a field of a fixed class must have. -/
def fieldForm (st : Stream) (f : Fld) (sel fix idx : Nat) : Bool :=
  match f with
  | .none => decide (sel = 0) && decide (idx = 0)
  | .free => decide (sel = fix)
  | .gen sels wide =>
    sels.testBit sel &&
      (match st, sel with
       | .compute, 0 => !wide || decide (idx % 2 = 0)
       | .compute, 1 => !wide || decide (idx % 2 = 0)
       | .compute, 2 => !wide && (decide (idx < 12) || decide (15 < idx))
       | .compute, _ => cstForm wide idx
       | .access, 0 => true
       | .access, 3 => decide (idx ≠ 0x200) && cstForm wide idx
       | .access, _ => false
       | .matrix, 0 => true
       | .matrix, 3 => decide (idx ≠ 0x200) && cstForm wide idx
       | .matrix, _ => false
       | .stack, 0 => true
       | .stack, 3 => true
       | .stack, _ => false)
  | .uni wide =>
    match st with
    | .compute =>
      (sel == 1 && (!wide || decide (idx % 2 = 0))) || (sel == 3 && decide (idx ≠ 0x200) && cstForm wide idx)
    | _ => false
  | .cst pair =>
    (sel == 1 && (!pair || decide (idx % 2 = 0))) ||
      (sel == 3 && (decide (idx < 0x200) || decide (0x216 ≤ idx)) && (!pair || decide (idx % 2 = 0)))
  | .v wide => decide (sel = fix) && (st == .stack || !wide || decide (idx % 2 = 0))
  | .vn _ => decide (sel = fix) && decide (idx % 2 = 0)
  | .v4 => decide (sel = fix) && decide (idx % 4 = 0)
  | .base =>
    match st with
    | .compute =>
      ((sel == 0 || sel == 1) && decide (idx % 2 = 0)) ||
        (sel == 3 && decide (idx % 2 = 0) && (decide (idx < 0x200) || decide (0x216 ≤ idx)))
    | .access => sel == 0
    | _ => false
  | .idx =>
    match st with
    | .compute => sel == 0 || sel == 1 || sel == 3
    | _ => false
  | .pres => decide (sel = fix) && (st == .compute || decide (idx = 15))
  | .s _ k => decide (sel = fix) && (st == .stack || decide (idx % k = 0))
  | .ua wide =>
    match st with
    | .access => sel == 0
    | _ =>
      (sel == (if st = .matrix then 0 else 1) && (!wide || decide (idx % 2 = 0))) ||
        (sel == 3 && (if wide then (decide (idx < 0x200) || decide (0x216 ≤ idx)) && decide (idx % 2 = 0)
                      else decide (idx ≠ 0x200)))
  | .us _ k _ => if st = .access then sel == 0 else sel == 1 && decide (idx % k = 0)
  | .ud => sel == 0
  | .va wide => sel == 0 && (st == .access || !wide || decide (idx % 2 = 0))
  | .q lo hi => decide (sel = fix) && (decide (15 < idx) || (decide (lo ≤ idx) && decide (idx ≤ hi)))
  | _ => decide (sel = fix)

/-- Whether a field names a queue (R48: REUSE must not). -/
def fieldQueue (f : Fld) (sel : Nat) : Bool :=
  match f with
  | .gen _ _ => sel == 2
  | .q _ _ => true
  | _ => false

/-- The control fields of an instruction word. -/
def ctlOfBody (b : Body) : Ctl :=
  match b with
  | .r w => w.ctl
  | .i w => w.ctl
  | .event => default

/-- Rank 3 of R55, as far as the word alone decides it: no reserved bit set, SETF at most 12, and no operand form that
R38, R39, R42, R43, R48 or the entry forbids. -/
def formOk (st : Stream) (f : Fn) (b : Body) : Bool :=
  let e := formOf f b
  let c := ctlOfBody b
  let common := decide (c.setf.toNat ≤ 12) && (!e.ptOnly || decide (c.g = 0x0F)) &&
    (!e.accPt || st != .access || decide (c.g = 0x0F)) && e.other &&
    (st != .stack || (c.reuse == 0 && !c.yld))
  match b with
  | .r w =>
    common && decide (w.mod.toNat % 2 ^ 22 &&& e.mod = w.mod.toNat % 2 ^ 22) &&
      (match e.types with
       | some ts => ts.contains w.ty
       | none => true) &&
      fieldForm st e.d 0 0 w.d.toNat && fieldForm st e.a w.asel e.asel w.a.toNat &&
      fieldForm st e.b w.bsel e.bsel w.b.toNat &&
      !(c.reuse.getLsbD 2 && fieldQueue e.d 0) && !(c.reuse.getLsbD 1 && fieldQueue e.a w.asel) &&
      !(c.reuse.getLsbD 0 && fieldQueue e.b w.bsel)
  | .i w =>
    common &&
      (match e.types with
       | some ts => ts.contains w.modi.toNat
       | none => true) &&
      fieldForm st e.d 0 0 w.d.toNat && fieldForm st e.a 0 0 w.a.toNat &&
      !(c.reuse.getLsbD 2 && fieldQueue e.d 0) && !(c.reuse.getLsbD 1 && fieldQueue e.a 0)
  | .event => true

/-- What REG_RANGE depends on besides the word (R29, R38, R40): the kernel record's N, W, NTILES, PARAMSZ and whether it
has a K1 bank, and whether the warp has an access stream. -/
structure Limits where
  n : Nat
  w : Nat
  ntiles : Nat
  paramsz : Nat
  k1 : Bool
  acc : Bool
  warps : Nat
  deriving DecidableEq, Repr, Inhabited

/-- Whether words `idx` … `idx + cnt − 1` of selector 0b11 name something (R40). -/
def cstRange (lim : Limits) (idx cnt : Nat) : Bool :=
  if idx < 0x100 then decide (idx + cnt ≤ lim.paramsz)
  else if idx < 0x200 then lim.k1
  else decide (idx < 0x216)

/-- The REG_RANGE conditions of one register field (R29, R38 to R40, R177). DESIGN CHOICE (log 125): an A index above 63 of an
access-stream PGREQ or PREF is this REG_RANGE (R38, R176), not the ILLEGAL_FORM that R157 gives its other values. -/
def fieldRange (st : Stream) (lim : Limits) (f : Fld) (sel idx : Nat) : Bool :=
  let cnt (wide : Bool) : Nat := if wide then 2 else 1
  match f with
  | .none | .free => true
  | .gen _ wide =>
    match st, sel with
    | .compute, 0 => decide (idx + cnt wide ≤ lim.n)
    | .compute, 1 => decide (idx + cnt wide ≤ 256)
    | .compute, 2 => decide (idx < 16) && lim.acc
    | .compute, _ => cstRange lim idx (cnt wide)
    | .access, 0 => decide (idx < 64)
    | .access, _ => cstRange lim idx (cnt wide)
    | .matrix, 0 => decide (idx < 16)
    | .matrix, _ => cstRange lim idx (cnt wide)
    | .stack, 0 => decide (idx < 32)
    | .stack, _ => decide (0x200 ≤ idx) && decide (idx ≤ 0x205)
  | .uni wide => if sel = 1 then decide (idx + cnt wide ≤ 256) else cstRange lim idx (cnt wide)
  | .cst pair => if sel = 1 then decide (idx + cnt pair ≤ 256) else cstRange lim idx (cnt pair)
  | .v wide => if st = .stack then decide (idx < 32) else decide (idx + cnt wide ≤ lim.n)
  | .vn n => decide (idx + n ≤ lim.n)
  | .v4 => decide (idx + 4 ≤ lim.n)
  | .base =>
    match st, sel with
    | .access, _ => decide (idx < 64)
    | _, 0 => decide (idx + 2 ≤ lim.n)
    | _, 1 => decide (idx + 2 ≤ 256)
    | _, _ => cstRange lim idx 2
  | .idx =>
    match sel with
    | 0 => decide (idx < lim.n)
    | 1 => decide (idx < 256)
    | _ => cstRange lim idx 1
  | .pres => decide (idx < 16)
  | .s n _ => if st = .stack then decide (idx < 32) else decide (idx + n ≤ 256)
  | .pd => decide (idx < 15)
  | .ps => decide (idx < 16)
  | .a n => decide (idx + n ≤ 64)
  | .c => decide (idx < 4)
  | .m n => decide (idx + n ≤ 16)
  | .t => decide (idx < lim.ntiles)
  | .sh => decide (idx < 16)
  | .bar => decide (idx < 32)
  | .q _ _ => decide (idx < 16) && lim.acc
  | .x n k => decide (idx + n ≤ 32) && decide (idx % k = 0)
  | .z => decide (idx < 32)
  | .ua wide =>
    match st, sel with
    | .access, _ => decide (idx < 64)
    | _, 3 => cstRange lim idx (cnt wide)
    | .matrix, _ => decide (idx + cnt wide ≤ 16)
    | _, _ => decide (idx + cnt wide ≤ 256)
  | .us n _ na => if st = .access then decide (idx + na ≤ 64) else decide (idx + n ≤ 256)
  | .ud =>
    match st with
    | .access => decide (idx < 64)
    | .matrix => decide (idx < 16)
    | _ => decide (idx < 256)
  | .va wide => if st = .access then decide (idx < 64) else decide (idx + cnt wide ≤ lim.n)

/-- The guard field names something: any predicate in a compute stream; C0 to C3 or always in the access and matrix
streams and the stack profile (R45, R59, R177, R212). -/
def guardRange (st : Stream) (g : BitVec 5) : Bool :=
  st == .compute || decide (g.toNat % 16 < 4) || decide (g.toNat % 16 = 15)

/-- The D field of a word. -/
def dOf (b : Body) : Nat :=
  match b with
  | .r w => w.d.toNat
  | .i w => w.d.toNat
  | .event => 0

/-- The warp that a CTXSV or CTXLD names exists (R381). -/
def partRange (lim : Limits) (f : Fn) (b : Body) : Bool :=
  match f, b with
  | .ctxsv, .r w => w.fld 10 5 == 63 || w.fld 10 5 == 0 || decide (w.fld 10 5 < lim.warps)
  | .ctxld, .r w => w.fld 10 5 == 63 || w.fld 10 5 == 0 || decide (w.fld 10 5 < lim.warps)
  | _, _ => true

/-- Rank 5 of R55: every register that the word names exists. -/
def rangeOk (st : Stream) (lim : Limits) (f : Fn) (b : Body) : Bool :=
  let e := formOf f b
  let c := ctlOfBody b
  guardRange st c.g && e.range && partRange lim f b && e.extra.all (fun x => x.1 != .v || decide (x.2 < lim.n)) && (st != .stack || !e.dPred || decide (dOf b % 16 < 4)) &&
    (match b with
     | .r w =>
       fieldRange st lim e.d 0 w.d.toNat && fieldRange st lim e.a w.asel w.a.toNat &&
         fieldRange st lim e.b w.bsel w.b.toNat
     | .i w => fieldRange st lim e.d 0 w.d.toNat && fieldRange st lim e.a 0 w.a.toNat
     | .event => true)

/-- The rest of rank 3 that the kernel record decides: QPOP's count against W (R191). -/
def formLanes (lim : Limits) (f : Fn) (b : Body) : Bool := decide ((formOf f b).lanes ≤ lim.w)

/-- The scoreboard registers that a field names (R52): `n` registers from `idx`. -/
def regsFrom (k : RegKind) (warp idx n : Nat) : List Reg := (List.range n).map (fun j => ⟨k, warp, idx + j⟩)

/-- The scoreboard registers of one field. -/
def fieldRegs (st : Stream) (warp : Nat) (f : Fld) (sel idx : Nat) : List Reg :=
  let cnt (wide : Bool) : Nat := if wide then 2 else 1
  match f with
  | .gen _ wide =>
    match st, sel with
    | .compute, 0 => regsFrom .v warp idx (cnt wide)
    | .compute, 1 => regsFrom .s warp idx (cnt wide)
    | .access, 0 => regsFrom .a warp idx 1
    | .matrix, 0 => regsFrom .m 0 idx 1
    | _, _ => []
  | .uni wide => if sel = 1 then regsFrom .s warp idx (cnt wide) else []
  | .cst pair => if sel = 1 then regsFrom .s warp idx (cnt pair) else []
  | .v wide => regsFrom .v warp idx (cnt wide)
  | .vn n => regsFrom .v warp idx n
  | .v4 => regsFrom .v warp idx 4
  | .base =>
    match st, sel with
    | .access, _ => regsFrom .a warp idx 1
    | _, 0 => regsFrom .v warp idx 2
    | _, 1 => regsFrom .s warp idx 2
    | _, _ => []
  | .idx => if sel = 0 then regsFrom .v warp idx 1 else if sel = 1 then regsFrom .s warp idx 1 else []
  | .pres => if idx < 15 then regsFrom .p warp idx 1 else []
  | .s n _ => regsFrom .s warp idx n
  | .pd => regsFrom .p warp idx 1
  | .ps => if idx < 15 then regsFrom .p warp idx 1 else []
  | .a n => regsFrom .a warp idx n
  | .m n => regsFrom .m 0 idx n
  | .t => regsFrom .tile 0 idx 1
  | .ua wide =>
    match st, sel with
    | _, 3 => []
    | .access, _ => regsFrom .a warp idx 1
    | .matrix, _ => regsFrom .m 0 idx (cnt wide)
    | _, _ => regsFrom .s warp idx (cnt wide)
  | .va wide => if st = .access then regsFrom .a warp idx 1 else regsFrom .v warp idx (cnt wide)
  | .us n _ na => if st = .access then regsFrom .a warp idx na else regsFrom .s warp idx n
  | .ud =>
    match st with
    | .access => regsFrom .a warp idx 1
    | .matrix => regsFrom .m 0 idx 1
    | _ => regsFrom .s warp idx 1
  | _ => []

/-- Every scoreboard register that the word's fields name, its guard predicate among them, in the order guard, D, A,
B, which is the order in which SCHED_CHECK reports one. -/
def wordRegs (st : Stream) (warp : Nat) (f : Fn) (b : Body) : List Reg :=
  let e := formOf f b
  let c := ctlOfBody b
  let g := if st = .compute ∧ c.g.toNat % 16 < 15 then regsFrom .p warp (c.g.toNat % 16) 1 else []
  let x := (e.extra.map (fun x => regsFrom x.1 warp x.2 1)).flatten
  match b with
  | .r w =>
    g ++ (if e.dPred then regsFrom .p warp (w.d.toNat % 16) 1 else []) ++ fieldRegs st warp e.d 0 w.d.toNat ++
      fieldRegs st warp e.a w.asel w.a.toNat ++ fieldRegs st warp e.b w.bsel w.b.toNat ++ x
  | .i w =>
    g ++ (if e.dPred then regsFrom .p warp (w.d.toNat % 16) 1 else []) ++ fieldRegs st warp e.d 0 w.d.toNat ++
      fieldRegs st warp e.a 0 w.a.toNat
  | .event => []

/-- The forward queues that a compute word names as sources, each once (R56). -/
def wordQueues (f : Fn) (b : Body) : List Nat :=
  let e := formOf f b
  match b with
  | .r w =>
    let qa := if fieldQueue e.a w.asel then [w.a.toNat] else []
    let qb := if fieldQueue e.b w.bsel then [w.b.toNat] else []
    if qa = qb then qa else qa ++ qb
  | _ => []

end Sys2Proof.Machine
end

