-- ==== Sys2Proof/WellFormed.lean ====
section
/-! DEFINITION. Well-formed instructions: those a stream decodes without ILLEGAL_OPCODE or ILLEGAL_FORM (R55, ranks 2
and 3). The checks themselves are in Machine/Forms.lean. -/

namespace Sys2Proof

/-- The instruction is an instruction word, valid in the stream (R58, R59), that breaks no form rule. -/
def wellFormed (st : Machine.Stream) (i : Instr) : Bool :=
  match fnOf i with
  | none => false
  | some f => Machine.validIn st f && Machine.formOk st f (bodyOf i)

end Sys2Proof
end

