-- ==== Sys2Proof/Decode.lean ====
section
/-! DEFINITION. Decoding an instruction word (R36, R44, R57, R58), total on any 96 bits and refusing by name; the
encoder of every instruction word beside it; and the reading of words from bytes in memory (R5). -/

namespace Sys2Proof

/-- Why a word is no instruction of its stream (R55, ranks 2 and 3). -/
inductive DecodeError where
  | illegalOpcode
  | illegalForm
  deriving DecidableEq, Repr, Inhabited

/-- The fields of an I-form word (R44). -/
def iOf (w : BitVec 96) : IWord :=
  { d := w.extractLsb' 76 10, a := w.extractLsb' 66 10, imm := w.extractLsb' 34 32, modi := w.extractLsb' 30 4,
    ctl := ctlOf w }

/-- The low 30 bits of every word: G, STALL, WAIT, SETF, REUSE, YLD, PAIR (R36). -/
def packCtl (c : Ctl) : BitVec 30 :=
  c.g ++ c.stall ++ c.wait ++ c.setf ++ c.reuse ++ BitVec.ofBool c.yld ++ BitVec.ofBool c.pair

/-- An R-form word of opcode `opc` (R36). -/
def packR (opc : BitVec 10) (w : RWord) : BitVec 96 := opc ++ w.d ++ w.a ++ w.b ++ w.mod ++ packCtl w.ctl

/-- An I-form word of opcode `opc` (R44). -/
def packI (opc : BitVec 10) (w : IWord) : BitVec 96 := opc ++ w.d ++ w.a ++ w.imm ++ w.modi ++ packCtl w.ctl

/-- The functions of class CTL (R57). -/
def classCtl (f : Nat) (r : RWord) (i : IWord) : Option Instr :=
  match f with
  | 0 => some (.nop r)
  | 1 => some (.bra i)
  | 2 => some (.brx r)
  | 3 => some (.bru i)
  | 4 => some (.call i)
  | 5 => some (.callx r)
  | 6 => some (.ret r)
  | 7 => some (.exit r)
  | 8 => some (.merge r)
  | 9 => some (.loop i)
  | 10 => some (.yield r)
  | 11 => some (.pushp r)
  | 12 => some (.invp r)
  | 13 => some (.popp r)
  | 14 => some (.pand r)
  | 15 => some (.por r)
  | 16 => some (.pxor r)
  | 17 => some (.pnot r)
  | 18 => some (.pmov r)
  | 19 => some (.p2v r)
  | 20 => some (.v2p r)
  | 21 => some (.vote r)
  | _ => none

/-- The functions of class INT (R57). -/
def classInt (f : Nat) (r : RWord) (i : IWord) : Option Instr :=
  match f with
  | 0 => some (.iadd r)
  | 1 => some (.iaddImm i)
  | 2 => some (.isub r)
  | 3 => some (.imul r)
  | 4 => some (.imulImm i)
  | 5 => some (.imad r)
  | 6 => some (.imulhi r)
  | 7 => some (.imin r)
  | 8 => some (.imax r)
  | 9 => some (.iabs r)
  | 10 => some (.ineg r)
  | 11 => some (.andB r)
  | 12 => some (.andImm i)
  | 13 => some (.orB r)
  | 14 => some (.orImm i)
  | 15 => some (.xorB r)
  | 16 => some (.xorImm i)
  | 17 => some (.notB r)
  | 18 => some (.shl r)
  | 19 => some (.shlImm i)
  | 20 => some (.shr r)
  | 21 => some (.shrImm i)
  | 22 => some (.rot r)
  | 23 => some (.icmp r)
  | 24 => some (.icmpImm i)
  | 25 => some (.sel r)
  | 26 => some (.mov r)
  | 27 => some (.movImm i)
  | 28 => some (.popc r)
  | 29 => some (.clz r)
  | 30 => some (.ctz r)
  | 31 => some (.brev r)
  | 32 => some (.bfe r)
  | 33 => some (.bfi r)
  | 34 => some (.lea r)
  | 35 => some (.leaImm i)
  | 36 => some (.vread r)
  | 37 => some (.vwrite r)
  | 40 => some (.sadd r)
  | 41 => some (.saddImm i)
  | 42 => some (.ssub r)
  | 43 => some (.smul r)
  | 44 => some (.sand r)
  | 45 => some (.sor r)
  | 46 => some (.sxor r)
  | 47 => some (.sshl r)
  | 48 => some (.sshr r)
  | 49 => some (.scmp r)
  | 50 => some (.smov r)
  | 51 => some (.smovImm i)
  | 52 => some (.ssel r)
  | _ => none

/-- The functions of class FLT (R57). -/
def classFlt (f : Nat) (r : RWord) (i : IWord) : Option Instr :=
  match f with
  | 0 => some (.fadd r)
  | 1 => some (.faddImm i)
  | 2 => some (.fsub r)
  | 3 => some (.fmul r)
  | 4 => some (.fmulImm i)
  | 5 => some (.fma r)
  | 6 => some (.fmin r)
  | 7 => some (.fmax r)
  | 8 => some (.fabs r)
  | 9 => some (.fneg r)
  | 10 => some (.fcmp r)
  | 11 => some (.fcmpImm i)
  | 12 => some (.fclass r)
  | 13 => some (.flgrd r)
  | 14 => some (.flgwr r)
  | 15 => some (.flgclr r)
  | _ => none

/-- The functions of class CVT (R57). -/
def classCvt (f : Nat) (r : RWord) (i : IWord) : Option Instr :=
  match f with
  | 0 => some (.cvt r)
  | 1 => some (.qcvt r)
  | 2 => some (.dqcvt r)
  | 3 => some (.pack r)
  | 4 => some (.unpack r)
  | 5 => some (.scale r)
  | 6 => some (.amax r)
  | 7 => some (.exp2 r)
  | 8 => some (.log2 r)
  | 9 => some (.rcp r)
  | 10 => some (.rsq r)
  | 11 => some (.sqrt r)
  | 12 => some (.stq r)
  | 13 => some (.ldq r)
  | 14 => some (.srseed r)
  | _ => none

/-- The functions of class PKX (R57). -/
def classPkx (f : Nat) (r : RWord) (i : IWord) : Option Instr :=
  match f with
  | 0 => some (.dot4 r)
  | 1 => some (.dot8 r)
  | 2 => some (.dot2 r)
  | 3 => some (.padd r)
  | 4 => some (.psub r)
  | 5 => some (.pmin r)
  | 6 => some (.pmax r)
  | 7 => some (if r.mod.getLsbD 0 then .shrSat r else .shrRnd r)
  | 8 => some (.shrRndImm i)
  | 9 => some (.slide r)
  | 10 => some (.slideImm i)
  | 11 => some (.shfl r)
  | 12 => some (.shflImm i)
  | 13 => some (.bcast r)
  | 14 => some (.red r)
  | 15 => some (.scan r)
  | 16 => some (.topkIns r)
  | 17 => some (.topkClr r)
  | _ => none

/-- The functions of class MEM (R57). -/
def classMem (f : Nat) (r : RWord) (i : IWord) : Option Instr :=
  match f with
  | 0 => some (.ld r)
  | 1 => some (.st r)
  | 2 => some (.ldNf r)
  | 3 => some (.pgreq r)
  | 4 => some (.lds r)
  | 5 => some (.sts r)
  | 6 => some (.ldg r)
  | 7 => some (.stg r)
  | 8 => some (.ldW r)
  | 9 => some (.wsref r)
  | 10 => some (.atom r)
  | 11 => some (.atoms r)
  | 12 => some (.pref r)
  | _ => none

/-- The functions of class ACC (R57). -/
def classAcc (f : Nat) (r : RWord) (i : IWord) : Option Instr :=
  match f with
  | 0 => some (.aadd r)
  | 1 => some (.aaddImm i)
  | 2 => some (.asub r)
  | 3 => some (.amul r)
  | 4 => some (.ashl r)
  | 5 => some (.ashr r)
  | 6 => some (.aand r)
  | 7 => some (.amov r)
  | 8 => some (.amovImm i)
  | 9 => some (.acmp r)
  | 10 => some (.abr i)
  | 11 => some (.abrq i)
  | 12 => some (.qld r)
  | 13 => some (.qldg r)
  | 14 => some (.qpop r)
  | 15 => some (.qpush r)
  | 16 => some (.slip r)
  | 17 => some (.aexit r)
  | _ => none

/-- The functions of class CPY (R57). -/
def classCpy (f : Nat) (r : RWord) (i : IWord) : Option Instr :=
  match f with
  | 0 => some (.shld r)
  | 1 => some (.shst r)
  | 2 => some (.shset r)
  | 3 => some (.cpt r)
  | 4 => some (.cptm r)
  | 5 => some (.cpl r)
  | 6 => some (.cpw r)
  | 7 => some (.waitall r)
  | 8 => some (.waitany r)
  | 9 => some (.tagfind r)
  | 10 => some (.tagclr r)
  | 11 => some (.waitc r)
  | _ => none

/-- The functions of class MTX (R57). -/
def classMtx (f : Nat) (r : RWord) (i : IWord) : Option Instr :=
  match f with
  | 0 => some (.mma r)
  | 1 => some (.mmaV r)
  | 2 => some (.mfence r)
  | 3 => some (.mwait r)
  | 4 => some (if r.mod.getLsbD 0 then .tseqNext r else .tseqInit r)
  | 5 => some (.tzero r)
  | 6 => some (.tld r)
  | 7 => some (.tst r)
  | 8 => some (.tcvt r)
  | 9 => some (.cbld r)
  | 10 => some (.wbld r)
  | 11 => some (.mmov r)
  | 12 => some (.mmovImm i)
  | 13 => some (.madd r)
  | 14 => some (.maddImm i)
  | 15 => some (.mcmp r)
  | 16 => some (.mbr i)
  | 17 => some (if r.mod.getLsbD 1 then .mbarSync r else if r.mod.getLsbD 0 then .mbarWait r else .mbarArv r)
  | 18 => some (.mexit r)
  | _ => none

/-- The functions of class KVA (R57). -/
def classKva (f : Nat) (r : RWord) (i : IWord) : Option Instr :=
  match f with
  | 0 => some (.kldK r)
  | 1 => some (.kldV r)
  | 2 => some (.kst r)
  | 3 => some (.kprobe r)
  | 4 => some (.kmap r)
  | 5 => some (.kunmap r)
  | 6 => some (.kvsel r)
  | _ => none

/-- The functions of class STK (R57). -/
def classStk (f : Nat) (r : RWord) (i : IWord) : Option Instr :=
  match f with
  | 0 => some (.nmx r)
  | 1 => some (.nmxb r)
  | 2 => some (.nmxr r)
  | 3 => some (.nmxc r)
  | 32 => some (.rclaim r)
  | 33 => some (.rrel r)
  | 34 => some (.bdmaLd r)
  | 35 => some (.bdmaSt r)
  | 36 => some (.xld r)
  | 37 => some (.xst r)
  | 38 => some (.zld r)
  | 39 => some (.zst r)
  | 40 => some (.zadd r)
  | 41 => some (.zsub r)
  | 42 => some (.zmul r)
  | 43 => some (.zmin r)
  | 44 => some (.zmax r)
  | 45 => some (.zcmp r)
  | 46 => some (.zsel r)
  | 47 => some (.zcvt r)
  | 48 => some (.zbcast r)
  | 49 => some (.zred r)
  | 50 => some (.zmov r)
  | 51 => some (.cmdend r)
  | _ => none

/-- The functions of class SYN (R57). -/
def classSyn (f : Nat) (r : RWord) (i : IWord) : Option Instr :=
  match f with
  | 0 => some (.fence r)
  | 1 => some (.ldAcq r)
  | 2 => some (.stRel r)
  | 3 => some (.atomg r)
  | 4 => some (.barArv r)
  | 5 => some (.barWait r)
  | 6 => some (.barSync r)
  | 7 => some (.barInit r)
  | 8 => some (.sigAdd r)
  | 9 => some (.sigWait r)
  | 10 => some (.sigRd r)
  | _ => none

/-- The functions of class RGN (R57). -/
def classRgn (f : Nat) (r : RWord) (i : IWord) : Option Instr :=
  match f with
  | 0 => some (.acqr r)
  | 1 => some (.relr r)
  | 2 => some (.wb r)
  | 3 => some (.inv r)
  | 4 => some (.wbinv r)
  | 5 => some (.pin r)
  | 6 => some (.unpin r)
  | 7 => some (.rgnq r)
  | _ => none

/-- The functions of class POD (R57). -/
noncomputable def classPod (f : Nat) (r : RWord) (i : IWord) : Option Instr :=
  match f with
  | 0 => some (.mqPush r)
  | 1 => some (.mqPop r)
  | 2 => some (.matom r)
  | 3 => some (.mred r)
  | 4 => some (.mflagSet r)
  | 5 => some (.mflagWait r)
  | 6 => some (.colRs r)
  | 7 => some (.colAg r)
  | 8 => some (.colWait r)
  | 9 => some (.grpForm r)
  | 10 => some (.grpStat r)
  | 11 => some (.replay r)
  | 12 => some (.xchPush r)
  | 13 => some (.lnkStat r)
  | _ => none

/-- The functions of class GRF (R57). -/
noncomputable def classGrf (f : Nat) (r : RWord) (i : IWord) : Option Instr :=
  match f with
  | 0 => some (.launch r)
  | 1 => some (.launchg r)
  | 2 => some (.nqPush r)
  | 3 => some (.nqFlush r)
  | 4 => some (.nqStat r)
  | 5 => some (.sigSet r)
  | _ => none

/-- The functions of class SYS (R57). -/
noncomputable def classSys (f : Nat) (r : RWord) (i : IWord) : Option Instr :=
  match f with
  | 0 => some (.trap r)
  | 1 => some (if r.mod.getLsbD 1 then (if r.mod.getLsbD 0 then .rttSaved r else .rttEnd r) else (if r.mod.getLsbD 0 then .rttNext r else .rtt r))
  | 2 => some (.rttRpl r)
  | 3 => some (.ctxsv r)
  | 4 => some (.ctxld r)
  | 5 => some (.timer r)
  | 6 => some (.timerrd r)
  | 7 => some (.snap r)
  | 8 => some (.sysrd r)
  | 9 => some (.syswr r)
  | 10 => some (.scrub r)
  | _ => none

/-- The instruction that the bits of a word name, whatever stream it stands in; none when OPC is unallocated. -/
noncomputable def rawDecode (w : BitVec 96) : Option Instr :=
  let f := (w.extractLsb' 86 6).toNat
  let r := rOf w
  let i := iOf w
  match (w.extractLsb' 92 4).toNat with
  | 0 => classCtl f r i
  | 1 => classInt f r i
  | 2 => classFlt f r i
  | 3 => classCvt f r i
  | 4 => classPkx f r i
  | 5 => classMem f r i
  | 6 => classAcc f r i
  | 7 => classCpy f r i
  | 8 => classMtx f r i
  | 9 => classKva f r i
  | 10 => classStk f r i
  | 11 => classSyn f r i
  | 12 => classRgn f r i
  | 13 => classPod f r i
  | 14 => classGrf f r i
  | _ => classSys f r i

/-- The instruction of a word in a stream, or the rank at which R55 refuses it. -/
noncomputable def decode (st : Machine.Stream) (w : BitVec 96) : Except DecodeError Instr :=
  match rawDecode w with
  | none => .error .illegalOpcode
  | some i =>
    match fnOf i with
    | none => .error .illegalOpcode
    | some f =>
      if Machine.validIn st f then
        if Machine.formOk st f (bodyOf i) then .ok i else .error .illegalForm
      else .error .illegalOpcode

/-- The word of an instruction; none for the machine's own events, which have no word. -/
def encode (i : Instr) : Option (BitVec 96) :=
  match i with
  | .nop w => some (packR 0x000 w)
  | .bra w => some (packI 0x001 w)
  | .brx w => some (packR 0x002 w)
  | .bru w => some (packI 0x003 w)
  | .call w => some (packI 0x004 w)
  | .callx w => some (packR 0x005 w)
  | .ret w => some (packR 0x006 w)
  | .exit w => some (packR 0x007 w)
  | .merge w => some (packR 0x008 w)
  | .mergeStep _ _ => none
  | .loop w => some (packI 0x009 w)
  | .yield w => some (packR 0x00A w)
  | .pushp w => some (packR 0x00B w)
  | .invp w => some (packR 0x00C w)
  | .popp w => some (packR 0x00D w)
  | .pand w => some (packR 0x00E w)
  | .por w => some (packR 0x00F w)
  | .pxor w => some (packR 0x010 w)
  | .pnot w => some (packR 0x011 w)
  | .pmov w => some (packR 0x012 w)
  | .p2v w => some (packR 0x013 w)
  | .v2p w => some (packR 0x014 w)
  | .vote w => some (packR 0x015 w)
  | .iadd w => some (packR 0x040 w)
  | .iaddImm w => some (packI 0x041 w)
  | .isub w => some (packR 0x042 w)
  | .imul w => some (packR 0x043 w)
  | .imulImm w => some (packI 0x044 w)
  | .imad w => some (packR 0x045 w)
  | .imulhi w => some (packR 0x046 w)
  | .imin w => some (packR 0x047 w)
  | .imax w => some (packR 0x048 w)
  | .iabs w => some (packR 0x049 w)
  | .ineg w => some (packR 0x04A w)
  | .andB w => some (packR 0x04B w)
  | .andImm w => some (packI 0x04C w)
  | .orB w => some (packR 0x04D w)
  | .orImm w => some (packI 0x04E w)
  | .xorB w => some (packR 0x04F w)
  | .xorImm w => some (packI 0x050 w)
  | .notB w => some (packR 0x051 w)
  | .shl w => some (packR 0x052 w)
  | .shlImm w => some (packI 0x053 w)
  | .shr w => some (packR 0x054 w)
  | .shrImm w => some (packI 0x055 w)
  | .rot w => some (packR 0x056 w)
  | .icmp w => some (packR 0x057 w)
  | .icmpImm w => some (packI 0x058 w)
  | .sel w => some (packR 0x059 w)
  | .mov w => some (packR 0x05A w)
  | .movImm w => some (packI 0x05B w)
  | .popc w => some (packR 0x05C w)
  | .clz w => some (packR 0x05D w)
  | .ctz w => some (packR 0x05E w)
  | .brev w => some (packR 0x05F w)
  | .bfe w => some (packR 0x060 w)
  | .bfi w => some (packR 0x061 w)
  | .lea w => some (packR 0x062 w)
  | .leaImm w => some (packI 0x063 w)
  | .vread w => some (packR 0x064 w)
  | .vwrite w => some (packR 0x065 w)
  | .sadd w => some (packR 0x068 w)
  | .saddImm w => some (packI 0x069 w)
  | .ssub w => some (packR 0x06A w)
  | .smul w => some (packR 0x06B w)
  | .sand w => some (packR 0x06C w)
  | .sor w => some (packR 0x06D w)
  | .sxor w => some (packR 0x06E w)
  | .sshl w => some (packR 0x06F w)
  | .sshr w => some (packR 0x070 w)
  | .scmp w => some (packR 0x071 w)
  | .smov w => some (packR 0x072 w)
  | .smovImm w => some (packI 0x073 w)
  | .ssel w => some (packR 0x074 w)
  | .fadd w => some (packR 0x080 w)
  | .faddImm w => some (packI 0x081 w)
  | .fsub w => some (packR 0x082 w)
  | .fmul w => some (packR 0x083 w)
  | .fmulImm w => some (packI 0x084 w)
  | .fma w => some (packR 0x085 w)
  | .fmin w => some (packR 0x086 w)
  | .fmax w => some (packR 0x087 w)
  | .fabs w => some (packR 0x088 w)
  | .fneg w => some (packR 0x089 w)
  | .fcmp w => some (packR 0x08A w)
  | .fcmpImm w => some (packI 0x08B w)
  | .fclass w => some (packR 0x08C w)
  | .flgrd w => some (packR 0x08D w)
  | .flgwr w => some (packR 0x08E w)
  | .flgclr w => some (packR 0x08F w)
  | .cvt w => some (packR 0x0C0 w)
  | .qcvt w => some (packR 0x0C1 w)
  | .dqcvt w => some (packR 0x0C2 w)
  | .pack w => some (packR 0x0C3 w)
  | .unpack w => some (packR 0x0C4 w)
  | .scale w => some (packR 0x0C5 w)
  | .amax w => some (packR 0x0C6 w)
  | .exp2 w => some (packR 0x0C7 w)
  | .log2 w => some (packR 0x0C8 w)
  | .rcp w => some (packR 0x0C9 w)
  | .rsq w => some (packR 0x0CA w)
  | .sqrt w => some (packR 0x0CB w)
  | .stq w => some (packR 0x0CC w)
  | .ldq w => some (packR 0x0CD w)
  | .srseed w => some (packR 0x0CE w)
  | .dot4 w => some (packR 0x100 w)
  | .dot8 w => some (packR 0x101 w)
  | .dot2 w => some (packR 0x102 w)
  | .padd w => some (packR 0x103 w)
  | .psub w => some (packR 0x104 w)
  | .pmin w => some (packR 0x105 w)
  | .pmax w => some (packR 0x106 w)
  | .shrRnd w => some (packR 0x107 w)
  | .shrSat w => some (packR 0x107 w)
  | .shrRndImm w => some (packI 0x108 w)
  | .slide w => some (packR 0x109 w)
  | .slideImm w => some (packI 0x10A w)
  | .shfl w => some (packR 0x10B w)
  | .shflImm w => some (packI 0x10C w)
  | .bcast w => some (packR 0x10D w)
  | .red w => some (packR 0x10E w)
  | .scan w => some (packR 0x10F w)
  | .topkIns w => some (packR 0x110 w)
  | .topkClr w => some (packR 0x111 w)
  | .ld w => some (packR 0x140 w)
  | .st w => some (packR 0x141 w)
  | .ldNf w => some (packR 0x142 w)
  | .pgreq w => some (packR 0x143 w)
  | .lds w => some (packR 0x144 w)
  | .sts w => some (packR 0x145 w)
  | .ldg w => some (packR 0x146 w)
  | .stg w => some (packR 0x147 w)
  | .ldW w => some (packR 0x148 w)
  | .wsref w => some (packR 0x149 w)
  | .atom w => some (packR 0x14A w)
  | .atoms w => some (packR 0x14B w)
  | .pref w => some (packR 0x14C w)
  | .aadd w => some (packR 0x180 w)
  | .aaddImm w => some (packI 0x181 w)
  | .asub w => some (packR 0x182 w)
  | .amul w => some (packR 0x183 w)
  | .ashl w => some (packR 0x184 w)
  | .ashr w => some (packR 0x185 w)
  | .aand w => some (packR 0x186 w)
  | .amov w => some (packR 0x187 w)
  | .amovImm w => some (packI 0x188 w)
  | .acmp w => some (packR 0x189 w)
  | .abr w => some (packI 0x18A w)
  | .abrq w => some (packI 0x18B w)
  | .qld w => some (packR 0x18C w)
  | .qldg w => some (packR 0x18D w)
  | .qpop w => some (packR 0x18E w)
  | .qpush w => some (packR 0x18F w)
  | .slip w => some (packR 0x190 w)
  | .aexit w => some (packR 0x191 w)
  | .shld w => some (packR 0x1C0 w)
  | .shst w => some (packR 0x1C1 w)
  | .shset w => some (packR 0x1C2 w)
  | .cpt w => some (packR 0x1C3 w)
  | .cptm w => some (packR 0x1C4 w)
  | .cpl w => some (packR 0x1C5 w)
  | .cpw w => some (packR 0x1C6 w)
  | .waitall w => some (packR 0x1C7 w)
  | .waitany w => some (packR 0x1C8 w)
  | .tagfind w => some (packR 0x1C9 w)
  | .tagclr w => some (packR 0x1CA w)
  | .waitc w => some (packR 0x1CB w)
  | .mma w => some (packR 0x200 w)
  | .mmaV w => some (packR 0x201 w)
  | .mfence w => some (packR 0x202 w)
  | .mwait w => some (packR 0x203 w)
  | .tseqInit w => some (packR 0x204 w)
  | .tseqNext w => some (packR 0x204 w)
  | .tzero w => some (packR 0x205 w)
  | .tld w => some (packR 0x206 w)
  | .tst w => some (packR 0x207 w)
  | .tcvt w => some (packR 0x208 w)
  | .cbld w => some (packR 0x209 w)
  | .wbld w => some (packR 0x20A w)
  | .mmov w => some (packR 0x20B w)
  | .mmovImm w => some (packI 0x20C w)
  | .madd w => some (packR 0x20D w)
  | .maddImm w => some (packI 0x20E w)
  | .mcmp w => some (packR 0x20F w)
  | .mbr w => some (packI 0x210 w)
  | .mbarArv w => some (packR 0x211 w)
  | .mbarWait w => some (packR 0x211 w)
  | .mbarSync w => some (packR 0x211 w)
  | .mexit w => some (packR 0x212 w)
  | .kldK w => some (packR 0x240 w)
  | .kldV w => some (packR 0x241 w)
  | .kst w => some (packR 0x242 w)
  | .kprobe w => some (packR 0x243 w)
  | .kmap w => some (packR 0x244 w)
  | .kunmap w => some (packR 0x245 w)
  | .kvsel w => some (packR 0x246 w)
  | .nmx w => some (packR 0x280 w)
  | .nmxb w => some (packR 0x281 w)
  | .nmxr w => some (packR 0x282 w)
  | .nmxc w => some (packR 0x283 w)
  | .rclaim w => some (packR 0x2A0 w)
  | .rrel w => some (packR 0x2A1 w)
  | .bdmaLd w => some (packR 0x2A2 w)
  | .bdmaSt w => some (packR 0x2A3 w)
  | .xld w => some (packR 0x2A4 w)
  | .xst w => some (packR 0x2A5 w)
  | .zld w => some (packR 0x2A6 w)
  | .zst w => some (packR 0x2A7 w)
  | .zadd w => some (packR 0x2A8 w)
  | .zsub w => some (packR 0x2A9 w)
  | .zmul w => some (packR 0x2AA w)
  | .zmin w => some (packR 0x2AB w)
  | .zmax w => some (packR 0x2AC w)
  | .zcmp w => some (packR 0x2AD w)
  | .zsel w => some (packR 0x2AE w)
  | .zcvt w => some (packR 0x2AF w)
  | .zbcast w => some (packR 0x2B0 w)
  | .zred w => some (packR 0x2B1 w)
  | .zmov w => some (packR 0x2B2 w)
  | .cmdend w => some (packR 0x2B3 w)
  | .fence w => some (packR 0x2C0 w)
  | .ldAcq w => some (packR 0x2C1 w)
  | .stRel w => some (packR 0x2C2 w)
  | .atomg w => some (packR 0x2C3 w)
  | .barArv w => some (packR 0x2C4 w)
  | .barWait w => some (packR 0x2C5 w)
  | .barSync w => some (packR 0x2C6 w)
  | .barInit w => some (packR 0x2C7 w)
  | .sigAdd w => some (packR 0x2C8 w)
  | .sigWait w => some (packR 0x2C9 w)
  | .sigRd w => some (packR 0x2CA w)
  | .acqr w => some (packR 0x300 w)
  | .relr w => some (packR 0x301 w)
  | .wb w => some (packR 0x302 w)
  | .inv w => some (packR 0x303 w)
  | .wbinv w => some (packR 0x304 w)
  | .pin w => some (packR 0x305 w)
  | .unpin w => some (packR 0x306 w)
  | .rgnq w => some (packR 0x307 w)
  | .mqPush w => some (packR 0x340 w)
  | .mqPop w => some (packR 0x341 w)
  | .matom w => some (packR 0x342 w)
  | .mred w => some (packR 0x343 w)
  | .mflagSet w => some (packR 0x344 w)
  | .mflagWait w => some (packR 0x345 w)
  | .colRs w => some (packR 0x346 w)
  | .colAg w => some (packR 0x347 w)
  | .colWait w => some (packR 0x348 w)
  | .grpForm w => some (packR 0x349 w)
  | .grpStat w => some (packR 0x34A w)
  | .replay w => some (packR 0x34B w)
  | .xchPush w => some (packR 0x34C w)
  | .lnkStat w => some (packR 0x34D w)
  | .launch w => some (packR 0x380 w)
  | .launchg w => some (packR 0x381 w)
  | .nqPush w => some (packR 0x382 w)
  | .nqFlush w => some (packR 0x383 w)
  | .nqStat w => some (packR 0x384 w)
  | .sigSet w => some (packR 0x385 w)
  | .trap w => some (packR 0x3C0 w)
  | .rtt w => some (packR 0x3C1 w)
  | .rttNext w => some (packR 0x3C1 w)
  | .rttEnd w => some (packR 0x3C1 w)
  | .rttSaved w => some (packR 0x3C1 w)
  | .rttRpl w => some (packR 0x3C2 w)
  | .ctxsv w => some (packR 0x3C3 w)
  | .ctxld w => some (packR 0x3C4 w)
  | .timer w => some (packR 0x3C5 w)
  | .timerrd w => some (packR 0x3C6 w)
  | .snap w => some (packR 0x3C7 w)
  | .sysrd w => some (packR 0x3C8 w)
  | .syswr w => some (packR 0x3C9 w)
  | .scrub w => some (packR 0x3CA w)
  | .fixedLatencyWriteback _ => none
  | .variableLatencyCompletion _ _ => none
  | .memAccessCompletion _ _ _ _ => none
  | .addressCheckEnd _ _ => none
  | .windowStoreFailure _ _ _ => none
  | .queueLoadCompletion _ _ _ => none
  | .backQueueSlotFull _ _ _ => none
  | .copyCompletion _ _ => none
  | .copyFailure _ _ _ _ _ => none
  | .arrayOperationPerform _ _ => none
  | .arrayOperationCompletion _ => none
  | .mstreamOrphan _ => none
  | .barOrphan _ _ _ => none
  | .blockEnd _ => none
  | .kldWalkEnd _ _ => none
  | .kldCompletion _ _ => none
  | .kvWalkWaitTimeout _ _ => none
  | .kvDataError _ _ _ => none
  | .kvPageEviction _ _ _ _ => none
  | .kvPageRestore _ _ _ _ _ => none
  | .kvPagePoison _ _ _ => none
  | .stackCommandStart _ _ => none
  | .nmxbLoadEntry _ _ _ => none
  | .stackCommandTimeout _ _ => none
  | .stackCommandReport _ _ => none
  | .bankDmaCompletion _ _ _ _ => none
  | .deferralTimeout _ _ _ => none
  | .stackKernelStart _ _ _ _ => none
  | .stackKernelPreempt _ _ => none
  | .stackKernelRestore _ _ => none
  | .l2Eviction _ _ => none
  | .bisnp _ _ => none
  | .hostMemWrite _ _ => none
  | .hostMemRead _ _ => none
  | .acqrTokenGrant _ _ => none
  | .acqrTimeout _ _ => none
  | .relrCompletion _ _ => none
  | .courierRequest _ => none
  | .drainRecord _ _ _ => none
  | .collectiveContribute _ _ _ => none
  | .collectiveGather _ _ => none
  | .collectiveDecision _ _ _ => none
  | .collectiveStatus _ _ _ => none
  | .fabricTimeout _ _ => none
  | .linkLaneFailure _ _ => none
  | .linkRetrainComplete _ _ => none
  | .linkDown _ => none
  | .gateOpen _ => none
  | .blockPlacement => none
  | .launchDone _ => none
  | .batchSubmissionRetry _ _ _ => none
  | .flushTimerExpiry _ _ _ => none
  | .spatialPreemptionRequest _ => none
  | .handlerEntry _ => none
  | .deferredCauseInHandler _ _ _ => none
  | .preempt _ => none
  | .hardwareSave _ => none
  | .handlerSaveTimeout _ => none
  | .hardwareRestore _ => none
  | .resume _ => none
  | .scratchEcc _ => none
  | .registerFileEcc _ _ => none
  | .timerEvent _ _ => none
  | .refreshWindowStart _ => none
  | .refreshWindowEnd _ => none
  | .wsloadWrite _ _ _ => none
  | .weightStoreZeroing _ => none
  | .timetableTick => none
  | .ppsEdge => none
  | .trigPinPulse _ => none
  | .thermalThrottle _ _ => none
  | .thermalShutdown _ => none
  | .reset => none
  | .selfTestPass _ => none
  | .readyFall _ => none
  | .contextCreate _ => none
  | .contextRegrant _ => none
  | .contextDestroy _ => none
  | .podcfgWrite _ _ => none
  | .todstepWrite _ _ => none
  | .registerWrite _ _ _ => none
  | .mmpPageRequest => none
  | .hostPageCallAnswer _ _ _ => none
  | .hostCallTimeout _ _ => none
  | .migratingWaitTimeout _ _ => none
  | .mmpMap _ _ _ _ => none
  | .mmpUnmap _ _ => none
  | .mmpProtect _ _ _ _ _ => none
  | .mmpPlace _ _ => none
  | .mmpEvict _ _ _ => none
  | .mmpCreateKvSpace _ _ _ _ _ _ _ => none
  | .mmpCreateRegion _ _ _ _ => none
  | .mmpSaveAreas _ _ _ => none
  | .mmpPin _ _ => none
  | .mmpMigrate _ _ _ _ => none
  | .shootdown _ => none
  | .portTrainingComplete _ _ => none

/-- The instruction the decoder reads from the bits of a table word: the core streams first, in the order compute,
access, matrix, then the stack profile. -/
noncomputable def decodeTableWord (nbits w : Nat) : Option Instr :=
  let x := BitVec.ofNat 96 (w % 2 ^ nbits)
  match decode .compute x with
  | .ok i => some i
  | .error _ => match decode .access x with
    | .ok i => some i
    | .error _ => match decode .matrix x with
      | .ok i => some i
      | .error _ => match decode .stack x with
        | .ok i => some i
        | .error _ => none

end Sys2Proof
end

