-- ==== Sys2Proof/Config.lean ====
section
/-! DEFINITION. What one part fixes and the spec leaves open, and the free values: constants without a body, applied to
the state's counter of free values (log 6), so that no statement can rest on what they are. -/

namespace Sys2Proof

/-- The revision number in IDENT (R404); each part has its own (log 3). -/
opaque Config.revision : BitVec 16

/-- A free 32-bit value: what a register holds where the spec leaves its value open (log 6). -/
opaque Config.freeWord : Nat → BitVec 32

/-- A free value of a constant word or special register whose value the spec does not state (logs 9, 10): by the counter of
free values and the word's place. -/
opaque Config.freeBank : Nat → Nat → BitVec 32

/-- A free 64-bit value (log 6). -/
opaque Config.freeWord64 : Nat → BitVec 64

/-- A free choice between two outcomes that the spec allows (log 6). -/
opaque Config.freeBit : Nat → Bool

/-- A free byte: what a read returns where the spec leaves it open (log 6). -/
opaque Config.freeByte : Nat → BitVec 8

/-- Whether a default-CP load that finds its sector in L1 takes it from there; the sector may have been evicted, which
nothing else shows (R287, log 7). -/
opaque Config.l1Hit : Nat → Bool

/-- What the host reads in the snapshot buffer (R413, log 61): by the number of firings and the place in the buffer. -/
opaque Config.snapshot : Nat → Nat → BitVec 64

/-- Which of a slice's lines a fetch into a full slice replaces, where none is marked to go first (R149, R303, log 128). -/
opaque Config.victim : Nat → Nat

/-- Where the MMP begins to look for free frames of HBM, in 64 KiB frames (R396, log 8). -/
opaque Config.frameHint : Nat → Nat

end Sys2Proof
end

