-- ==== Sys2Proof/Machine/Fabric.lean ====
section
/-! DEFINITION. The pod: its geometry (R33, R314 to R317), the module ports, and what a module does with the accesses and
commands that reach it (R319 to R323). -/

namespace Sys2Proof.Machine

/-! Geometry. -/

/-- The order q of the pod from PODCFG (R407); 0 for a package that runs alone. -/
def State.order (s : State) : Nat := match bits s.podcfg.toNat 10 8 with
  | 1 => 2
  | 2 => 3
  | 3 => 4
  | 4 => 5
  | 5 => 7
  | _ => 0

/-- The perfect difference set of an order (R314). -/
def podD (q : Nat) : List Nat := match q with
  | 2 => [0, 1, 3]
  | 3 => [0, 1, 3, 9]
  | 4 => [0, 1, 4, 14, 16]
  | 5 => [0, 1, 3, 8, 12, 18]
  | 7 => [0, 1, 3, 13, 32, 36, 43, 52]
  | _ => []

/-- Packages and modules of a pod. -/
def podN (q : Nat) : Nat := q * q + q + 1

/-- The pod number of the package. -/
def State.self (s : State) : Nat := bits s.podcfg.toNat 7 0

/-- The module at port `j` of package `p`. -/
def moduleAt (q p j : Nat) : Nat := (p + podN q - ((podD q)[j]?).getD 0) % podN q

/-- The port, which is also the head, of package `p` on module `m`; none where it does not attach. -/
def headOn (q p m : Nat) : Option Nat := (List.range (podD q).length).find? (fun j => moduleAt q p j == m)

/-- The packages on a line (R314). -/
def lineOf (q m : Nat) : List Nat := (podD q).map (fun d => (m + d) % podN q)

/-- The module that two packages share (R315). -/
def sharedModule (q a b : Nat) : Option Nat :=
  if a = b then none
  else ((List.range (podD q).length).find? (fun i => (lineOf q (moduleAt q a i)).contains b)).map (moduleAt q a)

/-- A port of the package. -/
def State.port (s : State) (j : Nat) : Port := s.ports.get j {}

/-- Whether the package attaches to a module. -/
def State.attached (s : State) (m : Nat) : Bool := (headOn s.order s.self m).isSome

/-- How an access reaches a module (R317, R324): directly through a port that is up; through the courier of a relay package;
it waits for a port that retrains; or it ends with a status. -/
inductive Route where
  | direct (port : Nat)
  | relay (package : Nat)
  | wait
  | bad (status : Nat)
  deriving DecidableEq, Repr, Inhabited

/-- The module that the package shares with another, with the heads of the two on it. -/
def State.meeting (s : State) (r : Nat) : Option (Nat × Nat × Nat) :=
  match sharedModule s.order s.self r with
  | none => none
  | some m => match headOn s.order s.self m, headOn s.order r m with
    | some h, some k => some (m, h, k)
    | _, _ => none

/-- The way to a relay package, by the port to the module that the two share. -/
def State.toRelay (s : State) (r : Nat) : Route :=
  match s.meeting r with
  | none => .bad 0x08
  | some (_, j, _) => match (s.port j).state with
    | 1 => .relay r
    | 2 => .wait
    | _ => .bad 0x09

/-- The route to a module: through relay `via` (R340), or as R317 chooses it. -/
def State.route (s : State) (m : Nat) (via : Option Nat := none) : Route :=
  let q := s.order
  let n := podN q
  if q = 0 ∨ n ≤ m then .bad 0x08
  else
    match via with
    | some c => s.toRelay c
    | none =>
      match headOn q s.self m with
      | some j => match (s.port j).state with
        | 1 => .direct j
        | 2 => .wait
        | _ => .bad 0x09
      | none =>
        let live (r : Nat) : Bool := match s.toRelay r with
          | .bad _ => false
          | _ => true
        match (List.range n).find? (fun r => (lineOf q m).contains r && live r) with
        | some r => s.toRelay r
        | none => .bad 0x08

/-! Module memory. -/

/-- The key under which module memory stands in the package's maps: 2^56 bytes for each module. -/
def modKey (module off : Nat) : Nat := module * 2 ^ 56 + off

/-- The key of a module's sector in the L2 map, above every sector of HBM. -/
def modSector (module off : Nat) : Nat := 2 ^ 60 + modKey module off / 64

/-- The sector numbers that `n` bytes at `a` meet. -/
def sectorsOf (a n : Nat) : List Nat :=
  if n = 0 then [] else (List.range ((a + n - 1) / 64 - a / 64 + 1)).map (fun i => a / 64 + i)

/-- A module takes lines back by back-invalidation: no slice of the package holds them any longer (R303, R321). -/
def State.recall (s : State) (module off n : Nat) : State :=
  let secs := (sectorsOf off n).map (fun x => modSector module (64 * x))
  { s with l2 := s.l2.keep (fun k _ => !secs.contains k), copies := s.copies.keep (fun k _ => !secs.contains (k % 2 ^ 61)) }

/-- Module memory (R319); the module is the point of coherence of window addresses (R287). -/
def State.modBytes (s : State) (module off n : Nat) : List Byte := s.mods.getBytes (modKey module off) n
def State.modNum (s : State) (module off n : Nat) : Nat := s.mods.num (modKey module off) n

/-- The bytes of a module replaced. -/
def State.setMod (s : State) (module off : Nat) (bs : List Byte) : State :=
  { s with mods := s.mods.putBytes (modKey module off) bs }
def State.setModNum (s : State) (module off n v : Nat) : State := s.setMod module off (toLe v n)

/-- DSIZE, NRW and NQ of a module's profile block (R320). -/
def State.dsize (s : State) (m : Nat) : Nat := s.modNum m 8 8
def State.nrw (s : State) (m : Nat) : Nat := s.modNum m 0x12 2
def State.nq (s : State) (m : Nat) : Nat := s.modNum m 0x10 2

/-- The regions of a module's map (R319), with the offset within the region. -/
inductive ModRegion where
  | profile
  | plain
  | queue (base off : Nat)
  | reduction (base off : Nat)
  | data
  | bad
  deriving DecidableEq, Repr, Inhabited

/-- The region that `n` bytes at an offset lie in. -/
def State.modRegion (s : State) (m off n : Nat) : ModRegion :=
  let within (lo size : Nat) : Bool := decide (lo ≤ off) && decide (off + n ≤ lo + size)
  if within 0 0x1000 then .profile
  else if within 0x10000 0x8000 ∨ within 0x40000 0x80000 ∨ within 0x100000 0x100000 then .plain
  else if within 0x1000000 (s.nq m * 0x10000) then
    (let o := (off - 0x1000000) % 0x10000
     if o + n ≤ 0x10000 then .queue (off - o) o else .bad)
  else if within 0x2000000 (s.nrw m * 0x100000) then
    (let o := (off - 0x2000000) % 0x100000
     if o + n ≤ 0x100000 then .reduction (off - o) o else .bad)
  else if within 0x40000000 (s.dsize m) then .data
  else .bad

/-- Whether a read is within the module's map (R319). -/
def State.modReadable (s : State) (m off n : Nat) : Bool := s.modRegion m off n != .bad

/-! Reduction windows (R323). -/

/-- Bytes per element of a reduction's TYPE. -/
def redSize (ty : Nat) : Nat := if ty = 2 then 2 else if ty = 3 then 1 else 4

/-- An element of a reduction that is not I32, widened exactly; `scale` is its E8M0 scale. -/
def redWiden (ty x scale : Nat) : Num :=
  match ty with
  | 2 => decodeF (fmtOf 10) x
  | 3 => scaleUp (decodeF (fmtOf 11) x) scale
  | _ => decodeF (fmtOf 8) x

/-- One add of a reduction to the element `a`: exact, then rounded once; of I32, modulo 2^32. -/
def redAdd (ty a x scale : Nat) : Nat :=
  if ty = 1 then (a + x) % 2 ^ 32 else enc32 (addNum .rn (decodeF (fmtOf 8) a) (redWiden ty x scale)).1

/-- A contribution of bytes at window offset 0x1000 + `o` added into the target buffer. -/
def State.contribute (s : State) (m base o : Nat) (bs : List Byte) : State :=
  let ty := bits (s.modNum m (base + 8) 4) 3 0
  let es := redSize ty
  let tgt := s.modNum m (base + 0x10) 8
  let scl := s.modNum m (base + 0x20) 8
  (List.range (bs.length / es)).foldl (fun s i =>
    let e := o / es + i
    s.setModNum m (tgt + 4 * e) 4 (redAdd ty (s.modNum m (tgt + 4 * e) 4) (leNat ((bs.drop (es * i)).take es)) (s.modNum m (scl + e / 32) 1))) s

/-- An arrival: counted if the window is armed with its GEN and SEQ. -/
def State.arrival (s : State) (m base seq gen : Nat) (ovf : Bool) : State :=
  let c := s.modNum m (base + 8) 4
  if bit c 26 ∧ s.modNum m base 4 = seq ∧ s.modNum m (base + 4) 4 = gen then
    let arr := (bits c 23 16 + 1) % 256
    let c := setBits c 23 16 arr
    let c := if ovf then setBits c 25 25 1 else c
    s.setModNum m (base + 8) 4 (if arr = bits c 15 8 then setBits c 24 24 1 else c)
  else s

/-- The buffers that a descriptor line of a reduction window names: the offset and the bytes of each. -/
def redBuffers (line : List Byte) : List (Nat × Nat) :=
  let num (o n : Nat) : Nat := leNat ((line.drop o).take n)
  let ty := bits (num 8 4) 3 0
  let len := num 0x18 4
  if len = 0 then [] else [(num 0x10 8, len / redSize ty * 4)] ++ (if ty = 3 then [(num 0x20 8, len / 32)] else [])

/-- A write of the descriptor line from offset `o` on: of the whole line, with ARMED, it arms the window, whose buffers must lie in
the data window; any other leaves the read-only bits as they are and arms nothing (R323, log 144). -/
def State.armLine (s : State) (m base o : Nat) (bs : List Byte) : Option State :=
  let old := s.modBytes m base 64
  let line := old.take o ++ bs ++ old.drop (o + bs.length)
  let was := leNat ((old.drop 8).take 4)
  let c := leNat ((line.drop 8).take 4)
  let ty := bits c 3 0
  if 3 < ty then none
  else if bs.length = 64 ∧ bit c 26 then
    (if (redBuffers line).all (fun b => s.modRegion m b.1 b.2 == .data) then
       some (((s.setMod m base line).setModNum m (base + 8) 4 (setBits c 25 16 0)).setMod m (leNat ((line.drop 0x10).take 8))
         (List.replicate (leNat ((line.drop 0x18).take 4) / redSize ty * 4) 0))
     else none)
  else
    let armed := if bit c 26 ∧ bit was 26 then 1 else 0
    some ((s.setMod m base line).setModNum m (base + 8) 4 (setBits (setBits c 25 16 (bits was 25 16)) 26 26 armed))

/-- A write that reaches a module: none where it gives BAD_ADDR (R319, R322, R323). -/
def State.moduleStore (s : State) (m off : Nat) (bs : List Byte) : Option State :=
  match s.modRegion m off bs.length with
  | .bad | .profile => none
  | .plain | .data => some (s.setMod m off bs)
  | .queue base o =>
    if 0x400 ≤ o then some (s.setMod m off bs)
    else
      let v := leNat bs
      if o = 8 ∧ bs.length = 4 ∧ 1 ≤ v ∧ v ≤ 1008 ∧ s.modNum m base 4 = s.modNum m (base + 4) 4 then
        some (s.setMod m off bs)
      else none
  | .reduction base o =>
    if 0x1000 ≤ o then
      (if bs.length = 64 ∧ bit (s.modNum m (base + 8) 4) 26 ∧ o - 0x1000 < s.modNum m (base + 0x18) 4 then
         some (s.contribute m base (o - 0x1000) bs) else some s)
    else if o = 0x40 ∧ bs.length = 16 then
      some (s.arrival m base (leNat (bs.take 4)) (leNat ((bs.drop 4).take 4)) (bit (leNat bs) 64))
    else if o < 64 then s.armLine m base o (bs.take (64 - o))
    else some (s.setMod m off bs)

/-- Bytes written line by line, in rising order; a line that is written whole is poisoned no longer. -/
def State.moduleLines (s : State) (m : Nat) : List (Nat × List Byte) → Option State
  | [] => some s
  | (off, bs) :: xs =>
    match s.moduleStore m off bs with
    | none => none
    | some t => (if bs.length = 64 then { t with modBad := t.modBad.del (modKey m off / 64) } else t).moduleLines m xs

/-- A list of bytes at an offset cut at 64-byte boundaries. -/
def lineCuts : Nat → Nat → List Byte → List (Nat × List Byte)
  | 0, _, _ => []
  | f + 1, off, bs =>
    if bs.isEmpty then []
    else (off, bs.take (64 - off % 64)) :: lineCuts f (off / 64 * 64 + 64) (bs.drop (64 - off % 64))
def linesAt (off : Nat) (bs : List Byte) : List (Nat × List Byte) := lineCuts (bs.length / 64 + 2) off bs

/-- A write of any length that reaches a module. -/
def State.moduleWrite (s : State) (m off : Nat) (bs : List Byte) : Option State := s.moduleLines m (linesAt off bs)

/-- Whether an uncorrectable error stands in a line that `n` bytes of a module meet. -/
def State.modPoison (s : State) (m off n : Nat) : Bool := (sectorsOf off n).any (fun x => s.modBad.get (modKey m 0 / 64 + x) false)

/-! Commands and queues (R321, R322). -/

/-- The result of a command's atomic operation. -/
def commandNew (op old b c : Nat) : Nat :=
  let lt := decide (sgn 64 old < sgn 64 b)
  match op with
  | 1 => (old + b) % 2 ^ 64
  | 2 => if lt then old else b
  | 3 => if old < b then old else b
  | 4 => if lt then b else old
  | 5 => if old < b then b else old
  | 6 => b
  | 7 => if old = c then b else old
  | 8 => old &&& b
  | 9 => old ||| b
  | _ => old ^^^ b

/-- An atomic command performed on the data window: the status of the module's reply, the old value, the package. -/
def State.modCommand (s : State) (m op off b c : Nat) : Nat × Nat × State :=
  if s.modRegion m off 8 = .data ∧ off % 8 = 0 ∧ 1 ≤ op ∧ op ≤ 10 then
    (if s.modPoison m off 8 then (4, 0, s)
     else
       let old := s.modNum m off 8
       (0, old, s.setModNum m off 8 (commandNew op old b c)))
  else (3, 0, s)

/-- The header of a queue window (R322): HEAD, TAIL, CAP; none where it answers BAD_ADDR. -/
def State.queueHead (s : State) (m base : Nat) : Option (Nat × Nat × Nat) :=
  match s.modRegion m base 0x400 with
  | .queue _ 0 =>
    let cap := bits (s.modNum m (base + 8) 4) 9 0
    if 1 ≤ cap ∧ cap ≤ 1008 then some (s.modNum m base 4, s.modNum m (base + 4) 4, cap) else none
  | _ => none

/-- The counts of a queue go round at the largest multiple of CAP within 32 bits, so that the ring place is the count modulo CAP (log
143). -/
def countMod (cap : Nat) : Nat := 2 ^ 32 / cap * cap

/-- The records that a queue holds. -/
def queueUsed (head tail cap : Nat) : Nat := (tail + countMod cap - head % countMod cap) % countMod cap

/-- QPUSH: the status of the reply. -/
def State.qpush (s : State) (m base : Nat) (rec : List Byte) : Nat × State :=
  match s.queueHead m base with
  | none => (3, s)
  | some (head, tail, cap) =>
    if s.modPoison m base 12 then (4, s)
    else if cap ≤ queueUsed head tail cap then (2, s)
    else (0, (s.setMod m (base + 0x400 + 64 * (tail % cap)) (rec.take 64)).setModNum m (base + 4) 4 ((tail + 1) % countMod cap))

/-- QPOP: the status of the reply and the record. -/
def State.qpop (s : State) (m base : Nat) : Nat × List Byte × State :=
  match s.queueHead m base with
  | none => (3, [], s)
  | some (head, tail, cap) =>
    if s.modPoison m base 12 then (4, [], s)
    else if queueUsed head tail cap = 0 then (1, [], s)
    else if s.modPoison m (base + 0x400 + 64 * (head % cap)) 64 then (4, [], s)
    else (0, s.modBytes m (base + 0x400 + 64 * (head % cap)) 64, s.setModNum m base 4 ((head + 1) % countMod cap))

/-! The command port (R321). -/

/-- A command: its opcode, target offset, operand, compare value, and the record of a QPUSH. -/
structure Command where
  op : Nat
  target : Nat
  b : Nat := 0
  c : Nat := 0
  data : List Byte := []
  deriving DecidableEq, Repr, Inhabited

/-- What a command answers: the status of the reply, the old value, the record of a QPOP. -/
structure Answer where
  status : Nat
  old : Nat := 0
  data : List Byte := []
  deriving DecidableEq, Repr, Inhabited

/-- The request as it stands in a slot, and the second slot of a queue command. -/
def Command.request (x : Command) (tag : Nat) : List Byte :=
  toLe (x.op + tag % 2 ^ 16 * 2 ^ 16) 8 ++ toLe x.target 8 ++ toLe x.b 8 ++ toLe x.c 8 ++ List.replicate 32 0
def Command.queue (x : Command) : Bool := x.op == 0x10 || x.op == 0x11

/-- The bytes of two slots after the reply to a command that stands in them. -/
def Answer.reply (a : Answer) (op : Nat) (slots : List Byte) : List Byte :=
  BitVec.ofNat 8 (0x80 + a.status) :: (slots.drop 1).take 0xF ++
    (if op = 0x10 ∨ op = 0x11 then (slots.drop 0x10).take 8 else toLe a.old 8) ++ (slots.drop 0x18).take 0x28 ++
    (if op = 0x11 ∧ a.status = 0 then a.data else slots.drop 64)

/-- A command as a slot holds it. -/
def Command.ofSlots (bs : List Byte) : Command :=
  let num (o n : Nat) : Nat := leNat ((bs.drop o).take n)
  { op := num 0 1, target := num 8 8, b := num 0x10 8, c := num 0x18 8, data := (bs.drop 64).take 64 }

/-- A module performs a command. -/
def State.perform (s : State) (m : Nat) (x : Command) : Answer × State :=
  if x.op = 0x10 then (let r := s.qpush m x.target x.data; (⟨r.1, 0, []⟩, r.2))
  else if x.op = 0x11 then (let r := s.qpop m x.target; (⟨r.1, 0, r.2.1⟩, r.2.2))
  else let r := s.modCommand m x.op x.target x.b x.c; (⟨r.1, r.2.1, []⟩, r.2.2)

/-- A command sent through the command port of head `h`: written into free slots, performed, answered in the same slots; the module
takes back the lines of the slots and of the target. Slot and TAG are free (log 142). -/
def State.atPort (s : State) (m h : Nat) (x : Command) : Answer × State :=
  let p := 0x10000 + 0x1000 * h + 64 * ((Config.freeWord s.fresh).toNat % 63)
  let req := x.request (Config.freeWord (s.fresh + 1)).toNat
  let slots := if x.queue then req ++ (if x.op = 0x10 then x.data.take 64 else s.modBytes m (p + 64) 64) else req
  let r := ({ s with fresh := s.fresh + 2 }.setMod m p slots).perform m x
  let t := (r.2.setMod m p (r.1.reply x.op slots)).recall m p slots.length
  (r.1, t.recall m x.target (if x.queue then 0x10000 else 8))

/-- The pod status of a module's reply (R328). -/
def replyStatus (x : Nat) : Nat := match x with
  | 0 => 0x00
  | 1 => 0x0A
  | 2 => 0x0B
  | 3 => 0x0D
  | _ => 0x0C

/-! Two hops (R35, R338). -/

/-- How an access to a module's window goes (R155, R317, R319, R324, R339). -/
inductive WindowAccess where
  | ok
  | wait
  | bad (status : Nat)
  deriving DecidableEq, Repr, Inhabited

/-- The base of a queue window. -/
def queueBase (k : Nat) : Nat := 0x1000000 + 0x10000 * k

/-- Whether the courier of relay `c` takes a request now: its request queue and the package's reply queue must stand ready, and nothing
before it; else the status that it answers, which its own package finds (log 75). -/
def State.courierGate (s : State) (c : Nat) : WindowAccess :=
  match s.meeting c with
  | none => .bad 0x08
  | some (m, h, k) =>
    match s.queueHead m (queueBase (56 + k)), s.queueHead m (queueBase (48 + h)) with
    | some x, some y =>
      if queueUsed x.1 x.2.1 x.2.2 ≠ 0 ∨ queueUsed y.1 y.2.1 y.2.2 ≠ 0 then .wait
      else if s.relays.get c 0 = 0 then .ok else .bad (s.relays.get c 0)
    | _, _ => .bad 0x0D

/-- A courier's request performed by package `by` on a module; `sm` and `st` are where the staged bytes are: its status. -/
def State.courier (s : State) (agent op sm st m off : Nat) : Nat × State :=
  match op with
  | 1 => if s.modReadable m off 64 then (0, s.setMod sm st (s.modBytes m off 64)) else (0x0D, s)
  | 2 =>
    (match s.moduleWrite m off (s.modBytes sm st 64) with
     | some s => (0, s)
     | none => (0x0D, s))
  | 3 =>
    let slots := s.modBytes sm st 128
    let x := Command.ofSlots slots
    let r := s.atPort m ((headOn s.order agent m).getD 0) x
    (0, r.2.setMod sm st (r.1.reply x.op slots))
  | 4 =>
    (match s.modRegion m off 64 with
     | .reduction base _ =>
       (match s.moduleWrite m off (s.modBytes sm st 64) with
        | some s =>
          let a := s.modBytes sm (st + 64) 16
          (0, s.arrival m base (leNat (a.take 4)) (leNat ((a.drop 4).take 4)) (bit (leNat a) 64))
        | none => (0x0D, s))
     | _ => (0x0D, s))
  | _ => (0x0D, s)

/-- The request record of a two-hop access (R338), and the reply to it. -/
def courierRecord (op src tag m off stage : Nat) : List Byte :=
  toLe (op + src % 256 * 2 ^ 8 + tag % 2 ^ 16 * 2 ^ 16) 8 ++ toLe (m * 2 ^ 56 + off) 8 ++ toLe stage 8 ++ List.replicate 40 0
def courierReply (rec : List Byte) (status : Nat) : List Byte := rec.take 0x18 ++ [BitVec.ofNat 8 status] ++ rec.drop 0x19

/-- One access through the courier of relay `c`, which serves it at once (log 75): the data staged, the request pushed, popped and
performed there, the reply pushed and read. The staged bytes after it. -/
def State.hop (s : State) (c op m off : Nat) (staged : List Byte) : List Byte × State :=
  match s.meeting c with
  | none => ([], s)
  | some (rm, h, k) =>
    let st := 0x40000 + 0x10000 * h + 64 * ((Config.freeWord s.fresh).toNat % 1023)
    let req := courierRecord op s.self (Config.freeWord (s.fresh + 1)).toNat m off st
    let ask := fun (b : Nat) (bs : List Byte) (t : State) => (t.atPort rm h ⟨0x10, queueBase b, 0, 0, bs⟩).2
    let answer := fun (b j : Nat) (t : State) => (t.atPort rm j ⟨0x11, queueBase b, 0, 0, []⟩).2
    let s := answer (56 + k) k (ask (56 + k) req ({ s with fresh := s.fresh + 2 }.setMod rm st staged))
    let r := s.courier c op rm st m off
    let s := (r.2.atPort rm k ⟨0x10, queueBase (48 + h), 0, 0, courierReply req r.1⟩).2
    let s := answer (48 + h) h s
    (s.modBytes rm st 128, s)

/-- A command sent to a module by its route. -/
def State.command (s : State) (m : Nat) (via : Option Nat) (x : Command) : Answer × State :=
  match s.route m via with
  | .relay c =>
    let req := x.request (Config.freeWord s.fresh).toNat
    let r := { s with fresh := s.fresh + 1 }.hop c 3 m x.target (req ++ (if x.op = 0x10 then x.data.take 64 else List.replicate 64 0))
    (⟨leNat (r.1.take 1) % 128, leNat ((r.1.drop 0x10).take 8), (r.1.drop 64).take 64⟩, r.2)
  | _ => s.atPort m ((headOn s.order s.self m).getD 0) x

/-- A line with bytes replaced from offset `o` on. -/
def overlay (line : List Byte) (o : Nat) (bs : List Byte) : List Byte := line.take o ++ bs ++ line.drop (o + bs.length)

/-- Lines written through a relay: a part of a line is read, changed and written back whole (log 145). -/
def State.hopLines (s : State) (c m : Nat) (xs : List (Nat × List Byte)) : State :=
  xs.foldl (fun s x =>
    let a := x.1 / 64 * 64
    let r := if x.2.length = 64 then (x.2, s) else
      (let y := s.hop c 1 m a (List.replicate 64 0); (overlay (y.1.take 64) (x.1 % 64) x.2, y.2))
    (r.2.hop c 2 m a r.1).2) s

/-- Whether a module takes a write by its route, and the package after it: a write through a relay is one of whole lines. -/
def State.reachWrite (s : State) (m : Nat) (via : Option Nat) (off : Nat) (bs : List Byte) : Option State :=
  match s.route m via with
  | .relay c =>
    let xs := linesAt off bs
    let whole := xs.map (fun x => (x.1 / 64 * 64, overlay (s.modBytes m (x.1 / 64 * 64) 64) (x.1 % 64) x.2))
    if (s.moduleLines m whole).isSome then some (s.hopLines c m xs) else none
  | _ => s.moduleWrite m off bs

/-- A read of a module by its route: what it leaves behind. -/
def State.reachRead (s : State) (m : Nat) (via : Option Nat) (off n : Nat) : State :=
  match s.route m via with
  | .relay c => (sectorsOf off n).foldl (fun s x => (s.hop c 1 m (64 * x) (List.replicate 64 0)).2) s
  | _ => s

/-! Addresses and grants (R316, R339, R340). -/

/-- Whether a context may reach `n` bytes of a module. -/
def Context.granted (x : Context) (m off n : Nat) : Bool :=
  x.mranges.any (fun r => r.module == m && decide (r.first ≤ off) && decide (off + n ≤ r.first + r.len))

/-- Whether a context may make an access of `n` bytes to a module (R339): what lies in a reduction window needs the whole window, and,
where the line that governs it is armed, its buffers. `new` are the bytes that a write brings. -/
def State.mayReach (s : State) (x : Context) (m off n : Nat) (new : Option (List Byte)) : Bool :=
  x.granted m off n &&
    (match s.modRegion m off n with
     | .reduction base o =>
       let stands := s.modBytes m base 64
       x.granted m base 0x100000 && (match new with
         | some bs =>
           let line := if o < 64 then overlay stands o bs else stands
           !bit (leNat ((line.drop 8).take 4)) 26 || (redBuffers line).all (fun b => x.granted m b.1 b.2)
         | none => true)
     | _ => true)

/-- The relay of a lost module: the lowest package that is not on its line (R340). -/
def relayOf (q dead : Nat) : Option Nat := (List.range (podN q)).find? (fun c => !(lineOf q dead).contains c)

/-- The module, the offset and the relay of R340, if it takes one, that a MADDR names for a group that knows module `dead` to be lost,
or a status. -/
def State.maddr (s : State) (dead : Nat) (x : Word64) : Except Nat (Nat × Nat × Option Nat) :=
  let q := s.order
  let num := bits x.toNat 62 56
  let off := bits x.toNat 55 0
  if q = 0 ∨ podN q ≤ num then .error 0x08
  else if bit x.toNat 63 then
    match sharedModule q s.self num with
    | none => .error 0x08
    | some m =>
      if m ≠ dead then .ok (m, off, none)
      else if 0x40000000 ≤ off ∧ off < 0x80000000 then
        -- a severed pair: the relay area of the issuer's head on the lost line
        match relayOf q dead with
        | some c =>
          match sharedModule q c num, headOn q s.self dead with
          | some m', some j => .ok (m', off + 0x40000000 * (j + 1), some c)
          | _, _ => .error 0x08
        | none => .error 0x08
      else .error 0x08
  else if num = dead then .error 0x09
  else .ok (num, off, none)

end Sys2Proof.Machine
end

