-- ==== Sys2Proof/Machine/Memory.lean ====
section
/-! DEFINITION. Memory below the instructions: the point of coherence of HBM, host memory and module memory; the L2
states, L1 copies and held-region copies above it; page-table walks and TLBs (chapters "Address translation" and
"Region and cache-control", R287, R301 to R303, R387 to R395). -/

namespace Sys2Proof.Machine

/-- A core of the package. -/
def State.core (s : State) (c : Nat) : Core := s.cores.get c {}

/-- The package with one core replaced. -/
def State.setCore (s : State) (c : Nat) (k : Core) : State := { s with cores := s.cores.put c k {} }

/-- The package with one core changed by `f`. -/
def State.onCore (s : State) (c : Nat) (f : Core → Core) : State := s.setCore c (f (s.core c))

/-- A warp of a core. -/
def Core.warp (k : Core) (w : Nat) : Warp := k.warps.get w {}

/-- The core with one warp replaced. -/
def Core.setWarp (k : Core) (w : Nat) (x : Warp) : Core := { k with warps := k.warps.put w x {} }

/-- An error of a class noted for the log, in the name of the block of a core (R375, R415). -/
def State.noteError (s : State) (cls c : Nat) (addr : Option Nat) : State :=
  { s with errors := s.errors ++ [match (s.core c).block with
      | some b => ⟨cls, b.asid, c, b.launch, addr⟩
      | none => ⟨cls, 0xFF, c, 0, addr⟩] }

/-- The package with one warp changed by `f`. -/
def State.onWarp (s : State) (c w : Nat) (f : Warp → Warp) : State :=
  s.onCore c (fun k => k.setWarp w (f (k.warp w)))

/-- The memories inside a core, and those inside a stack core, are in canonical form. -/
def Core.memWf (k : Core) : Bool := k.scratch.wf 0 && k.wbuf.wf 0 && k.shapes.wf 0
def SCore.memWf (x : SCore) : Bool := x.scratch.wf 0 && x.imem.wf 0

/-- Every memory of the package is in its canonical form: rising addresses, no byte listed that reads as an unlisted one. -/
def Memory.wf (s : State) : Bool :=
  s.hbm.wf 0 && s.host.wf 0 && s.mods.wf 0 && s.ws.wf 0 && s.cores.all (fun e => e.2.memWf) && s.scores.all (fun e => e.2.memWf)

/-- The kernel record of the block on a core; an idle core has none of its own. -/
def Core.kernel (k : Core) : Kernel := match k.block with
  | some b => b.kernel
  | none => {}

/-- The address space of the block on a core. -/
def Core.asid (k : Core) : Nat := match k.block with
  | some b => b.asid
  | none => 0

/-- TODNS (R410). -/
def State.todns (s : State) : Nat := s.tod / (5 * 2 ^ 32)

/-- Reference ticks in `us` microseconds (R410). -/
def ticksOf (us : Nat) : Nat := 1250 * us

/-- A context. -/
def State.ctx (s : State) (asid : Nat) : Context := s.ctxs.get asid {}

/-- The end of HBM's physical addresses, 2,304 GiB (R388). -/
def hbmTop : Nat := 0x24000000000

/-- Bytes in a stack and in a stack core's slice (R388). -/
def stackBytes : Nat := 0x1800000000
def sliceBytes : Nat := 0x60000000

/-- The home slice of a physical address (R302). -/
def home (pa : Nat) : Nat := ((pa / 2 ^ 8) ^^^ (pa / 2 ^ 20) ^^^ (pa / 2 ^ 32)) % 48

/-- Marking the fault of an access to HBM that does not exist (R388). -/
def State.guardHbm (s : State) (pa n : Nat) : State :=
  if pa + n ≤ hbmTop then s else { s with bad := some .noSuchAddress }

/-- The bytes of HBM at the point of coherence (R287). -/
def State.hbmBytes (s : State) (pa n : Nat) : List Byte := s.hbm.getBytes pa n

/-! The L2 slices (R301 to R303): sectors of HBM stand under pa / 64, those of modules under numbers of their own. -/

/-- The key of a held-region sector in a cluster's slice. -/
def heldKey (cluster sec : Nat) : Nat := cluster * 2 ^ 61 + sec

/-- Lines in a slice of 16 MiB (R2). -/
def sliceLines : Nat := 65536

/-- The lines of a slice: home sectors that are not I, clean copies, and sectors of held regions, in one list without repeats. -/
def State.linesOf (s : State) (slice : Nat) : List Nat :=
  ((s.l2.keys.filter (fun k => home (64 * k) = slice)).map (· / 4) ++
    ((s.copies.keys ++ s.heldBytes.keys).filter (fun k => k / 2 ^ 61 = slice)).map (fun k => k % 2 ^ 61 / 4)).eraseDups

/-- The key of a line in a slice, for its pin and its mark of early replacement. -/
def lineKey (slice line : Nat) : Nat := slice * 2 ^ 62 + line

/-- The lines of a list that replacement may take next: no pinned line (R308), and those marked by .STRM first (R149). -/
def State.replaceable (s : State) (slice : Nat) (lines : List Nat) : List Nat :=
  let free := lines.filter (fun l => (s.pins.find (lineKey slice l)).isNone)
  let first := free.filter (fun l => s.strm.get (lineKey slice l) false)
  if first = [] then free else first

/-- An M sector of a held region written back to HBM, with its home's copies of it dropped (R311). -/
def State.flushSector (s : State) (sec : Nat) (x : HeldSector) : State :=
  if x.m then
    { s with l2 := s.l2.del sec, copies := s.copies.keep (fun k _ => k % 2 ^ 61 != sec),
             hbm := s.hbm.putBytes (64 * sec) (x.bytes.take 64) }
  else s

/-- A sector leaves a slice: what is newer there than the memory beneath it is written back (R303). -/
def State.evictSector (s : State) (slice sec : Nat) : State :=
  let s := match s.heldBytes.find (heldKey slice sec) with
    | some x => { s.flushSector sec x with heldBytes := s.heldBytes.del (heldKey slice sec) }
    | none => s
  let s := { s with copies := s.copies.del (heldKey slice sec) }
  if home (64 * sec) = slice then { s with l2 := s.l2.del sec } else s

/-- A line leaves a slice. -/
def State.evictLine (s : State) (slice line : Nat) : State :=
  let s := (List.range 4).foldl (fun s i => s.evictSector slice (4 * line + i)) s
  { s with strm := s.strm.del (lineKey slice line) }

/-- Room for a line in a slice: a line already there takes none; a full slice gives up another (R2, R303). -/
def State.room (s : State) (slice line : Nat) : State :=
  let xs := s.linesOf slice
  if xs.length < sliceLines ∨ xs.contains line then s
  else
    let ys := s.replaceable slice xs
    match ys[Config.victim s.fresh % ys.length]? with
    | some v => { s with fresh := s.fresh + 1 }.evictLine slice v
    | none => s

/-- A home sector enters a state; I takes it out. -/
def State.setL2 (s : State) (sec : Nat) (x : L2Sector) : State :=
  let s := if x.st = .i then s else s.room (home (64 * sec)) (sec / 4)
  { s with l2 := s.l2.put sec x {} }

/-- A sector becomes M at its home, every S copy in other slices becoming I (R303). -/
def State.makeM (s : State) (sec : Nat) (old : List Byte) : State :=
  let e := s.l2.get sec {}
  { s.setL2 sec { st := .m, old := if e.st = .m then e.old else old } with
    copies := s.copies.keep (fun k _ => k % 2 ^ 61 != sec) }

/-- The 4-byte locations that `n` bytes at `pa` meet, by number. -/
def locations (pa n : Nat) : List Nat := if n = 0 then [] else (List.range ((pa + n - 1) / 4 - pa / 4 + 1)).map (· + pa / 4)

/-- The releases of locations changed. -/
def State.onRels (s : State) (pa n : Nat) (f : RelSet → RelSet) : State :=
  { s with rels := (locations pa n).foldl (fun m l => m.put l (f (m.get l {})) {}) s.rels }

/-- A write at the point of coherence of HBM: every sector it meets becomes M at its home (R303); a read of its value synchronises
with no release, unless the write is one or an atomic (R286). -/
def State.writeHbm (s : State) (pa : Nat) (bs : List Byte) : State :=
  let s := s.guardHbm pa bs.length
  let s := (sectorsOf pa bs.length).foldl (fun s sec => s.makeM sec (s.hbmBytes (64 * sec) 64)) s
  let s := if s.rels.isEmpty then s else s.onRels pa bs.length (fun r => { r with own := [] })
  { s with hbm := s.hbm.putBytes pa bs }

/-- A write that goes to HBM beneath the caches, dropping every cached state of its sectors: the launch controller's and
the MMP's own writes of frames, and scrubbing. -/
def State.dropSector (s : State) (sec : Nat) : State :=
  { s with l2 := s.l2.del sec, copies := s.copies.keep (fun k _ => k % 2 ^ 61 != sec) }

/-- A sector that is M at its home becomes E: the memory beneath it has taken its bytes (R306). -/
def L2Sector.clean (x : L2Sector) : L2Sector := if x.st = .m then { st := .e } else x

/-- A sector that a load needs at its home (R303): an I one becomes `st`. -/
def State.fetchHome (s : State) (sec : Nat) (st : L2State) : State :=
  if (s.l2.get sec {}).st = .i then s.setL2 sec { st } else s

/-- A slice fetches a sector for a load (R303): its home has it, and a slice that is not its home takes an S copy. -/
def State.fetchClean (s : State) (slice sec : Nat) (st : L2State) : State :=
  let s := s.fetchHome sec st
  if home (64 * sec) = slice then s
  else
    let s := s.room slice (sec / 4)
    { s with copies := s.copies.put (heldKey slice sec) true false }

/-- Where a translated byte lies: its tier and its address there (R387, R391). -/
inductive Place where
  | hbm (pa : Nat)
  | host (pa : Nat)
  | window (module off : Nat)
  deriving DecidableEq, Repr, Inhabited

/-- The outcome of a page walk (R389 to R395). -/
inductive Xlat where
  | ok (leaf base size : Nat)
  | invalid
  | notres (leaf : Nat)
  | migrating (leaf : Nat)
  deriving DecidableEq, Repr, Inhabited

/-- Fields of a leaf (R391). -/
def leafR (x : Nat) : Bool := bit x 5
def leafW (x : Nat) : Bool := bit x 6
def leafX (x : Nat) : Bool := bit x 7
def leafSt (x : Nat) : Nat := bits x 10 9
def leafTy (x : Nat) : Nat := bits x 12 11
def leafPN (x : Nat) : Bool := bit x 13
def leafHO (x : Nat) : Bool := bit x 14
def leafRV (x : Nat) : Bool := bit x 15
def leafFrame (x : Nat) : Nat := bits x 51 16 * 2 ^ 16
def leafRgn (x : Nat) : Nat := bits x 63 52

/-- A leaf that R391 does not make invalid, for a page of `size` bytes. -/
def leafValid (x size : Nat) : Bool :=
  bits x 1 0 == 2 && bits x 4 2 == 0 && !bit x 8 && leafSt x != 3 && leafTy x != 3 && !(leafW x && !leafR x) &&
    decide (leafFrame x % size = 0)

/-- What a leaf that stands in a table says of an address. -/
def leafOutcome (x va size : Nat) : Xlat :=
  if leafValid x size then
    match leafSt x with
    | 0 => .ok x (va - va % size) size
    | 1 => .notres x
    | _ => .migrating x
  else .invalid

/-- The levels of a walk below `n` of them (R389): `shift` is the lowest index bit of this level and `ibits` how many
index bits it has. -/
def walkFrom (hbm : FMap Byte) (va : Nat) : Nat → Nat → Xlat
  | 0, _ => .invalid
  | n + 1, table =>
    let shift := 16 + 9 * n
    let idx := if n = 3 then bits va 56 43 else bits va (shift + 8) shift
    let x := hbm.num (table + 8 * idx) 8
    if bits x 1 0 = 1 then
      (if n = 0 ∨ bits x 11 2 ≠ 0 then .invalid else walkFrom hbm va n (bits x 63 12 * 2 ^ 12))
    else if bits x 1 0 = 2 ∧ n ≠ 3 then leafOutcome x va (2 ^ shift)
    else .invalid

/-- A page walk (R387, R389). -/
def State.walk (s : State) (asid va : Nat) : Xlat :=
  if va < 2 ^ 57 then walkFrom s.hbm va 4 (s.ctx asid).root else .invalid

/-- The entry of a TLB that translates an address (R393). -/
def tlbFind (tlb : List TlbEntry) (asid va : Nat) : Option TlbEntry :=
  tlb.find? (fun e => !e.table && e.asid == asid && decide (e.va ≤ va) && decide (va < e.va + e.size))

/-- The lowest table that a walk cache has for an address: the levels below it and its address (R393). -/
def tableFind (tlb : List TlbEntry) (asid va : Nat) : Option (Nat × Nat) :=
  [1, 2, 3].findSome? (fun n => (tlb.find? (fun e =>
    e.table && e.asid == asid && e.size == 2 ^ (16 + 9 * n) && decide (e.va ≤ va) && decide (va < e.va + e.size))).map (fun e => (n, e.leaf)))

/-- The table entries above a leaf, as a walk from a table with `n` levels meets them. -/
def tablesFrom (hbm : FMap Byte) (asid va : Nat) : Nat → Nat → List TlbEntry
  | 0, _ => []
  | n + 1, table =>
    let shift := 16 + 9 * n
    let x := hbm.num (table + 8 * (if n = 3 then bits va 56 43 else bits va (shift + 8) shift)) 8
    if bits x 1 0 = 1 ∧ n ≠ 0 then
      let next := bits x 63 12 * 2 ^ 12
      ⟨asid, va / 2 ^ shift * 2 ^ shift, 2 ^ shift, next, true⟩ :: tablesFrom hbm asid va n next
    else []

/-- A walk cache with one more entry, the newest first, within its 64 entries (R393, log 7). -/
def tableAdd (tlb : List TlbEntry) (x : TlbEntry) : List TlbEntry :=
  if tlb.any (fun e => e.table && e.asid == x.asid && e.va == x.va && e.size == x.size) then tlb
  else tlb.filter (fun e => !e.table) ++ (x :: tlb.filter (·.table)).take 64

/-- Translation through a TLB, or by a walk, from the lowest table that the walk cache has (R393). -/
def State.xlate (s : State) (tlb : List TlbEntry) (asid va : Nat) : Xlat :=
  match tlbFind tlb asid va with
  | some e => .ok e.leaf e.va e.size
  | none => match tableFind tlb asid va with
    | some (n, table) => walkFrom s.hbm va n table
    | none => s.walk asid va

/-- A TLB with one more entry, the newest first, within its capacity (R393, log 7). -/
def tlbAdd (tlb : List TlbEntry) (cap asid : Nat) (x : Xlat) : List TlbEntry :=
  match x with
  | .ok leaf base size =>
    if (tlbFind tlb asid base).isSome then tlb
    else (⟨asid, base, size, leaf, false⟩ :: tlb.filter (fun e => !e.table)).take cap ++ tlb.filter (·.table)
  | _ => tlb

/-- The Bloom filter bits of an entry's base page number (R400). -/
def bloomBits (va : Nat) : List Nat :=
  let vpn := bits va 56 16
  [bits vpn 11 0, (bits vpn 23 12 ^^^ bits vpn 35 24 ^^^ bits vpn 40 36) % 4096]

/-- Where the byte at `va` lies under a leaf (R391). -/
def placeOf (leaf base va : Nat) : Place :=
  let off := va - base
  match leafTy leaf with
  | 0 => .hbm (leafFrame leaf + off)
  | 1 => .host (leafFrame leaf + off)
  | _ => .window (bits leaf 51 45) (bits leaf 44 16 * 2 ^ 16 + off)

/-- Whether a leaf grants an access (R392); `ho` marks handler mode and the launch controller. -/
def permits (leaf : Nat) (need : Need) (ho : Bool) : Bool :=
  (ho || !leafHO leaf) &&
    (match need with
     | .read => leafR leaf
     | .write => leafW leaf
     | .both => leafR leaf && leafW leaf
     | .fetch => leafX leaf)

/-- The region entry of a number. -/
def State.region (s : State) (r : Nat) : Region := s.regions.get r {}

/-- Whether a cluster holds a region (R310, R312). -/
def State.holds (s : State) (cluster r : Nat) : Bool :=
  let e := s.region r
  e.valid && e.state == 1 && e.holder == cluster

/-- The regions that a cluster holds, its held list (R310). -/
def State.heldList (s : State) (cl : Nat) : List Nat :=
  (s.regions.filter (fun e => e.2.valid && e.2.state == 1 && e.2.holder == cl)).map (·.1)

/-- Whether the region rule admits an access to a page under the held list that its cluster had at issue (R312). -/
def regionIn (held : List Nat) (leaf : Nat) : Bool := !leafRV leaf || held.contains (leafRgn leaf)

/-- Whether the region rule admits an access of a cluster to a page now (R312). -/
def State.regionOk (s : State) (cluster leaf : Nat) : Bool := !leafRV leaf || s.holds cluster (leafRgn leaf)

/-- The bytes of a held-region sector as its holder's slice has them (R311): those of an M one, else the home's (log 127). -/
def State.heldSector (s : State) (cluster sec : Nat) : List Byte :=
  match s.heldBytes.find (heldKey cluster sec) with
  | some x => if x.m then x.bytes else s.hbmBytes (64 * sec) 64
  | none => s.hbmBytes (64 * sec) 64

/-- Replacing bytes of a sector from offset `o` on. -/
def patch (bs : List Byte) (o : Nat) (new : List Byte) : List Byte :=
  bs.take o ++ new ++ bs.drop (o + new.length)

/-- A write performed at a module (R287, R322, R323); a line of the data window that the package reaches directly is then
held M in its home slice (R301), which keeps what the module holds beneath it. -/
def State.writeMod (s : State) (module off : Nat) (bs : List Byte) (via : Option Nat := none) : State :=
  match s.reachWrite module via off bs with
  | none => s
  | some s' =>
    if 0x40000000 ≤ off ∧ s.attached module ∧ via = none then
      (sectorsOf off bs.length).foldl (fun t x => t.makeM (modSector module (64 * x)) (s.modBytes module (64 * x) 64)) s'
    else s'

/-- The way to `n` bytes of a module for a context that is granted them or not; `allowed` tells that the module's map admits the
access. -/
def State.windowGate (s : State) (module : Nat) (via : Option Nat) (granted allowed : Bool) : WindowAccess :=
  match s.route module via with
  | .bad st => .bad st
  | .wait => .wait
  | .relay c => if granted then (match s.courierGate c with
      | .ok => if allowed then .ok else .bad 0x0D
      | x => x) else .bad 0x0D
  | .direct _ => if granted && allowed then .ok else .bad 0x0D

/-- Group-table entry `g` of a context (R325). -/
def State.group (s : State) (asid g : Nat) : Group := (s.ctx asid).groups.get g {}

/-- The bound of a fabric wait in ticks (R329). -/
def Group.bound (g : Group) : Nat := ticksOf g.tout

/-- A read of a window, which ends with POISON where its line has an uncorrectable error, and a write of bytes to it. -/
def State.windowRead (s : State) (asid module off n : Nat) : WindowAccess :=
  match s.windowGate module none (s.mayReach (s.ctx asid) module off n none) (s.modReadable module off n) with
  | .ok => if s.modPoison module off n then .bad 0x0C else .ok
  | x => x
def State.windowWrite (s : State) (asid module off : Nat) (bs : List Byte) : WindowAccess :=
  s.windowGate module none (s.mayReach (s.ctx asid) module off bs.length (some bs)) (s.reachWrite module none off bs).isSome

/-- Reading `n` bytes of one sector at the point of coherence; `held` names the cluster and the region, where
the page is of a region that the cluster holds (R311). -/
def State.readPlace (s : State) (held : Option (Nat × Nat)) (p : Place) (n : Nat) : List Byte :=
  match p with
  | .hbm pa =>
    match held with
    | some (cl, _) => ((s.heldSector cl (pa / 64)).drop (pa % 64)).take n
    | none => s.hbmBytes pa n
  | .host pa => s.host.getBytes pa n
  | .window m off => s.modBytes m off n

/-- Writing bytes of one sector at the point of coherence (R303, R311). -/
def State.writePlace (s : State) (held : Option (Nat × Nat)) (p : Place) (bs : List Byte) : State :=
  match p with
  | .hbm pa =>
    match held with
    | some (cl, rgn) =>
      let sec := pa / 64
      let s := (s.guardHbm pa bs.length).room cl (sec / 4)
      let s := if s.rels.isEmpty then s else s.onRels pa bs.length (fun r => { r with own := [] })
      { s with heldBytes := s.heldBytes.set (heldKey cl sec) ⟨rgn, true, patch (s.heldSector cl sec) (pa % 64) bs⟩ }
    | none => s.writeHbm pa bs
  | .host pa => { s with host := s.host.putBytes pa bs }
  | .window m off => s.writeMod m off bs

/-- The cluster of a core (R12). -/
def clusterOf (c : Nat) : Nat := c / 2

/-- The cluster and the region, where a leaf's page is of a region that the cluster holds or is handing
over, for an access of core `c` (R311). -/
def State.heldBy (s : State) (c leaf : Nat) : Option (Nat × Nat) :=
  let e := s.region (leafRgn leaf)
  if leafRV leaf && e.valid && (e.state == 1 || e.state == 2) && e.holder == clusterOf c then
    some (clusterOf c, leafRgn leaf)
  else none

/-- The L1 of a core without the sectors of a list (R149, R164, R306). -/
def State.l1Drop (s : State) (c : Nat) (secs : List Nat) : State :=
  s.onCore c (fun k => { k with l1 := k.l1.keep (fun j _ => !secs.contains j) })

/-- The L1 of a core, invalidated whole (R291, R292). -/
def State.l1Clear (s : State) (c : Nat) : State := s.onCore c (fun k => { k with l1 := [] })

/-- The number of a place's sector in the L2 map, where L2 holds it: HBM, and modules that the package reaches directly (R301). -/
def State.sectorAt (s : State) (p : Place) : Option Nat :=
  match p with
  | .hbm pa => some (pa / 64)
  | .window m off => if s.attached m then some (modSector m off) else none
  | .host _ => none

/-- An access of core `c` has its sector fetched into the L2 slices that R301 and R303 name: at its home and in the cluster's slice;
for a region that the cluster holds, in its own slice alone. A module line that was not held is then S (log 129). -/
def State.fetchL2 (s : State) (c leaf : Nat) (p : Place) : State :=
  match s.sectorAt p with
  | none => s
  | some sec =>
    match p, s.heldBy c leaf with
    | .hbm _, some (cl, rgn) =>
      if (s.heldBytes.find (heldKey cl sec)).isSome then s
      else
        let s := s.room cl (sec / 4)
        { s with heldBytes := s.heldBytes.set (heldKey cl sec) ⟨rgn, false, []⟩ }
    | .hbm _, none => s.fetchClean (clusterOf c) sec .e
    | _, _ => s.fetchClean (clusterOf c) sec .s

/-- The eviction mark of .STRM on the lines that an access touches: at the home and in the cluster's slice (R149). -/
def State.markStrm (s : State) (c cp : Nat) (p : Place) : State :=
  match cp, s.sectorAt p with
  | 2, some sec =>
    { s with strm := (s.strm.set (lineKey (home (64 * sec)) (sec / 4)) true).set (lineKey (clusterOf c) (sec / 4)) true }
  | _, _ => s

/-- A load of core `c` under a cache policy (R149, R287): the bytes, and the package after it. A default-CP load may
take its bytes from the core's L1; other loads read at the point of coherence. -/
def State.loadAt (s : State) (c cp leaf : Nat) (p : Place) (n : Nat) : List Byte × State :=
  let held := s.heldBy c leaf
  match p with
  | .hbm pa =>
    let s := s.guardHbm pa n
    let sec := pa / 64
    if cp = 0 then
      let hit := Config.l1Hit s.fresh
      let s' := { s with fresh := s.fresh + 1 }
      match (s.core c).l1.find sec with
      | some bs =>
        if hit then ((bs.drop (pa % 64)).take n, s')
        else
          let line := s.readPlace held (.hbm (64 * sec)) 64
          ((line.drop (pa % 64)).take n, (s'.fetchL2 c leaf p).onCore c (fun k => { k with l1 := k.l1.set sec line }))
      | none =>
        let line := s.readPlace held (.hbm (64 * sec)) 64
        ((line.drop (pa % 64)).take n, (s.fetchL2 c leaf p).onCore c (fun k => { k with l1 := k.l1.set sec line }))
    else (s.readPlace held p n, (s.fetchL2 c leaf p).markStrm c cp p)
  | .window m off => (s.readPlace held p n, ((s.reachRead m none off n).fetchL2 c leaf p).markStrm c cp p)
  | .host _ => (s.readPlace held p n, s)

/-- A store of core `c` under a cache policy (R149): performed at the point of coherence; the core's L1 copy is updated
(default CP) or dropped. -/
def State.storeAt (s : State) (c cp leaf : Nat) (p : Place) (bs : List Byte) : State :=
  let s := (s.writePlace (s.heldBy c leaf) p bs).markStrm c cp p
  match p with
  | .hbm pa =>
    if cp = 0 then
      s.onCore c (fun k => match k.l1.find (pa / 64) with
        | some line => { k with l1 := k.l1.set (pa / 64) (patch line (pa % 64) bs) }
        | none => k)
    else s.l1Drop c [pa / 64]
  | _ => s

/-- Host pages count as readable data of the block like HBM; a byte range read page by page by the launch controller or
an engine: none when some byte is not readable (R392, R394). -/
def State.readVa (s : State) (asid va : Nat) (need : Need) (ho : Bool) : Nat → Option (List Byte)
  | 0 => some []
  | n + 1 =>
    match s.walk asid va with
    | .ok leaf base _ =>
      if permits leaf need ho then
        match s.readVa asid (va + 1) need ho n with
        | some bs => some (s.readPlace none (placeOf leaf base va) 1 ++ bs)
        | none => none
      else none
    | _ => none

/-- The launch controller's and the engines' writes of a byte range, page by page; none when some byte is not
writable. -/
def State.writeVa (s : State) (asid va : Nat) (ho : Bool) : List Byte → Option State
  | [] => some s
  | b :: bs =>
    match s.walk asid va with
    | .ok leaf base _ =>
      if permits leaf .write ho then (s.writePlace none (placeOf leaf base va) [b]).writeVa asid (va + 1) ho bs
      else none
    | _ => none

/-- A little-endian number read through a context's translation. -/
def State.readNum (s : State) (asid va n : Nat) (need : Need) (ho : Bool) : Option Nat :=
  (s.readVa asid va need ho n).map leNat

/-- Bytes of one page read as an instruction fetch reads them (R55, R107, R392): the page must be resident and
grant X. -/
def State.fetchPart (s : State) (tlb : List TlbEntry) (asid : Nat) (ho : Bool) (va n : Nat) : Option (List Byte) :=
  if va < 2 ^ 57 then
    match s.xlate tlb asid va with
    | .ok leaf base _ => if permits leaf .fetch ho then some (s.readPlace none (placeOf leaf base va) n) else none
    | _ => none
  else none

/-- The twelve bytes of an instruction word, or none for a FETCH_FAULT (R55). -/
def State.fetchWord (s : State) (tlb : List TlbEntry) (asid va : Nat) (ho : Bool) : Option (List Byte) :=
  let first := 2 ^ 16 - va % 2 ^ 16
  if 12 ≤ first then s.fetchPart tlb asid ho va 12
  else
    match s.fetchPart tlb asid ho va first, s.fetchPart tlb asid ho ((va + first) % 2 ^ 64) (12 - first) with
    | some x, some y => some (x ++ y)
    | _, _ => none

/-- A read of one constant-bank word (R40): the word at the bank's base plus 4 × `i`, or a free value where it cannot
be read (log 9). -/
def State.bankWord (s : State) (asid : Nat) (base : Word64) (i : Nat) : Word :=
  match s.readNum asid ((base.toNat + 4 * i) % 2 ^ 64) 4 .read false with
  | some x => BitVec.ofNat 32 x
  | none => Config.freeBank s.fresh (base.toNat + i)

end Sys2Proof.Machine
end

