-- ==== Sys2Proof/Machine/Ops.lean ====
section
/-! DEFINITION. The shared operations of every instruction of a core: who issues (the site of a word), whether
the word is issuable (R360), the common traps in their order (R55), what issuing does (R46, R47, R56), how results land
(R50), and taking an exception and returning from it (R363 to R368, R372). -/

namespace Sys2Proof.Machine

/-- The end of every meaning: the next state, or the fault that an access to memory that does not exist marked. -/
def done (s : State) : Host.Outcome State Fault Refusal :=
  match s.bad with
  | none => .next s
  | some f => .fault f

/-- The code of a cause (R362). -/
def Cause.code (c : Cause) : Nat :=
  match c with
  | .fetchFault => 0x01 | .illegalOpcode => 0x02 | .illegalForm => 0x03 | .illegalPair => 0x04 | .regRange => 0x05
  | .schedCheck => 0x06 | .privOp => 0x07 | .pstackOverflow => 0x08 | .pstackEmpty => 0x09 | .callDepth => 0x0A
  | .retEmpty => 0x0B | .splitOverflow => 0x0C | .targetFault => 0x0D | .targetRange => 0x0E | .targetLand => 0x0F
  | .formatMismatch => 0x10 | .qshape => 0x11 | .trailerMismatch => 0x12 | .alignFault => 0x13
  | .scratchRange => 0x14 | .wsRange => 0x15 | .wbRange => 0x16 | .pageFault => 0x17 | .protFault => 0x18
  | .regionFault => 0x19 | .atomSpace => 0x1A | .windowFault => 0x1B | .queuePoison => 0x20 | .queueEmpty => 0x21
  | .shapeForm => 0x22 | .copyFault => 0x23 | .batchOpen => 0x24 | .tseqTable => 0x25 | .mstreamOrphan => 0x26
  | .mtxData => 0x27 | .kvSpace => 0x28 | .kvForm => 0x29 | .kvFault => 0x2A | .kvData => 0x2B | .barCount => 0x2C
  | .barBusy => 0x2D | .barOrphan => 0x2E | .dataError => 0x30 | .trap => 0x31 | .preempt => 0x32
  | .resume => 0x33 | .scratchEcc => 0x38 | .doubleTrap => 0x39 | .ctxForm => 0x3A

/-- The fatal causes, which end the block without a handler (R362). -/
def Cause.fatal (c : Cause) : Bool := c == .scratchEcc || c == .doubleTrap || c == .ctxForm

/-! Warps, splits and counters. -/

/-- A vector register of a warp. -/
def Warp.vreg (x : Warp) (r : Nat) : VReg := x.v.get r {}

/-- A lane of a vector register. -/
def VReg.lane (x : VReg) (l : Nat) : Word := x.w.get l 0

/-- A vector register with lanes written under a tag: the other lanes keep their bits, and the marks of a written lane
are cleared (R81, R375). -/
def VReg.write (x : VReg) (w : FMap Word) (tag : BitVec 4) : VReg :=
  { w := w.foldl (fun acc e => acc.put e.1 e.2 0) x.w, tag := tag,
    bad := x.bad.keep (fun k _ => (w.find (k / 2)).isNone) }

/-- The predicate that index `i` names: 15 is PT (R98). -/
def Warp.pred (x : Warp) (i : Nat) : Lanes := if i = 15 then BitVec.allOnes 64 else x.p.get i 0

/-- A queue of a warp and a slot of it. -/
def Warp.queue (x : Warp) (q : Nat) : Queue := x.queues.get q {}
def Queue.slot (q : Queue) (i : Nat) : QSlot := q.slots.get i {}
def Queue.headSlot (q : Queue) : QSlot := q.slot q.head

/-- The queue after its head entry is popped (R181). -/
def Queue.pop (q : Queue) : Queue :=
  { slots := q.slots.put q.head {} {}, head := (q.head + 1) % 8, tail := q.tail, count := q.count - 1 }

/-- The queue after its tail slot is reserved with the given contents (R181). -/
def Queue.push (q : Queue) (x : QSlot) : Queue :=
  { slots := q.slots.put q.tail x {}, head := q.head, tail := (q.tail + 1) % 8, count := q.count + 1 }

/-- The counters of a stream instance (R27, R47). -/
def Core.flags (k : Core) (p : Party) : FMap Nat :=
  match p with
  | .compute w => (k.warp w).f
  | .access w => (k.warp w).af
  | .matrix => k.mst.f

/-- A core with the counters of one stream instance replaced. -/
def Core.setFlags (k : Core) (p : Party) (f : FMap Nat) : Core :=
  match p with
  | .compute w => k.setWarp w { k.warp w with f := f }
  | .access w => k.setWarp w { k.warp w with af := f }
  | .matrix => { k with mst := { k.mst with f := f } }

/-- Raising a counter at issue; flag 0 names none (R47). -/
def Core.flagUp (k : Core) (p : Party) (n : Nat) : Core :=
  if n = 0 then k else
    let f := k.flags p
    k.setFlags p (f.put n (f.get n 0 + 1) 0)

/-- The fall of a counter at completion (R47). -/
def Core.flagDown (k : Core) (p : Party) (n : Nat) : Core :=
  if n = 0 then k else
    let f := k.flags p
    k.setFlags p (f.put n (f.get n 0 - 1) 0)

/-- What a lane's generator holds at block start (R77), which is what an unlisted generator reads as. -/
def genStart (w l : Nat) : Word := 0x9E3779B9 ^^^ BitVec.ofNat 32 (64 * w + l)

/-- A lane's generator, and a warp with it replaced. -/
def Warp.genAt (x : Warp) (w l : Nat) : Word := x.gen.get l (genStart w l)
def Warp.setGen (x : Warp) (w l : Nat) (g : Word) : Warp := { x with gen := x.gen.put l g (genStart w l) }

/-! Results. -/

/-- The bits of FLAGS that are not reserved (R129); the reserved ones read 0 (R7). -/
def flagsMask : Word := 0x000100FF

/-- The scoreboard register that a write goes to (R52). -/
def Wr.reg (x : Wr) : Option Reg :=
  match x with
  | .v w r _ _ => some ⟨.v, w, r⟩
  | .vbad w r _ _ => some ⟨.v, w, r⟩
  | .s w r _ => some ⟨.s, w, r⟩
  | .p w r _ _ => some ⟨.p, w, r⟩
  | .a w r _ => some ⟨.a, w, r⟩
  | .m r _ => some ⟨.m, 0, r⟩
  | _ => none

/-- One result landing in the registers of a core (R50, R81, R98). -/
def Core.land (k : Core) (x : Wr) : Core :=
  match x with
  | .v w r vals tag =>
    let p := k.warp w
    if vals.isEmpty then k else k.setWarp w { p with v := p.v.put r ((p.vreg r).write vals tag) {} }
  | .vbad w r l mark =>
    let p := k.warp w
    let g := p.vreg r
    k.setWarp w { p with v := p.v.put r { g with bad := (g.bad.set (2 * l) mark).set (2 * l + 1) mark } {} }
  | .s w r v => let p := k.warp w; k.setWarp w { p with s := p.s.put r v 0 }
  | .p w r lanes val =>
    let p := k.warp w
    k.setWarp w { p with p := p.p.put r ((p.p.get r 0 &&& ~~~lanes) ||| (val &&& lanes)) 0 }
  | .a w r v => let p := k.warp w; k.setWarp w { p with acc := { p.acc with a := p.acc.a.put r v 0 } }
  | .c w i b => let p := k.warp w; k.setWarp w { p with acc := { p.acc with c := putBit p.acc.c i b } }
  | .m r v => { k with mst := { k.mst with m := k.mst.m.put r v 0 } }
  | .mc i b => { k with mst := { k.mst with c := putBit k.mst.c i b } }
  | .sh r i v => { k with shapes := k.shapes.putBytes (128 * r + 4 * i) (toLe v.toNat 4) }
  | .flagsOr w v => let p := k.warp w; k.setWarp w { p with flags := p.flags ||| v }
  | .flagsSet w keep v => let p := k.warp w; k.setWarp w { p with flags := (p.flags &&& keep) ||| v }
  | .sys i v =>
    if i = 0x101 then { k with ptrap := v.getLsbD 2 }
    else if i = 0x00E then
      { k with sys := k.sys.put i ((k.sys.get i 0 &&& 0x7FFFFFFFFFFFFE00) ||| (v &&& 0x80000000000001FF)) 0 }
    else { k with sys := k.sys.put i (if i = 0x016 then v &&& 0xFFFFFFFF else v) 0 }

/-- Whether a write replaces FLAGS bits; those land before the sticky bits of the same clock (R130). -/
def Wr.sets (x : Wr) : Bool :=
  match x with
  | .flagsSet _ _ _ => true
  | _ => false

/-- Landing every result of a core that is due by clock `clk`, in issue order, with the fall of the counters (R47,
R50). -/
def Core.landDue (k : Core) (clk : Nat) : Core :=
  let due := k.pends.filter (fun p => decide (p.due ≤ clk))
  let k := { k with pends := k.pends.filter (fun p => !decide (p.due ≤ clk)) }
  let wrs := (due.map (·.wrs)).flatten
  let k := (wrs.filter Wr.sets).foldl Core.land k
  let k := (wrs.filter (fun x => !x.sets)).foldl Core.land k
  due.foldl (fun k p => k.flagDown p.party p.flag) k

/-! Who issues. -/

/-- The site of a word of a core's streams: the stream instance it stands in and what it sees. In a compute stream
`exec` is the execution mask (R97; the handler lanes in handler mode, R366) and `act` the active lanes (R45); an access
or matrix stream acts once, and `act` is 1 when its guard holds (R177, R212). -/
structure Env where
  st : Stream
  c : Nat
  w : Nat
  slot : Nat
  handler : Bool
  pc : Word64
  ready : Nat
  held : Option Nat
  bar : Option (Nat × Bool)
  waiting : Bool
  clk : Nat
  k : Core
  wp : Warp
  blk : Block
  m : Lanes
  exec : Lanes
  act : Lanes
  fn : Fn
  body : Body
  ctl : Ctl
  s : State
  deriving Inhabited

/-- The stream instance that the word belongs to. -/
def Env.party (e : Env) : Party :=
  match e.st with
  | .access => .access e.w
  | .matrix => .matrix
  | _ => .compute e.w

/-- The kernel record. -/
def Env.kernel (e : Env) : Kernel := e.blk.kernel

/-- The warp's width W. -/
def Env.width (e : Env) : Nat := e.blk.kernel.w

/-- The lanes that a guard field selects in a compute stream (R45). -/
def guardLanes (x : Warp) (g : BitVec 5) : Lanes :=
  let p := x.pred (g.toNat % 16)
  if g.getLsbD 4 then ~~~p else p

/-- Whether the guard of a one-thread stream holds (R177, R212): a condition bit, or always; G[4] negates. -/
def guardBit (c : BitVec 4) (g : BitVec 5) : Bool :=
  let i := g.toNat % 16
  let p := if i = 15 then true else c.getLsbD i
  if g.getLsbD 4 then !p else p

/-- Whether a warp of the block has an access stream (R23). -/
def Kernel.hasAccess (k : Kernel) (w : Nat) : Bool := k.accmask.getLsbD w

/-- The site of the running word in a stream of a core or in the handler split; none where no stream stands there. -/
def envOf (s : State) (fn : Fn) (body : Body) : Option Env :=
  let ctl := ctlOfBody body
  match s.actor with
  | .compute c w slot =>
    let k := s.core c
    match k.block, (k.warp w).splits.find slot with
    | some blk, some x =>
      let wp := k.warp w
      let exec := x.m &&& wp.en
      some { st := .compute, c, w, slot, handler := false, pc := x.pc, ready := x.ready, held := x.held, bar := x.bar,
             waiting := x.waiting, clk := s.clk, k, wp, blk, m := x.m, exec, act := exec &&& guardLanes wp ctl.g,
             fn, body, ctl, s }
    | _, _ => none
  | .handler c =>
    let k := s.core c
    match k.block, k.halt with
    | some blk, some h =>
      match h.handler with
      | some x =>
        let wp := k.warp x.warp
        some { st := .compute, c, w := x.warp, slot := 0, handler := true, pc := x.pc, ready := x.ready, held := x.held,
               bar := x.bar, waiting := false, clk := s.clk, k, wp, blk, m := x.m, exec := x.m,
               act := x.m &&& guardLanes wp ctl.g, fn, body, ctl, s }
      | none => none
    | _, _ => none
  | .access c w =>
    let k := s.core c
    let wp := k.warp w
    match k.block with
    | some blk =>
      if blk.kernel.hasAccess w && !wp.acc.aend then
        some { st := .access, c, w, slot := 0, handler := false, pc := wp.acc.apc, ready := wp.acc.ready,
               held := wp.acc.held, bar := wp.acc.bar, waiting := false, clk := s.clk, k, wp, blk, m := 1, exec := 1,
               act := if guardBit wp.acc.c ctl.g then 1 else 0, fn, body, ctl, s }
      else none
    | none => none
  | .matrix c =>
    let k := s.core c
    match k.block with
    | some blk =>
      if blk.kernel.matrix && !k.mst.mend then
        some { st := .matrix, c, w := 0, slot := 0, handler := false, pc := k.mst.mpc, ready := k.mst.ready,
               held := k.mst.held, bar := k.mst.bar, waiting := false, clk := s.clk, k, wp := {}, blk, m := 1, exec := 1,
               act := if guardBit k.mst.c ctl.g then 1 else 0, fn, body, ctl, s }
      else none
    | none => none
  | _ => none

/-- The number of a stream instance in the order of R363 and among the skid counts. -/
def partyRank (p : Party) : Nat :=
  match p with
  | .compute w => w
  | .access w => 32 + w
  | .matrix => 64

/-- Whether a stream instance may issue at all: its block runs, and is not halted beyond the skid clocks (R364). The
instance whose word raised the cause does not issue again. -/
def Core.mayIssue (k : Core) (clk : Nat) (p : Party) (slot : Nat) (handler : Bool) : Bool :=
  match k.block with
  | none => false
  | some b =>
    b.failed.isNone &&
      (match k.halt with
       | none => !handler
       | some h =>
         if handler then h.handler.isSome && !h.save && decide (h.found + 5 ≤ clk)
         else !h.entered && decide (clk ≤ h.found + 4) && !h.stood.contains (p, slot) &&
           !(h.party == p && h.slot == slot && decide (h.trap.cause ≠ .preempt)))

/-- A queue's head entry can be popped by a compute word: it is FULL or POISON, or the access stream has ended and it
is FREE (R182, R193). -/
def Warp.headReady (x : Warp) (q : Nat) : Bool :=
  let h := (x.queue q).headSlot
  h.st == .full || h.st == .poison || (h.st == .free && x.acc.aend)

/-- The counters that WAIT names are all 0 (R47). -/
def waitOk (f : FMap Nat) (wait : BitVec 12) : Bool :=
  (setBitsOf wait 12).all (fun i => f.get (i + 1) 0 == 0)

/-- A TIMER event of the warp is pending and would be taken at this word (R373): the word does not issue. -/
def timerTaken (x : Warp) (clk : Nat) (handler : Bool) : Bool :=
  !handler && decide (x.cmp ≠ 0) && decide (x.cmp.toNat ≤ clk) && decide (x.splits.length = 1) &&
    x.splits.all (fun e => e.2.defer.isEmpty && decide (e.2.rets.length < 16))

/-- The slots of a queue that are occupied (R181). -/
def Queue.full (q : Queue) : Bool := decide (8 ≤ q.count)

/-- The engine class that counts a function (R209): CPY 0, GAT 1, STK 2, COL 3. -/
def engOf (f : Fn) : Option Nat :=
  match f with
  | .cpt | .cptm | .cpl | .cpw => some 0
  | .ldg | .qldg | .kldK | .kldV => some 1
  | .nmx | .nmxb | .nmxr | .nmxc => some 2
  | _ => if f.opc.toNat / 64 = 13 then some 3 else none

/-- Issuability of a word (R360), without the conditions of its own entry. The second word of a pair issues in the
clock of the first, whose issue its counters have gated (R54). -/
def Env.issuable (e : Env) : Bool :=
  let f := e.k.flags e.party
  let n := e.ctl.setf.toNat
  !e.s.stopped && e.k.mayIssue e.clk e.party e.slot e.handler && (e.s.second || decide (e.ready ≤ e.clk)) &&
    !e.waiting && e.held.isNone && e.bar.isNone && (e.s.second || waitOk f e.ctl.wait) &&
    !(e.st == .compute && timerTaken e.wp e.clk e.handler) &&
    (n == 0 || decide (12 < n) || e.s.second || decide (f.get n 0 < 63)) &&
    (match engOf e.fn with
     | some g => e.st == .matrix || decide (e.wp.eng.get g 0 < 255)
     | none => true) &&
    (e.st != .compute ||
      (wordQueues e.fn e.body).all (fun q => decide (11 < q) || !e.kernel.hasAccess e.w || e.wp.headReady q))

/-- What REG_RANGE depends on at this site. -/
def Env.limits (e : Env) : Limits :=
  { n := e.kernel.n, w := e.kernel.w, ntiles := e.kernel.ntiles, paramsz := e.kernel.paramsz,
    k1 := decide (e.kernel.k1base ≠ 0), acc := e.kernel.hasAccess e.w, warps := e.kernel.nwarps }

/-- The code of a register kind in TCAUSE's AUX (R368). -/
def RegKind.code (k : RegKind) : Nat :=
  match k with
  | .v => 0 | .s => 1 | .p => 2 | .a => 3 | .m => 4 | .tile => 5

/-- The tile that an array operation writes. -/
def ArrayOp.tile (o : ArrayOp) : Option Nat :=
  match o.fn, o.body with
  | .mma, .r w | .tzero, .r w => some w.d.toNat
  | _, _ => none

/-- Whether a register has a result in flight that a word with this WAIT must not touch (R52). Array operations are exempt among
themselves (log 90). -/
def Core.inFlight (k : Core) (p : Party) (wait : BitVec 12) (r : Reg) : Bool :=
  k.pends.any (fun x => x.wrs.any (fun y => y.reg == some r)) ||
    (p != .matrix && r.kind == .tile && k.array.any (fun o => o.tile == some r.idx)) ||
    k.ops.any (fun o => o.dests.contains r && o.stage != .done &&
      !(o.party == p && o.flag != 0 && wait.getLsbD (o.flag - 1)))

/-- SCHED_CHECK (R52): the first register of the word with a result in flight. -/
def schedTrap (k : Core) (kernel : Kernel) (p : Party) (wait : BitVec 12) (regs : List Reg) : Option Trap :=
  if kernel.check then
    match regs.find? (k.inFlight p wait) with
    | some r => some { cause := .schedCheck, aux := BitVec.ofNat 32 (r.kind.code + 16 * r.idx) }
    | none => none
  else none

/-! Taking an exception. -/

/-- The block of a core ended with a cause: no stream issues any more, and the block leaves once its outstanding
operations are complete (R362, R372). -/
def Core.failWith (k : Core) (c : Cause) : Core :=
  match k.block with
  | some b => if b.failed.isSome then k else { k with block := some { b with failed := some c } }
  | none => k

/-- The DONE mask of a trap at a word that is being retried is the retry's: a performed lane is never performed again (R154,
R247). -/
def Core.retryDone (k : Core) (p : Party) (slot : Nat) (pc : Word64) (t : Trap) : Trap :=
  match k.replays.find? (fun r => r.party == p && r.slot == slot && r.pc == pc && !r.kv) with
  | some r => { t with done := r.done }
  | none => t

/-- Whether the trap of a stream that is found now is taken: no trap stands, or one of the same clock that it precedes (R363). -/
def Core.takesNow (k : Core) (clk : Nat) (p : Party) : Bool :=
  match k.halt with
  | none => true
  | some h => decide (h.found = clk) && !h.entered && (h.trap.cause == .preempt || decide (partyRank p < partyRank h.party))

/-- A trap found at a word (R363, R364, R366): the halt begins with the clock in which it was found. A trap of a
skid word, or one found while a handler runs, takes no effect and is raised again later (R364, R429); of two found in
one clock, the first stream instance takes the trap; a trap of the handler's own words is DOUBLE_TRAP. -/
def raiseAt (s : State) (c : Nat) (p : Party) (slot : Nat) (pc : Word64) (handler : Bool) (rank : Nat) (t : Trap) :
    State :=
  let s := { s with raised := some ⟨rank, t⟩ }
  let s := if t.cause = .dataError ∧ t.aux = 0 ∧ (handler ∨ (s.core c).takesNow s.clk p) then s.noteError 3 c (some pc.toNat) else s
  if handler then s.onCore c (fun k => k.failWith .doubleTrap)
  else
    s.onCore c (fun k =>
      let new : Halt := { found := s.clk, party := p, slot, pair2 := s.second, pc, trap := k.retryDone p slot pc t }
      match k.halt with
      | none => { k with halt := some new, haltclk := s.clk }
      | some h =>
        if k.takesNow s.clk p then
          let stood := if h.trap.cause = .preempt then h.stood else (h.party, h.slot) :: h.stood
          { k with halt := some { new with stood }, haltclk := s.clk }
        else { k with halt := some { h with stood := if h.stood.contains (p, slot) then h.stood else (p, slot) :: h.stood } })

/-- A trap of a word. -/
def Env.raise (e : Env) (s : State) (rank : Nat) (t : Trap) : State :=
  raiseAt s e.c e.party e.slot e.pc e.handler rank t

/-- A trap with a cause and no further data. -/
def plain (c : Cause) : Trap := { cause := c }

/-- QUEUE_POISON or QUEUE_EMPTY of the forward queues that a word would pop, the lower-numbered queue first (R187,
R193). -/
def queueTrap (x : Warp) (qs : List Nat) : Option Trap :=
  let ordered := match qs with
    | [a, b] => if b < a then [b, a] else [a, b]
    | l => l
  match ordered.find? (fun q => (x.queue q).headSlot.st != .full) with
  | some q =>
    let h := (x.queue q).headSlot
    if h.st = .poison then
      some { cause := .queuePoison,
             pois := [h.record.apc, h.record.base, h.record.faddr, h.record.fmask, h.record.word.setWidth 64] }
    else some (plain .queueEmpty)
  | none => none

/-- An error waiting to be reported to a stream at a word whose WAIT names the failed operation's counter (R155,
R254). -/
def pendingTrap (ps : List Pending) (p : Party) (wait : BitVec 12) : Option Trap :=
  match ps.find? (fun x => x.party == p && x.flag != 0 && wait.getLsbD (x.flag - 1)) with
  | some x => some { cause := x.cause, aux := if x.cause = .windowFault then BitVec.ofNat 32 x.status else 0, addr := x.addr,
                     taux := x.pc }
  | none => none

/-- A failed window store of the stream instance that waits to be reported (R155). -/
def windowTrap (ps : List Pending) (p : Party) : Option Trap :=
  match ps.find? (fun x => x.party == p && x.cause == .windowFault) with
  | some x => some { cause := x.cause, aux := BitVec.ofNat 32 x.status, addr := x.addr, taux := x.pc }
  | none => none

/-- The functions that only a handler may run (R370); RTT.RPL keeps its own rule (R188). -/
def handlerOnly (f : Fn) : Bool :=
  [Fn.rtt, .rttNext, .rttEnd, .rttSaved, .ctxsv, .ctxld, .sysrd, .syswr, .scrub].contains f

/-- Ranks 2 and 3 of R55, which a word shows by itself. -/
def Env.wordTrap (e : Env) : Option (Nat × Cause) :=
  if !validIn e.st e.fn then some (2, .illegalOpcode)
  else if !formOk e.st e.fn e.body || !formLanes e.limits e.fn e.body then some (3, .illegalForm)
  else none

/-- Ranks 2 to 5 of R55, which the word and the kernel record decide. -/
def Env.formTrap (e : Env) : Option (Nat × Trap) :=
  match e.wordTrap with
  | some (r, c) => some (r, plain c)
  | none =>
    if e.ctl.pair && !e.s.pairing then some (4, plain .illegalPair)
    else if !rangeOk e.st e.limits e.fn e.body then some (5, plain .regRange)
    else none

/-- What stands first among an entry's own traps: PRIV_OP (R370), the forward queues (R187, R193), and what waits for a WAIT to
report, which the model ranks after them (log 114). -/
def Env.firstOwn (e : Env) : Option Trap :=
  if handlerOnly e.fn && !e.handler then some (plain .privOp)
  else
    match (if e.st = .compute then queueTrap e.wp (wordQueues e.fn e.body) else none) with
    | some t => some t
    | none => pendingTrap (if e.st = .matrix then e.k.mst.pendings else e.wp.pendings) e.party e.ctl.wait

/-- The traps that the state decides at issue: rank 6 of R55, then the first of the entry's own. -/
def Env.stateTrap (e : Env) : Option (Nat × Trap) :=
  match schedTrap e.k e.kernel e.party e.ctl.wait (wordRegs e.st e.w e.fn e.body) with
  | some t => some (6, t)
  | none => e.firstOwn.map (fun t => (7, t))

/-- The common traps of R55 that a decoded word can raise, ranks 2 to 6, then the traps that stand first among an
entry's own. -/
def Env.trap (e : Env) : Option (Nat × Trap) := e.formTrap.or e.stateTrap

/-! Issuing. -/

/-- The package with the pc and the distance of the issuing stream instance replaced. -/
def Env.goto (e : Env) (s : State) (pc : Word64) (ready : Nat) : State :=
  match e.st with
  | .access => s.onWarp e.c e.w (fun x => { x with acc := { x.acc with apc := pc, ready := ready } })
  | .matrix => s.onCore e.c (fun k => { k with mst := { k.mst with mpc := pc, ready := ready } })
  | _ =>
    if e.handler then
      s.onCore e.c (fun k => match k.halt with
        | some h => { k with halt := some { h with handler := h.handler.map (fun x => { x with pc := pc, ready := ready }) } }
        | none => k)
    else
      s.onWarp e.c e.w (fun x => match x.splits.find e.slot with
        | some p => { x with splits := x.splits.set e.slot { p with pc := pc, ready := ready } }
        | none => x)

/-- The package with the issuing split changed; nothing in handler mode and in the other streams. -/
def Env.onSplit (e : Env) (s : State) (f : Split → Split) : State :=
  if e.handler || e.st != .compute then s
  else s.onWarp e.c e.w (fun x => match x.splits.find e.slot with
    | some p => { x with splits := x.splits.set e.slot (f p) }
    | none => x)

/-- The stream instance held by an operation's checks or walk, or no longer held (R153, R251, R298). -/
def holdSite (s : State) (c : Nat) (p : Party) (slot : Nat) (handler : Bool) (h : Option Nat) : State :=
  match p with
  | .access w => s.onWarp c w (fun x => { x with acc := { x.acc with held := h } })
  | .matrix => s.onCore c (fun k => { k with mst := { k.mst with held := h } })
  | .compute w =>
    if handler then
      s.onCore c (fun k => match k.halt with
        | some t => { k with halt := some { t with handler := t.handler.map (fun x => { x with held := h }) } }
        | none => k)
    else
      s.onWarp c w (fun x => match x.splits.find slot with
        | some p => { x with splits := x.splits.set slot { p with held := h } }
        | none => x)

/-- The yielding mark of the issuing stream instance (R48, R361): YLD of the issued word, or of either word of a
pair. -/
def Env.yieldMark (e : Env) (s : State) : State :=
  match e.st with
  | .access => s.onWarp e.c e.w (fun x => { x with acc := { x.acc with ymark := e.ctl.yld } })
  | .matrix => s
  | _ => e.onSplit s (fun p => { p with ymark := e.ctl.yld || (e.s.second && p.ymark) })

/-- The constant index that a word reads through selector 0b11, for each of A and B. -/
def constReads (f : Fn) (b : Body) : List Nat :=
  let e := formOf f b
  let one (x : Fld) (sel idx : Nat) : List Nat :=
    match x with
    | .gen _ _ | .uni _ | .cst _ | .base | .idx | .ua _ => if sel = 3 then [idx] else []
    | _ => []
  match b with
  | .r w => one e.a w.asel w.a.toNat ++ one e.b w.bsel w.b.toNat
  | _ => []

/-- A word issued in the skid clocks is counted for its stream instance (R364). -/
def Core.countSkid (k : Core) (clk : Nat) (p : Party) : Core :=
  match k.halt with
  | some h =>
    if h.found < clk ∧ ¬ h.entered then
      { k with halt := some { h with skid := h.skid.put (partyRank p) (h.skid.get (partyRank p) 0 + 1) 0 } }
    else k
  | none => k

/-- The registers of a source operand whose tags are checked: vector registers and a queue's head entry (R80, R82). -/
def Env.sources (e : Env) (f : Fld) (sel i : Nat) : List VReg :=
  match f with
  | .gen _ wide =>
    match sel with
    | 0 => if wide then [e.wp.vreg i, e.wp.vreg (i + 1)] else [e.wp.vreg i]
    | 2 => [(e.wp.queue i).headSlot.reg]
    | _ => []
  | .v wide => if wide then [e.wp.vreg i, e.wp.vreg (i + 1)] else [e.wp.vreg i]
  | .vn n => (List.range n).map (fun j => e.wp.vreg (i + j))
  | .va wide => if e.st = .access then [] else if wide then [e.wp.vreg i, e.wp.vreg (i + 1)] else [e.wp.vreg i]
  | .v4 => (List.range 4).map (fun j => e.wp.vreg (i + j))
  | .base => if e.st = .access then [] else if sel = 0 then [e.wp.vreg i, e.wp.vreg (i + 1)] else []
  | .idx => if e.st = .access then [] else if sel = 0 then [e.wp.vreg i] else []
  | _ => []

/-- The registers of A, B and D. -/
def Env.sourcesA (e : Env) : List VReg :=
  match e.body with
  | .r w => e.sources (formOf e.fn e.body).a w.asel w.a.toNat
  | .i w => e.sources (formOf e.fn e.body).a 0 w.a.toNat
  | .event => []
def Env.sourcesB (e : Env) : List VReg :=
  match e.body with
  | .r w => e.sources (formOf e.fn e.body).b w.bsel w.b.toNat
  | _ => []
def Env.sourcesD (e : Env) : List VReg :=
  match e.body with
  | .r w => e.sources (formOf e.fn e.body).d 0 w.d.toNat
  | .i w => e.sources (formOf e.fn e.body).d 0 w.d.toNat
  | .event => []

/-- Whether a word reads a register that a storage error has poisoned. One that issues has read it in a lane that is not active or in
a half that it does not use (R375). -/
def Env.latent (e : Env) : Bool :=
  (e.sourcesA ++ e.sourcesB ++ if (formOf e.fn e.body).dRead then e.sourcesD else []).any (fun r => r.bad.any (fun m => !m.2.load))

/-- Issuing a word (R46 to R48, R56, R361): its forward queues are popped, its counter rises, its stream steps to the
next word with its distance and yielding mark; a read of CLKLO or TODLO latches the high half (R41); a latent error is noted (R375). -/
def Env.issued (e : Env) : State :=
  let lats := if e.act = 0 then [] else constReads e.fn e.body
  let s := if lats.isEmpty then e.s else { e.s with fresh := e.s.fresh + 1 }
  let s := if e.st = .matrix then s else s.onWarp e.c e.w (fun x =>
    let qs := if e.st = .compute then wordQueues e.fn e.body else []
    let x := qs.foldl (fun x q => { x with queues := x.queues.put q (x.queue q).pop {} }) x
    let x := if qs.isEmpty then x else { x with acc := { x.acc with slipCount := x.acc.slipCount - qs.length } }
    let x := if lats.contains 0x210 then { x with clkhi := BitVec.ofNat 32 (e.clk / 2 ^ 32) } else x
    if lats.contains 0x212 then { x with todhi := BitVec.ofNat 32 (e.s.todns / 2 ^ 32) } else x)
  let s := s.onCore e.c (fun k =>
    let k := k.flagUp e.party e.ctl.setf.toNat
    if e.handler then k else k.countSkid e.clk e.party)
  let s := if e.latent then s.noteError 2 e.c (some e.pc.toNat) else s
  e.goto (e.yieldMark s) (e.pc + 12) (e.clk + 1 + e.ctl.stall.toNat)

/-- The end of a fixed-latency word (R47, R50): its results land and its counter falls at the end of its latency. -/
def Env.retire (e : Env) (s : State) (lat : Nat) (wrs : List Wr) : State :=
  let s := s.onCore e.c (fun k =>
    { k with pends := k.pends ++ [{ due := e.clk + lat, party := e.party, flag := e.ctl.setf.toNat, wrs }] })
  e.onSplit s (fun p => { p with landed := max p.landed (e.clk + lat) })

/-- What one word does beyond the common part: a trap of its own, or the package after it, from the package in
which it has issued. -/
abbrev Meaning := Env → State → Except Trap State

/-- Running a word of a core's streams: nothing while it is not issuable, by R360 or, for a word that R55 does not refuse, by a
condition of its own entry (R182, R199, R202); the first of its traps, precisely; or its issue and its effect. -/
def runWhen (fn : Fn) (body : Body) (cond : Env → Bool) (k : Meaning) (s : State) : Host.Outcome State Fault Refusal :=
  match envOf s fn body with
  | none => .next s
  | some e =>
    if !e.issuable || (e.formTrap.isNone && !cond e) then .next s
    else
      match e.trap with
      | some (rank, t) => done (e.raise s rank t)
      | none =>
          match k e e.issued with
          | .error t => done (e.raise s 7 t)
          | .ok s' => done s'

/-- Running a word whose entry adds no condition to R360. -/
def runWord (fn : Fn) (body : Body) (k : Meaning) (s : State) : Host.Outcome State Fault Refusal :=
  runWhen fn body (fun _ => true) k s

/-- A meaning that acts only when a lane is active: with none the word issues and completes at t + 1 and does nothing
else (R45, R47). -/
def whenActive (k : Meaning) : Meaning := fun e s => if e.act = 0 then .ok (e.retire s 1 []) else k e s

/-- A word of fixed latency: `check` finds its own traps, `wrs` its results. -/
def runFixed (fn : Fn) (body : Body) (lat : Env → Nat) (check : Env → Option Trap) (wrs : Env → List Wr) (s : State) :
    Host.Outcome State Fault Refusal :=
  runWord fn body (whenActive (fun e s =>
    match check e with
    | some t => .error t
    | none => .ok (e.retire s (lat e) (wrs e)))) s

/-- A new operation in flight of a word, and the package that holds it (R47, R151). -/
def Env.launchOp (e : Env) (s : State) (stage : Stage) (f : Op → Op) : State :=
  let o : Op := f { id := s.opId, party := e.party, slot := e.slot, handler := e.handler, fn := e.fn, body := e.body,
                    pc := e.pc, since := e.clk, born := s.ref, flag := e.ctl.setf.toNat, stage, lanes := e.act,
                    regions := s.heldList (clusterOf e.c), eng := if e.st = .matrix then none else engOf e.fn }
  ({ s with opId := s.opId + 1 }).onCore e.c (fun k =>
    let k := { k with ops := k.ops ++ [o], lastOp := o.id + 1 }
    match o.eng with
    | some g => let x := k.warp e.w; k.setWarp e.w { x with eng := x.eng.put g (x.eng.get g 0 + 1) 0 }
    | none => k)

/-- A word of variable latency that captures its operands at issue: its effect takes place at its completion. -/
def runVariable (fn : Fn) (body : Body) (check : Env → Option Trap) (f : Env → Op → Op) (s : State) :
    Host.Outcome State Fault Refusal :=
  runWord fn body (whenActive (fun e s =>
    match check e with
    | some t => .error t
    | none => .ok (e.launchOp s .go (f e)))) s

/-- A word of variable latency that also acts on the package at issue, under the number of its operation. -/
def runVariableThen (fn : Fn) (body : Body) (check : Env → Option Trap) (f : Env → Op → Op) (g : Env → Nat → State → State)
    (s : State) : Host.Outcome State Fault Refusal :=
  runWord fn body (whenActive (fun e s =>
    match check e with
    | some t => .error t
    | none => .ok (g e s.opId (e.launchOp s .go (f e))))) s

/-- An operation in flight. -/
def Core.findOp (k : Core) (id : Nat) : Option Op := k.ops.find? (fun o => o.id == id)

/-- The package with an operation changed. -/
def State.setOp (s : State) (c : Nat) (o : Op) : State :=
  s.onCore c (fun k => { k with ops := k.ops.map (fun x => if x.id = o.id then o else x) })

/-- An operation's wait for a MIGRATING page begins, unless it has begun (R395). -/
def State.noteWait (s : State) (c : Nat) (o : Op) (page : Nat) : State :=
  if (o.waits.find page).isSome then s else s.setOp c { o with waits := o.waits.set page s.ref }

/-- Whether a wait has lasted 200 µs. -/
def State.waitOver (s : State) (o : Op) (page : Nat) : Bool :=
  match o.waits.find page with
  | some t => decide (t + ticksOf 200 ≤ s.ref)
  | none => false

/-- Engine-class operations of one stream instance that have completed retire in issue order, and their counters
fall (R209): the completed operations with no earlier uncompleted one of the same counter. -/
def Core.retireEngine (k : Core) (w cls : Nat) : List Op → Core
  | [] => k
  | o :: os =>
    if o.eng = some cls ∧ (o.party = .compute w ∨ o.party = .access w) then
      if o.stage = .done then
        let k := { k with ops := k.ops.filter (fun x => x.id != o.id) }
        let x := k.warp w
        (k.setWarp w { x with eng := x.eng.put cls (x.eng.get cls 0 - 1) 0 }).retireEngine w cls os
      else k
    else k.retireEngine w cls os

/-- The warp of a stream instance, 0 for the matrix stream. -/
def partyWarp (p : Party) : Nat :=
  match p with
  | .compute w => w
  | .access w => w
  | .matrix => 0

/-- Whether a write sets sticky bits of FLAGS. -/
def Wr.sticky (x : Wr) : Bool :=
  match x with
  | .flagsOr _ _ => true
  | _ => false

/-- The results of an operation land: its sticky bits of FLAGS at the end of the clock, after the writes of FLAGS that take effect
then (R130). -/
def Core.landAll (k : Core) (clk : Nat) (p : Party) (wrs : List Wr) : Core :=
  let k := (wrs.filter (fun x => !x.sticky)).foldl Core.land k
  let sticky := wrs.filter Wr.sticky
  if sticky.isEmpty then k else { k with pends := k.pends ++ [{ due := clk + 1, party := p, flag := 0, wrs := sticky }] }

/-- The completion of an operation: its results land, its flag falls; an engine-class operation retires when those
before it have (R47, R209). Sticky bits of FLAGS land at the end of the clock, after the writes of FLAGS that take effect then
(R130). -/
def completeOp (s : State) (c : Nat) (o : Op) (wrs : List Wr) : State :=
  s.onCore c (fun k =>
    let k := (k.landAll s.clk o.party wrs).flagDown o.party o.flag
    match o.eng with
    | none => { k with ops := k.ops.filter (fun x => x.id != o.id) }
    | some cls =>
      let k := { k with ops := k.ops.map (fun (x : Op) => if x.id = o.id then { o with stage := .done } else x) }
      k.retireEngine (partyWarp o.party) cls k.ops)

/-! The handler. -/

/-- A system register of R367 held by the block. -/
def Core.sysReg (k : Core) (i : Nat) : Word64 := k.sys.get i 0

/-- Writing system registers, given as index and value. -/
def Core.putSys (k : Core) (xs : List (Nat × Word64)) : Core :=
  { k with sys := xs.foldl (fun m e => m.put e.1 e.2 0) k.sys }

/-- The stream code of TCAUSE (R368). -/
def streamCode (h : Halt) : Nat :=
  if h.trap.cause = .preempt ∨ h.trap.cause = .resume then 3
  else match h.party with
    | .compute _ => 0
    | .access _ => 1
    | .matrix => 2

/-- TCAUSE (R368) for handler warp `hw`. -/
def tcause (h : Halt) (hw : Nat) : Word64 :=
  let async := h.trap.cause == .preempt || h.trap.cause == .resume
  let warp := if async then 0 else partyWarp h.party
  let slot := match h.party with
    | .compute _ => if async then 0 else h.slot
    | _ => 0
  BitVec.ofNat 64 (h.trap.cause.code * 2 ^ 56 + streamCode h * 2 ^ 50 + warp * 2 ^ 45 + slot * 2 ^ 43 +
    (if h.pair2 then 2 ^ 42 else 0) + hw * 2 ^ 37 + h.trap.aux.toNat)

/-- The handler warp of R365: none where no handler can run. -/
def handlerWarp (k : Core) (h : Halt) : Option Nat :=
  let n := k.kernel.nwarps
  let alive (w : Nat) : Bool := decide (w < n) && (k.warp w).live != 0
  if h.trap.cause = .resume then some 0
  else if h.trap.cause = .preempt then (List.range n).find? alive
  else match h.party with
    | .compute w => if alive w then some w else none
    | .access w => if alive w then some w else none
    | .matrix => (List.range n).find? alive

/-- Skid counts of sixteen stream instances from `lo`, four bits each (R367). -/
def skidWord (m : FMap Nat) (lo : Nat) : Word64 :=
  BitVec.ofNat 64 ((List.range 16).foldl (fun acc i => acc + (m.get (lo + i) 0 % 16) * 16 ^ i) 0)

/-- The shadow of two S registers (R367). -/
def shadowPair (x : Warp) (i : Nat) : Word64 := (x.s.get (249 + 2 * i) 0) ++ (x.s.get (248 + 2 * i) 0)

/-- The trap state that the entry into a handler writes (R365, R367, R368). -/
def trapState (k : Core) (h : Halt) (hw : Nat) : List (Nat × Word64) :=
  let x := k.warp hw
  let async := h.trap.cause == .preempt || h.trap.cause == .resume
  [(0x000, tcause h hw), (0x001, if async then 0 else h.pc), (0x002, h.trap.addr), (0x003, h.trap.fmask),
   (0x004, h.trap.done), (0x005, h.trap.taux)] ++
  (List.range 5).map (fun i => (0x008 + i, (h.trap.pois[i]?).getD 0)) ++
  [(0x00E, h.trap.kvprog.setWidth 64), (0x00F, (h.trap.kvprog >>> 64).setWidth 64)] ++
  (List.range 4).map (fun i => (0x010 + i, shadowPair x i)) ++
  [(0x014, x.p.get 13 0), (0x015, x.p.get 14 0), (0x016, x.flags.setWidth 64),
   (0x020, skidWord h.skid 0), (0x021, skidWord h.skid 16), (0x022, skidWord h.skid 32), (0x023, skidWord h.skid 48),
   (0x024, BitVec.ofNat 64 (h.skid.get 64 0))]

/-- The lanes of the handler split (R365): the trapping split's M for a compute stream, else every lane of the warp that
has not exited. -/
def handlerLanes (k : Core) (h : Halt) (hw : Nat) : Lanes :=
  let all := (k.warp hw).live
  if h.trap.cause = .preempt ∨ h.trap.cause = .resume then all
  else match h.party with
    | .compute w => match (k.warp w).splits.find h.slot with
      | some p => p.m
      | none => all
    | _ => all

/-- An error that waited to be reported is no longer pending once its trap has been taken (R155, R234, R254), and a tag's
record holds that its COPY_FAULT has been raised (R208). -/
def Core.clearPending (k : Core) (h : Halt) : Core :=
  let rest (ps : List Pending) : List Pending :=
    match ps.find? (fun x => x.cause == h.trap.cause && x.pc == h.trap.taux && x.addr == h.trap.addr) with
    | some x => ps.erase x
    | none => ps
  if h.trap.cause = .windowFault ∨ h.trap.cause = .kvData ∨ h.trap.cause = .mtxData then
    match h.party with
    | .matrix => { k with mst := { k.mst with pendings := rest k.mst.pendings } }
    | p => k.setWarp (partyWarp p) { k.warp (partyWarp p) with pendings := rest (k.warp (partyWarp p)).pendings }
  else if h.trap.cause = .copyFault then
    { k with tagrec := k.tagrec.put h.trap.aux.toNat { k.tagrec.get h.trap.aux.toNat {} with reported := true } {} }
  else k

/-- Taking an exception (R364, R365): with a handler and a warp to run it on, the trap state and the shadows are
written and the handler split starts at HANDLER in handler mode; otherwise the block ends with the cause. A pre-emption
for which no handler can run is left to the hardware save (R365). -/
def enterHandler (s : State) (c : Nat) : State :=
  let k := s.core c
  match k.block, k.halt with
  | some b, some h =>
    if h.entered ∨ h.save ∨ s.clk < h.found + 5 then s
    else
      let k := k.clearPending h
      let hpc := (s.ctx b.asid).handler
      match handlerWarp k h with
      | some hw =>
        if hpc = 0 then
          (if h.trap.cause = .preempt then s.setCore c { k with halt := some { h with save := true, entered := true } }
           else s.setCore c (({ k with halt := some { h with entered := true } }).failWith h.trap.cause))
        else
          let hs : HSplit := { warp := hw, pc := hpc, m := handlerLanes k h hw, ready := s.clk }
          let k := k.putSys (trapState k h hw)
          s.setCore c { k with halt := some { h with entered := true, handler := some hs } }
      | none =>
        if h.trap.cause = .preempt then s.setCore c { k with halt := some { h with save := true, entered := true } }
        else s.setCore c (({ k with halt := some { h with entered := true } }).failWith h.trap.cause)
  | _, _ => s

/-- The shadows written back into the handler warp (R372). -/
def Core.unshadow (k : Core) (hw : Nat) : Core :=
  let x := k.warp hw
  let s := (List.range 4).foldl (fun m i =>
    (m.put (248 + 2 * i) ((k.sysReg (0x010 + i)).setWidth 32) 0).put (249 + 2 * i)
      ((k.sysReg (0x010 + i) >>> 32).setWidth 32) 0) x.s
  let all := lowLanes k.kernel.w
  let p := (x.p.put 13 (k.sysReg 0x014 &&& all) 0).put 14 (k.sysReg 0x015 &&& all) 0
  k.setWarp hw { x with s, p, flags := (k.sysReg 0x016).setWidth 32 &&& flagsMask }

/-- The end of a halt (R372): the shadows are written back, the handler split is discarded and every instance resumes.
If a pre-emption is outstanding the block is then saved by hardware at once. -/
def endHalt (s : State) (c : Nat) : State :=
  s.onCore c (fun k =>
    match k.halt with
    | some h =>
      match h.handler with
      | some x =>
        let k := k.unshadow x.warp
        match k.preempt with
        | some _ =>
          { k with halt := some { found := s.clk, party := .matrix, trap := plain .preempt, entered := true, save := true } }
        | none => { k with halt := none }
      | none => k
    | none => k)

end Sys2Proof.Machine
end

