-- ==== Sys2Proof/Machine/Operands.lean ====
section
/-! DEFINITION. The operands of compute words: what each selector reads in each lane (R38 to R41, R44, R114), the tag
checks (R82) and poison checks (R375) of a word's sources, and the results of a word. -/

namespace Sys2Proof.Machine

/-- The lanes of a warp of width W. -/
def Env.lanes (e : Env) : List Nat := List.range e.width

/-- The active lanes, rising. -/
def Env.active (e : Env) : List Nat := e.lanes.filter (fun l => e.act.getLsbD l)

/-- A special register (R41): `l` is the lane that reads. The matrix stream belongs to no warp: the registers that are
a warp's have no value there that the spec states, and read as free values (log 10). -/
def Env.special (e : Env) (i l : Nat) : Nat :=
  let b := e.blk
  let own (x : Nat) : Nat := if e.st = .matrix then (Config.freeBank e.s.fresh (0x200 + i)).toNat else x
  match i with
  | 0x00 => l
  | 0x01 => own e.w
  | 0x02 => b.kernel.nwarps
  | 0x03 => b.kernel.w
  | 0x04 => own (e.w % 4)
  | 0x05 => e.c
  | 0x06 => e.c / 2
  | 0x07 => e.c / 4
  | 0x08 => b.blk.1
  | 0x09 => b.blk.2.1
  | 0x0A => b.blk.2.2
  | 0x0B => b.grd.1
  | 0x0C => b.grd.2.1
  | 0x0D => b.grd.2.2
  | 0x0E => bits e.s.podcfg.toNat 7 0
  | 0x0F => b.launch % 2 ^ 32
  | 0x10 => e.clk % 2 ^ 32
  | 0x11 => own e.wp.clkhi.toNat
  | 0x12 => e.s.todns % 2 ^ 32
  | 0x13 => own e.wp.todhi.toNat
  | 0x14 => b.kernel.smallg
  | _ => own e.wp.acc.slip

/-- One word that selector 0b11 names (R40). -/
def Env.const (e : Env) (i l : Nat) : Nat :=
  if i < 0x100 then (e.s.bankWord e.blk.asid e.kernel.k0base i).toNat
  else if i < 0x200 then (e.s.bankWord e.blk.asid e.kernel.k1base (i - 0x100)).toNat
  else e.special (i - 0x200) l

/-- A constant operand, a pair of words when it is wide; a special register is zero-extended (R114). -/
def Env.constOperand (e : Env) (wide : Bool) (i l : Nat) : Nat :=
  if wide ∧ i < 0x200 then e.const i l + 2 ^ 32 * e.const (i + 1) l else e.const i l

/-- A vector register's lane as a number, or a pair's (R39). -/
def Warp.lane (x : Warp) (wide : Bool) (r l : Nat) : Nat :=
  if wide then ((x.vreg r).lane l).toNat + 2 ^ 32 * ((x.vreg (r + 1)).lane l).toNat else ((x.vreg r).lane l).toNat

/-- A uniform register, or an even pair (R114). -/
def Warp.sreg (x : Warp) (wide : Bool) (r : Nat) : Nat :=
  if wide then (x.s.get r 0).toNat + 2 ^ 32 * (x.s.get (r + 1) 0).toNat else (x.s.get r 0).toNat

/-- An A register, and an M register or an even pair (R177, R212). -/
def Warp.areg (x : Warp) (i : Nat) : Nat := (x.acc.a.get i 0).toNat
def Core.mreg (k : Core) (wide : Bool) (i : Nat) : Nat :=
  if wide then (k.mst.m.get i 0).toNat + 2 ^ 32 * (k.mst.m.get (i + 1) 0).toNat else (k.mst.m.get i 0).toNat

/-- A source operand in a lane, by selector (R38); in the access stream selector 0b00 names an A register (R177), in the
matrix stream an M register (R212). -/
def Env.src (e : Env) (wide : Bool) (sel i l : Nat) : Nat :=
  match e.st, sel with
  | .access, 0 => if wide then e.wp.areg i else e.wp.areg i % 2 ^ 32
  | .matrix, 0 => e.k.mreg wide i
  | _, 0 => e.wp.lane wide i l
  | _, 1 => e.wp.sreg wide i
  | _, 2 => ((e.wp.queue i).headSlot.reg.lane l).toNat
  | _, _ => e.constOperand wide i l

/-- The R-form and I-form bodies of the word. -/
def Env.rw (e : Env) : RWord := match e.body with
  | .r w => w
  | _ => default
def Env.iw (e : Env) : IWord := match e.body with
  | .i w => w
  | _ => default

/-- A in a lane. -/
def Env.srcA (e : Env) (wide : Bool) (l : Nat) : Nat := e.src wide e.rw.asel e.rw.a.toNat l

/-- B in a lane. -/
def Env.srcB (e : Env) (wide : Bool) (l : Nat) : Nat := e.src wide e.rw.bsel e.rw.b.toNat l

/-- D read as a source in a lane. -/
def Env.srcD (e : Env) (wide : Bool) (l : Nat) : Nat := e.wp.lane wide e.rw.d.toNat l

/-- IMM32 as the second source of an integer TYPE (R44): reduced to the type's width, sign-extended for I64 and
zero-extended for N64. -/
def immInt (imm : BitVec 32) (ty : Nat) : Nat :=
  if ty = 6 then (imm.signExtend 64).toNat else imm.toNat % 2 ^ tyWidth ty

/-- IMM32 for a float TYPE (R44, R126): F32 as it stands; F16 and BF16 rounded from F32 by RN, in both elements. -/
def immFloat (imm : BitVec 32) (ty : Nat) : Nat :=
  if ty = 9 ∨ ty = 10 then
    let x := (deliver (fmtOf ty) .rn false false (decodeF (fmtOf 8) imm.toNat)).1
    x + 2 ^ 16 * x
  else if tyWidth ty = 8 then imm.toNat % 2 ^ 8
  else imm.toNat

/-- The results of a vector destination: one value for each active lane, under a tag; a 64-bit value fills the pair
(R39, R81). -/
def Env.vecWr (e : Env) (wide : Bool) (d : Nat) (tag : BitVec 4) (f : Nat → Nat) : List Wr :=
  let vals := e.active.map (fun l => (l, f l))
  let lo : Wr := .v e.w d (vals.map (fun x => (x.1, BitVec.ofNat 32 x.2))) tag
  if wide then [lo, .v e.w (d + 1) (vals.map (fun x => (x.1, BitVec.ofNat 32 (x.2 / 2 ^ 32)))) tag] else [lo]

/-- The result of a uniform destination, a pair when it is wide. -/
def Env.uniWr (e : Env) (wide : Bool) (d : Nat) (x : Nat) : List Wr :=
  let lo : Wr := .s e.w d (BitVec.ofNat 32 x)
  if wide then [lo, .s e.w (d + 1) (BitVec.ofNat 32 (x / 2 ^ 32))] else [lo]

/-- The result of a predicate destination in the active lanes (R98). -/
def Env.predWr (e : Env) (d : Nat) (f : Nat → Bool) : List Wr := [.p e.w d e.act (maskOf 64 e.width f)]

/-- Sticky bits to set with the results, when there are any (R50, R128). -/
def Env.flagWr (e : Env) (fl : Nat) : List Wr := if fl = 0 then [] else [.flagsOr e.w (BitVec.ofNat 32 fl)]

/-- The union of the flags that the active lanes raise. -/
def Env.lanesFlags (e : Env) (f : Nat → Nat) : Nat := e.active.foldl (fun acc l => acc ||| f l) 0

/-! Tags and poison. -/

/-- One tag check (R82): the first register whose tag is neither RAW nor the expected one. -/
def tagTrap (pos : Nat) (want : BitVec 4) (rs : List VReg) : Option Trap :=
  match rs.find? (fun r => r.tag != 0 && r.tag != want) with
  | some r =>
    some { cause := .formatMismatch, aux := BitVec.ofNat 32 (pos + 16 * want.toNat + 256 * r.tag.toNat) }
  | none => none

/-- DATA_ERROR (R375, R155): an active lane reads a poisoned half that the instruction uses; `halves` has bit 0 for the
low halves and bit 1 for the high halves. A poisoned load's mark names the load. DESIGN CHOICE (log 124): the mark's fabric
status goes nowhere, since R368 gives DATA_ERROR no field for it. -/
def badTrap (act : Lanes) (halves : Nat) (rs : List VReg) : Option Trap :=
  let hit (r : VReg) : Option (Nat × BadMark) :=
    r.bad.find? (fun e => act.getLsbD (e.1 / 2) && halves.testBit (e.1 % 2))
  match rs.findSome? hit with
  | some (_, m) =>
    some (if m.load then { cause := .dataError, aux := 1, addr := m.addr, taux := m.pc } else plain .dataError)
  | none => none

/-- The first trap of a list of checks. -/
def firstTrap (xs : List (Option Trap)) : Option Trap := xs.findSome? (fun x => x)

/-- The poison checks of a word's sources, D among them where it is read. -/
def Env.badCheck (e : Env) : Option Trap :=
  firstTrap [badTrap e.act 3 e.sourcesA, badTrap e.act 3 e.sourcesB,
    if (formOf e.fn e.body).dRead then badTrap e.act 3 e.sourcesD else none]

/-- The tag and poison checks of a word whose sources are all read in one type. -/
def Env.typeCheck (e : Env) (tag : BitVec 4) : Option Trap :=
  firstTrap [if (formOf e.fn e.body).dRead then tagTrap 0 tag e.sourcesD else none, tagTrap 1 tag e.sourcesA,
    tagTrap 2 tag e.sourcesB, e.badCheck]

end Sys2Proof.Machine
end

