-- ==== Sys2Proof/Machine/StackOps.lean ====
section
/-! DEFINITION. What every instruction of the stack profile shares (R59, R125, R263, R266, R267): the site of a word in a
stack core, its issuability, its traps, and the end of a command or kernel. The stack core interlocks on its
register results, so results land with their instruction. -/

namespace Sys2Proof.Machine

/-- The key of stack core (g, k). -/
def scKey (g k : Nat) : Nat := 64 * g + k

/-- A stack core of the package, and the package with it replaced or changed. -/
def State.sc (s : State) (g k : Nat) : SCore := s.scores.get (scKey g k) {}
def State.setSc (s : State) (g k : Nat) (x : SCore) : State := { s with scores := s.scores.put (scKey g k) x {} }
def State.onSc (s : State) (g k : Nat) (f : SCore → SCore) : State := s.setSc g k (f (s.sc g k))

/-- The site of a word in a stack core. -/
structure SEnv where
  g : Nat
  k : Nat
  sc : SCore
  act : Bool
  fn : Fn
  body : Body
  ctl : Ctl
  s : State
  deriving Inhabited

/-- Bits of SFLAGS from the bits of FLAGS (R129, R263): NV 4, OF 6, UF 7, NX 8, SAT 9, QSAT 10. -/
def sflagBits (fl : Nat) : Nat :=
  let one (b dst : Nat) : Nat := if fl.testBit b then 2 ^ dst else 0
  one 0 4 + one 2 6 + one 3 7 + one 4 8 + one 5 9 + one 6 10

/-- The guard of the stack profile (R59): a condition bit, or always; G[4] negates. -/
def sguard (x : SCore) (g : BitVec 5) : Bool :=
  let i := g.toNat % 16
  let p := if i = 15 then true else x.sflags.getLsbD i
  if g.getLsbD 4 then !p else p

/-- The site of the running word in a stack core. -/
def senvOf (s : State) (fn : Fn) (body : Body) : Option SEnv :=
  match s.actor with
  | .stackCore g k =>
    let sc := s.sc g k
    let ctl := ctlOfBody body
    some { g, k, sc, act := sguard sc ctl.g, fn, body, ctl, s }
  | _ => none

/-- An X register. -/
def SCore.xreg (x : SCore) (i : Nat) : Word64 := x.x.get i 0
def SCore.setX (x : SCore) (i : Nat) (v : Word64) : SCore := { x with x := x.x.put i v 0 }

/-- A lane of a Z register, and a Z register from its lanes (R274). -/
def SCore.zreg (x : SCore) (i : Nat) : BitVec 512 := x.z.get i 0
def zLane (z : BitVec 512) (i : Nat) : Nat := (z.extractLsb' (16 * i) 16).toNat
def zOf (f : Nat → Nat) : BitVec 512 :=
  BitVec.ofNat 512 ((List.range 32).foldl (fun acc i => acc + (f i % 2 ^ 16) * 2 ^ (16 * i)) 0)
def SCore.setZ (x : SCore) (i : Nat) (v : BitVec 512) : SCore := { x with z := x.z.put i v 0 }

/-- Sticky bits set in SFLAGS (R263). -/
def SCore.addSticky (x : SCore) (fl : Nat) : SCore := { x with sflags := x.sflags ||| BitVec.ofNat 32 (sflagBits fl) }

/-- The status code of a trap in the stack profile (R266). -/
def stackStatus (c : Cause) : Nat :=
  match c with
  | .illegalOpcode => 0x90
  | .illegalForm => 0x91
  | .illegalPair => 0x92
  | .regRange => 0x93
  | .alignFault => 0x94
  | .scratchRange => 0x95
  | .callDepth => 0x97
  | .retEmpty => 0x98
  | .fetchFault => 0x99
  | .dataError => 0x9A
  | .trap => 0x9B
  | _ => 0x96

/-- NEAR_RANGE (R260, R266); it has no code in R362, so the stack profile names it by its status. -/
def nearRange : Nat := 0x96

/-- The end of the running command or kernel with a status and a result (R266, R267, R269): of a command, the PC of the instruction
that ended it, the sticky bits and the status are kept for the status word; of a kernel, the PC for its launch. The stack core reports once
its bank DMAs have completed. -/
def SCore.finish (x : SCore) (status pc : Nat) (result : Word64) : SCore :=
  match x.job with
  | .kernel _ => { x with ending := some status, result := result, kpc := pc, stopping := false }
  | _ => { x with ending := some status, result := result, lastPc := pc, sticky := bits x.sflags.toNat 10 4, code := status }

/-- The selector 0b11 values of the stack profile (R262). -/
def SEnv.const (e : SEnv) (i : Nat) : Nat :=
  match i with
  | 0x200 => e.k
  | 0x201 => e.g
  | 0x202 => e.s.sclk
  | 0x203 => e.sc.nwbase
  | 0x204 => e.sc.nwlim
  | _ => match e.sc.job with
    | .command c => 1 + 256 * c.core
    | _ => 0

/-- A general source of the stack profile (R59, R262). -/
def SEnv.src (e : SEnv) (sel i : Nat) : Nat := if sel = 3 then e.const i else (e.sc.xreg i).toNat

/-- The R-form and I-form bodies of the word. -/
def SEnv.rw (e : SEnv) : RWord := match e.body with
  | .r w => w
  | _ => default
def SEnv.iw (e : SEnv) : IWord := match e.body with
  | .i w => w
  | _ => default

/-- A running stack core issues when its distance has elapsed and the counters that WAIT names are 0 (R59). -/
def SEnv.issuable (e : SEnv) : Bool :=
  !e.s.stopped && e.sc.job != .idle && e.sc.ending.isNone && !e.sc.stopping && decide (e.sc.ready ≤ e.s.sclk) &&
    waitOk e.sc.f e.ctl.wait &&
    (e.ctl.setf == 0 || decide (12 < e.ctl.setf.toNat) || decide (e.sc.f.get e.ctl.setf.toNat 0 < 63))

/-- What the limits of R55 are in a stack core. -/
def stackLimits : Limits := { n := 0, w := 64, ntiles := 0, paramsz := 0, k1 := false, acc := false, warps := 0 }

/-- The common traps of R55 in the stack profile (R59). -/
def SEnv.trap (e : SEnv) : Option Nat :=
  if !validIn .stack e.fn then some (stackStatus .illegalOpcode)
  else if !formOk .stack e.fn e.body then some (stackStatus .illegalForm)
  else if e.ctl.pair then some (stackStatus .illegalPair)
  else if !rangeOk .stack stackLimits e.fn e.body then some (stackStatus .regRange)
  else none

/-- The stack core after the word has issued: at the next word, with its distance. -/
def SEnv.issued (e : SEnv) : SCore := { e.sc with pc := e.sc.pc + 12, ready := e.s.sclk + 1 + e.ctl.stall.toNat }

/-- Running a word of the stack profile: nothing while it is not issuable, by R59 or by a condition of its entry; a trap ends
the command or kernel with its status (R266); a false guard only steps to the next word (R45). `k` gives a status to end
with, or the package. -/
def runStackWhen (fn : Fn) (body : Body) (cond : SEnv → Bool) (k : SEnv → SCore → Except Nat State) (s : State) :
    Host.Outcome State Fault Refusal :=
  match senvOf s fn body with
  | none => .next s
  | some e =>
    if !e.issuable || (e.trap.isNone && e.act && !cond e) then .next s
    else
      match e.trap with
      | some st => done (s.setSc e.g e.k (e.sc.finish st e.sc.pc 0))
      | none =>
        if !e.act then done (s.setSc e.g e.k e.issued)
        else
          match k e e.issued with
          | .error st => done (s.setSc e.g e.k (e.sc.finish st e.sc.pc 0))
          | .ok s' => done s'

/-- Running a word whose entry adds no condition. -/
def runStack (fn : Fn) (body : Body) (k : SEnv → SCore → Except Nat State) (s : State) :
    Host.Outcome State Fault Refusal := runStackWhen fn body (fun _ => true) k s

/-- A word that changes only its own stack core. -/
def runStackCore (fn : Fn) (body : Body) (k : SEnv → SCore → Except Nat SCore) (s : State) :
    Host.Outcome State Fault Refusal :=
  runStack fn body (fun e x => match k e x with
    | .error st => .error st
    | .ok y => .ok (s.setSc e.g e.k y)) s

/-- A 32-bit or 64-bit result in an X register (R125): a 32-bit result is extended by its type's sign. -/
def xResult (ty v : Nat) : Word64 :=
  if tyWidth ty = 64 then BitVec.ofNat 64 v
  else if tySigned ty then (BitVec.ofNat 32 v).signExtend 64 else (BitVec.ofNat 32 v).setWidth 64

/-- Whether the running word stands in a stack core. -/
def onStack (s : State) : Bool :=
  match s.actor with
  | .stackCore _ _ => true
  | _ => false

end Sys2Proof.Machine
end

