-- ==== Sys2Proof/Machine/Control.lean ====
section
/-! DEFINITION. The control-flow class (chapter "Control-flow instructions", R96 to R112): predicate arithmetic, the
predicate stack, dividing and non-dividing transfers, merging, indirect branches, the ends of lanes and warps, and the
control flow of the stack profile. -/

namespace Sys2Proof.Machine

/-- The completion of a word that writes no register: clock t + 1 (R47). -/
def Env.quick (e : Env) (s : State) : State := e.retire s 1 []

/-- A result that lands after `lat` clocks apart from the word's completion. -/
def Env.later (e : Env) (s : State) (lat : Nat) (wrs : List Wr) : State :=
  let s := s.onCore e.c (fun k => { k with pends := k.pends ++ [{ due := e.clk + lat, party := e.party, flag := 0, wrs }] })
  e.onSplit s (fun p => { p with landed := max p.landed (e.clk + lat) })

/-- The first clock at which a taken branch's target may issue (R46, R50). -/
def Env.branchReady (e : Env) : Nat := max (e.clk + 1 + e.ctl.stall.toNat) (e.clk + 4)

/-- The whole stream instance goes to an address by a taken branch. -/
def Env.jump (e : Env) (s : State) (addr : Word64) : State := e.goto s addr e.branchReady

/-- The target of a direct branch (R102). -/
def branchTarget (pc : Word64) (imm : BitVec 32) : Word64 := pc + 12 * imm.signExtend 64

/-- NOP (R108), valid in every stream: it changes no state. -/
def execNop (w : RWord) (s : State) : Host.Outcome State Fault Refusal :=
  if onStack s then runStackCore .nop (.r w) (fun _ x => .ok x) s
  else runWord .nop (.r w) (fun e s => .ok (e.quick s)) s

/-! Predicates. -/

/-- A predicate that a word names, negated when its NEG bit says so (R98). -/
def Env.predOf (e : Env) (i : Nat) (neg : Bool) : Lanes := if neg then ~~~(e.wp.pred i) else e.wp.pred i

/-- A word that writes a predicate from two predicates lane by lane (R99). -/
def predWord (fn : Fn) (w : RWord) (f : Bool → Bool → Bool) (s : State) : Host.Outcome State Fault Refusal :=
  runFixed fn (.r w) (fun _ => 4) (fun _ => none) (fun e =>
    let a := e.predOf w.a.toNat (w.mb 21)
    let b := e.predOf w.b.toNat (w.mb 20)
    e.predWr w.d.toNat (fun l => f (a.getLsbD l) (b.getLsbD l))) s

def execPand (w : RWord) (s : State) : Host.Outcome State Fault Refusal := predWord .pand w (fun a b => a && b) s
def execPor (w : RWord) (s : State) : Host.Outcome State Fault Refusal := predWord .por w (fun a b => a || b) s
def execPxor (w : RWord) (s : State) : Host.Outcome State Fault Refusal := predWord .pxor w (fun a b => a != b) s
def execPnot (w : RWord) (s : State) : Host.Outcome State Fault Refusal := predWord .pnot w (fun a _ => !a) s
def execPmov (w : RWord) (s : State) : Host.Outcome State Fault Refusal := predWord .pmov w (fun a _ => a) s

/-- P2V (R100): 1 or 0 under tag I32. -/
def execP2v (w : RWord) (s : State) : Host.Outcome State Fault Refusal :=
  runFixed .p2v (.r w) (fun _ => 4) (fun _ => none) (fun e =>
    let a := e.predOf w.a.toNat (w.mb 21)
    e.vecWr false w.d.toNat 1 (fun l => if a.getLsbD l then 1 else 0)) s

/-- V2P (R100). -/
def execV2p (w : RWord) (s : State) : Host.Outcome State Fault Refusal :=
  runFixed .v2p (.r w) (fun _ => 4) Env.badCheck (fun e => e.predWr w.d.toNat (fun l => e.srcA false l != 0)) s

/-- VOTE (R100): ANY, ALL, EQ or BALLOT over the active lanes. -/
def execVote (w : RWord) (s : State) : Host.Outcome State Fault Refusal :=
  runFixed .vote (.r w) (fun _ => 4) (fun _ => none) (fun e =>
    let bal := e.predOf w.a.toNat (w.mb 21) &&& e.act
    match w.fld 1 0 with
    | 0 => e.predWr w.d.toNat (fun _ => bal != 0)
    | 1 => e.predWr w.d.toNat (fun _ => bal == e.act)
    | 2 => e.predWr w.d.toNat (fun _ => bal == 0 || bal == e.act)
    | _ => e.uniWr true w.d.toNat bal.toNat) s

/-! The predicate stack (R101). -/

/-- The depth of the issuing split. -/
def Env.depth (e : Env) : Nat := match e.wp.splits.find e.slot with
  | some p => p.depth
  | none => 0

/-- A word of the predicate stack: it acts on every lane of M; in handler mode it is ILLEGAL_FORM (R366). `f` gives from
the depth and the warp the trap, or the new depth and warp. -/
def stackWord (fn : Fn) (w : RWord) (f : Env → Nat → Warp → Except Trap (Nat × Warp)) (s : State) :
    Host.Outcome State Fault Refusal :=
  runWord fn (.r w) (fun e s =>
    if e.handler then .error (plain .illegalForm)
    else
      match f e e.depth ((s.core e.c).warp e.w) with
      | .error t => .error t
      | .ok (d, x) => .ok (e.quick (e.onSplit (s.onWarp e.c e.w (fun _ => x)) (fun p => { p with depth := d })))) s

/-- A lane set with the lanes of `m` replaced by those of `x`. -/
def within (m old x : Lanes) : Lanes := (old &&& ~~~m) ||| (x &&& m)

/-- PUSHP (R101). -/
def execPushp (w : RWord) (s : State) : Host.Outcome State Fault Refusal :=
  stackWord .pushp w (fun e d x =>
    if 16 ≤ d then .error (plain .pstackOverflow)
    else
      .ok (d + 1, { x with
        pstack := x.pstack.put d (within e.m (x.pstack.get d 0) x.en) 0,
        en := within e.m x.en (x.en &&& e.predOf w.a.toNat (w.mb 21)) })) s

/-- INVP (R101). -/
def execInvp (w : RWord) (s : State) : Host.Outcome State Fault Refusal :=
  stackWord .invp w (fun e d x =>
    if d = 0 then .error (plain .pstackEmpty)
    else .ok (d, { x with en := within e.m x.en (x.pstack.get (d - 1) 0 &&& ~~~x.en) })) s

/-- POPP (R101). -/
def execPopp (w : RWord) (s : State) : Host.Outcome State Fault Refusal :=
  stackWord .popp w (fun e d x =>
    if d = 0 then .error (plain .pstackEmpty)
    else .ok (d - 1, { x with en := within e.m x.en (x.pstack.get (d - 1) 0) })) s

/-! Dividing transfers (R103, R105). -/

/-- The return stack that the issuing split, or the handler split, has (R96, R366), and how many entries it can hold. -/
def Env.rets (e : Env) : List Word64 :=
  if e.handler then
    match e.k.halt with
    | some h => match h.handler with
      | some x => x.rets
      | none => []
    | none => []
  else match e.wp.splits.find e.slot with
    | some p => p.rets
    | none => []
def Env.retLimit (e : Env) : Nat := if e.handler then 4 else 16

/-- The package with the return stack of the issuing split, or of the handler split, replaced. -/
def Env.setRets (e : Env) (s : State) (rs : List Word64) : State :=
  if e.handler then
    s.onCore e.c (fun k => match k.halt with
      | some h => { k with halt := some { h with handler := h.handler.map (fun x => { x with rets := rs }) } }
      | none => k)
  else e.onSplit s (fun p => { p with rets := rs })

/-- A dividing transfer to `addr` that has active lanes; `rs` is the return stack of the split that continues there
(R103, R105). In handler mode nothing divides (R366). -/
def Env.transfer (e : Env) (s : State) (addr : Word64) (rs : List Word64) : Except Trap State :=
  if e.handler ∨ e.exec = e.act then .ok (e.setRets (e.jump s addr) rs)
  else
    let x := (s.core e.c).warp e.w
    match x.splits.find e.slot with
    | none => .ok s
    | some p =>
      let rest := p.m &&& ~~~e.act
      match p.defer, x.splits.firstFree 0 4 with
      | [], some j =>
        let taken := { p with pc := addr, m := e.act, rets := rs, ready := e.branchReady }
        let fall := { p with m := rest }
        .ok (s.onWarp e.c e.w (fun x => { x with splits := (x.splits.set e.slot taken).set j fall }))
      | ds, _ =>
        if 4 ≤ ds.length then .error (plain .splitOverflow)
        else
          let d : Deferral := { parked := false, lanes := rest, pc := e.pc + 12, depth := p.depth }
          .ok (e.onSplit s (fun p =>
            { p with pc := addr, m := e.act, rets := rs, defer := d :: ds, ready := e.branchReady }))

/-- BRA (R103). -/
def execBra (w : IWord) (s : State) : Host.Outcome State Fault Refusal :=
  if onStack s then
    runStackCore .bra (.i w) (fun e x =>
      .ok { x with pc := (branchTarget (BitVec.ofNat 64 e.sc.pc) w.imm).toNat, ready := max x.ready (e.s.sclk + 4) }) s
  else
    runWord .bra (.i w) (whenActive (fun e s => e.transfer (e.quick s) (branchTarget e.pc w.imm) e.rets)) s

/-- BRU (R104): ANY or ALL; it moves the whole split. In the stack profile it is taken when the condition bit is 1
(R112). -/
def execBru (w : IWord) (s : State) : Host.Outcome State Fault Refusal :=
  if onStack s then
    runStackCore .bru (.i w) (fun e x =>
      .ok { x with pc := (branchTarget (BitVec.ofNat 64 e.sc.pc) w.imm).toNat, ready := max x.ready (e.s.sclk + 4) }) s
  else
    runWord .bru (.i w) (fun e s =>
      let taken := if w.modi = 0 then e.act != 0 else e.exec == e.act
      .ok (if taken then e.jump (e.quick s) (branchTarget e.pc w.imm) else e.quick s)) s

/-- CALL (R103, R112). -/
def execCall (w : IWord) (s : State) : Host.Outcome State Fault Refusal :=
  if onStack s then
    runStackCore .call (.i w) (fun e x =>
      if 16 ≤ x.rets.length then .error (stackStatus .callDepth)
      else .ok { x with pc := (branchTarget (BitVec.ofNat 64 e.sc.pc) w.imm).toNat, rets := (e.sc.pc + 12) :: x.rets,
                        ready := max x.ready (e.s.sclk + 4) }) s
  else
    runWord .call (.i w) (whenActive (fun e s =>
      if e.retLimit ≤ e.rets.length then .error (plain .callDepth)
      else e.transfer (e.quick s) (branchTarget e.pc w.imm) ((e.pc + 12) :: e.rets))) s

/-- RET (R103, R112). -/
def execRet (w : RWord) (s : State) : Host.Outcome State Fault Refusal :=
  if onStack s then
    runStackCore .ret (.r w) (fun e x =>
      match x.rets with
      | [] => .error (stackStatus .retEmpty)
      | a :: rs => .ok { x with pc := a, rets := rs, ready := max x.ready (e.s.sclk + 4) }) s
  else
    runWord .ret (.r w) (whenActive (fun e s =>
      match e.rets with
      | [] => .error (plain .retEmpty)
      | a :: rs => e.transfer (e.quick s) a rs)) s

/-! Indirect branches (R107). -/

/-- The pages that the twelve bytes at `pc` meet. -/
def fetchPages (pc : Word64) : List Nat :=
  let a := pc.toNat / 2 ^ 16 * 2 ^ 16
  let b := (pc + 11).toNat / 2 ^ 16 * 2 ^ 16
  if a = b then [a] else [a, b]

/-- Whether a stream still waits for a page of code that is MIGRATING (R395). -/
def Env.pageWaits (e : Env) (page : Nat) : Bool :=
  match e.s.xlate e.k.tlb e.blk.asid page with
  | .migrating _ => (match e.k.fwaits.find (page / 2 ^ 16) with
    | some t => decide (e.s.ref < t + ticksOf 200)
    | none => true)
  | _ => false

/-- Whether `n` bytes of code can be read without an uncorrectable error (R55, R107). -/
def Env.codeGood (e : Env) (va n : Nat) : Bool := (sectorsOf va n).all (fun x => !e.k.badCode.get x false)

/-- The twelve bytes of code at an address; none for a fault. -/
def Env.codeAt (e : Env) (pc : Word64) : Option (List Byte) :=
  if e.codeGood pc.toNat 12 then e.s.fetchWord e.k.tlb e.blk.asid pc.toNat e.handler else none

/-- A table trap: it records the table's address and the index (R107, R368). -/
def tableTrap (c : Cause) (b i : Nat) : Trap := { cause := c, aux := BitVec.ofNat 32 i, addr := BitVec.ofNat 64 b }

/-- A 32-bit word of a permitted-target table, read with the rights of an instruction fetch. -/
def Env.tableWord (e : Env) (va : Nat) : Option Nat :=
  if e.codeGood (va % 2 ^ 64) 4 then (e.s.fetchPart e.k.tlb e.blk.asid e.handler (va % 2 ^ 64) 4).map leNat else none

/-- The target that entry `i` of a table names (R107 step 3). -/
def tableTarget (b off : Nat) : Word64 := BitVec.ofNat 64 b + 12 * (BitVec.ofNat 32 off).signExtend 64

/-- The pages that an indirect branch looks up, one after the other, as far as it finds them. -/
def Env.branchPages (e : Env) : List Nat :=
  let i := e.srcA false 0
  let b := e.srcB true 0
  let page (va : Nat) : Nat := va % 2 ^ 64 / 2 ^ 16 * 2 ^ 16
  if b % 4 ≠ 0 then []
  else
    page b :: (match e.tableWord b with
      | none => []
      | some hd =>
        if hd / 2 ^ 16 ≠ 0 ∨ hd % 2 ^ 16 ≤ i then []
        else page (b + 4 + 4 * i) :: (match e.tableWord (b + 4 + 4 * i) with
          | some off => fetchPages (tableTarget b off)
          | none => []))

/-- The pages of code that a word looks up besides its own. -/
def Env.codePages (e : Env) : List Nat :=
  if e.act = 0 then []
  else match e.fn with
    | .brx | .callx => e.branchPages
    | .timer => if e.srcA true 0 = 0 then [] else fetchPages (BitVec.ofNat 64 (e.srcB true 0))
    | _ => []

/-- No page of code that the word looks up is MIGRATING, or it has waited for it for 200 µs (R395). -/
def Env.codeReady (e : Env) : Bool := !e.codePages.any e.pageWaits

/-- The target of an indirect branch: the table's trap, or the address (R107 steps 1 to 5). -/
def Env.indirect (e : Env) : Except Trap Word64 :=
  let i := e.srcA false 0
  let b := e.srcB true 0
  if b % 4 ≠ 0 then .error (tableTrap .targetFault b i)
  else
    match e.tableWord b with
    | none => .error (tableTrap .targetFault b i)
    | some hd =>
      if hd / 2 ^ 16 ≠ 0 ∨ hd % 2 ^ 16 ≤ i then .error (tableTrap .targetRange b i)
      else
        match e.tableWord (b + 4 + 4 * i) with
        | none => .error (tableTrap .targetFault b i)
        | some off =>
          let addr := tableTarget b off
          match e.codeAt addr with
          | some bs => if isLanding (wordOfBytes bs) then .ok addr else .error (tableTrap .targetLand b i)
          | none => .ok addr

/-- BRX (R103, R107). It completes at t + 4, the clock at which the model has the landing word checked (log 93). -/
def execBrx (w : RWord) (s : State) : Host.Outcome State Fault Refusal :=
  runWhen .brx (.r w) Env.codeReady (whenActive (fun e s =>
    match e.indirect with
    | .error t => .error t
    | .ok addr => e.transfer (e.retire s 4 []) addr e.rets)) s

/-- CALLX (R103, R107), complete like BRX. -/
def execCallx (w : RWord) (s : State) : Host.Outcome State Fault Refusal :=
  runWhen .callx (.r w) Env.codeReady (whenActive (fun e s =>
    match e.indirect with
    | .error t => .error t
    | .ok addr =>
      if e.retLimit ≤ e.rets.length then .error (plain .callDepth)
      else e.transfer (e.retire s 4 []) addr ((e.pc + 12) :: e.rets))) s

/-- LOOP (R104, R112): the counter falls by one, and the split goes to the target unless it has become 0. -/
def execLoop (w : IWord) (s : State) : Host.Outcome State Fault Refusal :=
  if onStack s then
    runStackCore .loop (.i w) (fun e x =>
      let v := x.xreg w.a.toNat - 1
      let x := x.setX w.a.toNat v
      .ok (if v = 0 then x
           else { x with pc := (branchTarget (BitVec.ofNat 64 e.sc.pc) w.imm).toNat, ready := max x.ready (e.s.sclk + 4) })) s
  else
    runWord .loop (.i w) (whenActive (fun e s =>
      let v := e.wp.s.get w.a.toNat 0 - 1
      let wr : List Wr := [.s e.w w.a.toNat v]
      .ok (if v = 0 then e.later (e.quick s) 4 wr else e.jump (e.retire s 4 wr) (branchTarget e.pc w.imm)))) s

/-- YIELD (R109): valid in the compute and access streams. -/
def execYield (w : RWord) (s : State) : Host.Outcome State Fault Refusal :=
  runWord .yield (.r w) (whenActive (fun e s =>
    .ok (e.goto (e.quick s) (e.pc + 12) (e.clk + 1 + max e.ctl.stall.toNat (w.fld 7 0))))) s

/-! Merging (R106). -/

/-- What a split does at a MERGE that it issues at address `m`: it joins the parked paths on top of its deferral stack
that match, then runs a pending path or waits. The list of the stack bounds the loop. A path taken back is no merged split of R46:
its instructions were this split's own, so nothing is waited for (log 115). -/
def mergeWalk (m : Word64) (p : Split) : List Deferral → Split
  | [] => { p with pc := m, defer := [], waiting := true }
  | e :: ds =>
    if e.parked then
      (if e.pc = m ∧ e.depth = p.depth then mergeWalk m { p with m := p.m ||| e.lanes } ds
       else { p with pc := m, defer := e :: ds, waiting := true })
    else
      { p with pc := e.pc, m := e.lanes, depth := e.depth,
               defer := { parked := true, lanes := p.m, pc := m, depth := p.depth } :: ds }

/-- MERGE (R106); ILLEGAL_FORM in handler mode (R366). -/
def execMerge (w : RWord) (s : State) : Host.Outcome State Fault Refusal :=
  runWord .merge (.r w) (fun e s =>
    if e.handler then .error (plain .illegalForm)
    else .ok (e.onSplit (e.quick s) (fun p => mergeWalk e.pc p p.defer))) s

/-- Two splits at one MERGE can join (R106). -/
def joinable (a b : Split) : Bool :=
  a.depth == b.depth && a.rets == b.rets && (a.defer.isEmpty || b.defer.isEmpty)

/-- The joined split (R106, R46, R361). -/
def joinSplits (a b : Split) : Split :=
  { a with m := a.m ||| b.m, defer := if a.defer.isEmpty then b.defer else a.defer,
           ready := max (max a.ready b.ready) (max a.landed b.landed), landed := max a.landed b.landed,
           ymark := a.ymark && b.ymark }

/-- A split joined with each of the later ones it can join, and those that remain. -/
def joinWith (a : Split) : List (Nat × Split) → Split × List (Nat × Split)
  | [] => (a, [])
  | (j, b) :: xs =>
    if joinable a b then joinWith (joinSplits a b) xs
    else
      let r := joinWith a xs
      (r.1, (j, b) :: r.2)

/-- Every split at the merge address, taken in ascending slot; `n` bounds their number. -/
def joinAll : Nat → List (Nat × Split) → List (Nat × Split)
  | 0, xs => xs
  | _, [] => []
  | n + 1, (j, a) :: xs =>
    let r := joinWith a xs
    (j, r.1) :: joinAll n r.2

/-- The merge step of a warp (R106): the splits at the lowest waiting address are joined and released. -/
def mergeSplits (xs : FMap Split) : FMap Split :=
  match xs with
  | [] => []
  | e :: es =>
    let m0 := es.foldl (fun m x => min m x.2.pc.toNat) e.2.pc.toNat
    let here := xs.filter (fun x => x.2.pc.toNat == m0)
    let joined := (joinAll here.length here).map (fun x => (x.1, { x.2 with waiting := false, pc := x.2.pc + 12 }))
    joined.foldl (fun acc x => acc.set x.1 x.2) (xs.filter (fun x => x.2.pc.toNat != m0))

/-- MERGE_STEP (R106): it runs when every split of the warp waits. -/
def execMergeStep (core warp : Nat) (s : State) : Host.Outcome State Fault Refusal :=
  let xs := ((s.core core).warp warp).splits
  if !xs.isEmpty && xs.all (fun x => x.2.waiting) then
    done (s.onWarp core warp (fun x => { x with splits := mergeSplits x.splits }))
  else .next s

/-! The ends of lanes and warps (R110). -/

/-- A warp whose compute stream and access stream have both ended has ended, and its queues are discarded (R110,
R193). -/
def Core.endWarp (k : Core) (w : Nat) : Core :=
  let x := k.warp w
  if x.live = 0 ∧ (¬ k.kernel.hasAccess w ∨ x.acc.aend) then k.setWarp w { x with ended := true, queues := [] } else k

/-- A split after lanes have exited (R110): none when it ends. -/
def exitLanes (gone : Lanes) (p : Split) : Option Split :=
  let ds := (p.defer.map (fun d => { d with lanes := d.lanes &&& ~~~gone })).filter (fun d => d.lanes != 0)
  let m := p.m &&& ~~~gone
  if m ≠ 0 then some { p with m := m, defer := ds }
  else
    match ds with
    | [] => none
    | d :: rest =>
      some { p with m := d.lanes, depth := d.depth, pc := if d.parked then d.pc + 12 else d.pc, defer := rest }

/-- COPY_FAULT of a tag (R208, R368). -/
def Core.copyTrap (k : Core) (t : Nat) : Trap :=
  let r := k.tagrec.get t {}
  { cause := .copyFault, aux := BitVec.ofNat 32 t, addr := r.faddr,
    taux := BitVec.ofNat 64 (r.status % 256 + 2 ^ 8 * bits r.pc.toNat 57 2) }

/-- The lowest tag of a failed copy of a warp that has not been reported, among the first `n` copies of the warp (R208). -/
def Core.copyFault (k : Core) (w n : Nat) : Option Trap :=
  ((List.range 64).find? (fun t =>
    let r := k.tagrec.get t {}
    k.tagerr.getLsbD t && r.warp == w && !r.reported && decide (r.seq ≤ n))).map k.copyTrap

/-- KV_DATA of a warp (R254): the first data error of a completed KLD of which no trap has been taken; `retired` asks for
one that the GAT counter no longer counts. -/
def Core.kvDataTrap (k : Core) (w : Nat) (retired : Bool) : Option Trap :=
  match (k.warp w).pendings.find? (fun x => x.cause == .kvData && (!retired || !k.ops.any (fun o => o.id == x.op))) with
  | some x => some { cause := .kvData, addr := x.addr, taux := x.pc }
  | none => none

/-- Whether an EXIT of the active lanes ends the issuing split. -/
def Env.endsSplit (e : Env) : Bool := match e.wp.splits.find e.slot with
  | some p => (exitLanes e.act p).isNone
  | none => false

/-- EXIT (R110, R112); ILLEGAL_FORM in handler mode (R366); the EXIT that ends a split reports a failed window store
(R155), the one that ends the warp a failed copy (R208) or a KV data error (R254). -/
def execExit (w : RWord) (s : State) : Host.Outcome State Fault Refusal :=
  if onStack s then runStackCore .exit (.r w) (fun e x => .ok (x.finish 0 e.sc.pc 0)) s
  else
    runWord .exit (.r w) (fun e s =>
      if e.handler then .error (plain .illegalForm)
      else if e.act = 0 then .ok (e.quick s)
      else if e.endsSplit && (windowTrap e.wp.pendings e.party).isSome then
        .error ((windowTrap e.wp.pendings e.party).getD (plain .windowFault))
      else if (e.wp.live &&& ~~~e.act == 0) && (!e.kernel.hasAccess e.w || e.wp.acc.aend) &&
          (e.k.copyFault e.w e.wp.copies).isSome then
        .error ((e.k.copyFault e.w e.wp.copies).getD (plain .copyFault))
      else if (e.wp.live &&& ~~~e.act == 0) && (!e.kernel.hasAccess e.w || e.wp.acc.aend) &&
          (e.k.kvDataTrap e.w false).isSome then
        .error ((e.k.kvDataTrap e.w false).getD (plain .kvData))
      else
        .ok ((e.quick s).onCore e.c (fun k =>
          let x := k.warp e.w
          let splits := match x.splits.find e.slot with
            | some p => match exitLanes e.act p with
              | some q => x.splits.set e.slot q
              | none => x.splits.del e.slot
            | none => x.splits
          (k.setWarp e.w { x with splits, live := x.live &&& ~~~e.act }).endWarp e.w))) s

end Sys2Proof.Machine
end

