-- ==== Sys2Proof/Machine/Flags.lean ====
section
/-! DEFINITION. Flag computations of the integer instructions (R70, R117), the condition codes of compares (R119, R135),
and the reads and writes of FLAGS as a register (R129, R130). -/

namespace Sys2Proof.Machine

/-- An exact integer result delivered in `w` bits: wrapped, or clamped with SAT set when the clamp changes it (R70). -/
def deliverSat (ty w : Nat) (sat : Bool) (x : Int) : Nat × Nat :=
  if sat then
    let (y, c) := clampInt ty w x
    (wrapInt w y, if c then fSAT else 0)
  else (wrapInt w x, 0)

/-- The condition codes of R119. -/
def intCond (cc : Nat) (a b : Int) : Bool :=
  match cc with
  | 0 => decide (a = b)
  | 1 => decide (a ≠ b)
  | 2 => decide (a < b)
  | 3 => decide (a ≤ b)
  | 4 => decide (b < a)
  | _ => decide (b ≤ a)

/-- The condition codes of R135, with the NV they set: a signalling NaN always, a quiet one where the code orders. -/
def floatCond (cc : Nat) (a b : Num) : Bool × Nat :=
  let un := isNaN a || isNaN b
  let nv := if (sigFlag a ||| sigFlag b) != 0 || (un && decide (2 ≤ cc) && decide (cc ≤ 5)) then fNV else 0
  let r := match cc with
    | 0 => eqNum a b
    | 1 => !eqNum a b
    | 2 => ltNum a b
    | 3 => ltNum a b || eqNum a b
    | 4 => ltNum b a
    | 5 => ltNum b a || eqNum a b
    | 6 => un
    | _ => !un
  (r, nv)

/-- FLGRD (R130): the value as it stands when the word issues. -/
def execFlgrd (w : RWord) (s : State) : Host.Outcome State Fault Refusal :=
  runFixed .flgrd (.r w) (fun _ => 4) (fun _ => none) (fun e => [.s e.w w.d.toNat e.wp.flags]) s

/-- A uniform source of FLGWR and FLGCLR. -/
def Env.flagSource (e : Env) : Word := BitVec.ofNat 32 (e.srcA false 0)

/-- FLGWR (R130): reserved bits of A are ignored. -/
def execFlgwr (w : RWord) (s : State) : Host.Outcome State Fault Refusal :=
  runFixed .flgwr (.r w) (fun _ => 4) (fun _ => none) (fun e => [.flagsSet e.w 0 (e.flagSource &&& flagsMask)]) s

/-- FLGCLR (R130). -/
def execFlgclr (w : RWord) (s : State) : Host.Outcome State Fault Refusal :=
  runFixed .flgclr (.r w) (fun _ => 4) (fun _ => none) (fun e => [.flagsSet e.w (~~~e.flagSource) 0]) s

end Sys2Proof.Machine
end

