-- ==== Sys2Proof/Machine/Integer.lean ====
section
/-! DEFINITION. Class INT (chapter "Integer, address and uniform instructions"): the vector instructions (R116 to R123),
which stack cores run on their X registers (R125), and the uniform instructions (R124). Each operation is one function
of its operands; the runners below apply it lane by lane, once for the warp, or to X registers. -/

namespace Sys2Proof.Machine

/-- What an INT word computes: from TYPE, SAT and the operands A, B and old D as patterns of the TYPE's width, the result
pattern and the flags it raises. -/
abbrev IntOp := Nat → Bool → Nat → Nat → Nat → Nat × Nat

/-- An operation on exact integers (R117). -/
def arith (f : Int → Int → Int → Int) : IntOp := fun ty sat a b d =>
  let w := tyWidth ty
  deliverSat ty w sat (f (intVal ty w a) (intVal ty w b) (intVal ty w d))

/-- An operation on bit patterns (R118, R120). -/
def bitwise (f : Nat → Nat → Nat → Nat → Nat) : IntOp := fun ty _ a b d =>
  let w := tyWidth ty
  (f w a b d % 2 ^ w, 0)

def opAdd : IntOp := arith (fun a b _ => a + b)
def opSub : IntOp := arith (fun a b _ => a - b)
def opMul : IntOp := arith (fun a b _ => a * b)
def opMad : IntOp := arith (fun a b d => a * b + d)
def opMin : IntOp := arith (fun a b _ => if a ≤ b then a else b)
def opMax : IntOp := arith (fun a b _ => if a ≤ b then b else a)
def opAbs : IntOp := arith (fun a _ _ => if a < 0 then -a else a)
def opNeg : IntOp := arith (fun a _ _ => -a)

/-- The high half of the exact product (R117). -/
def opMulhi : IntOp := fun ty _ a b _ =>
  let w := tyWidth ty
  (wrapInt w ((intVal ty w a * intVal ty w b).fdiv (2 ^ w : Nat)), 0)

def opAnd : IntOp := bitwise (fun _ a b _ => a &&& b)
def opOr : IntOp := bitwise (fun _ a b _ => a ||| b)
def opXor : IntOp := bitwise (fun _ a b _ => a ^^^ b)
def opNot : IntOp := bitwise (fun w a _ _ => 2 ^ w - 1 - a % 2 ^ w)

/-- SHL (R118): the count is the low 32 bits of B. -/
def opShl : IntOp := bitwise (fun w a b _ => if w ≤ b % 2 ^ 32 then 0 else a * 2 ^ (b % 2 ^ 32))

/-- SHR (R118): logical for N types, arithmetic for I types. -/
def opShr : IntOp := fun ty _ a b _ =>
  let w := tyWidth ty
  let n := b % 2 ^ 32
  if tySigned ty then (wrapInt w ((intVal ty w a).fdiv (2 ^ (if n < w - 1 then n else w - 1) : Nat)), 0)
  else (if w ≤ n then 0 else a % 2 ^ w / 2 ^ n, 0)

/-- ROT (R118): to the left by the count mod w. -/
def opRot : IntOp := bitwise (fun w a b _ =>
  let k := b % 2 ^ 32 % w
  a % 2 ^ w * 2 ^ k % 2 ^ w + a % 2 ^ w / 2 ^ (w - k))

/-- SEL (R119): D is the mask. -/
def opSel : IntOp := bitwise (fun w a b d => (a &&& d) ||| (b &&& (2 ^ w - 1 - d % 2 ^ w)))

def opMov : IntOp := bitwise (fun _ a _ _ => a)

/-- The number of 1 bits among the `w` lowest. -/
def popc (w a : Nat) : Nat := (List.range w).foldl (fun acc i => if a.testBit i then acc + 1 else acc) 0

/-- The number of 0 bits below the lowest 1 bit, from bit `i` on. -/
def ctzFrom (a : Nat) : Nat → Nat → Nat
  | 0, i => i
  | n + 1, i => if a.testBit i then i else ctzFrom a n (i + 1)

/-- The bits of a `w`-bit pattern in reverse order. -/
def revBits (w a : Nat) : Nat :=
  (List.range w).foldl (fun acc i => if a.testBit i then acc + 2 ^ (w - 1 - i) else acc) 0

def opPopc : IntOp := bitwise (fun w a _ _ => popc w a)
def opClz : IntOp := bitwise (fun w a _ _ => w - bitLen (a % 2 ^ w))
def opCtz : IntOp := bitwise (fun w a _ _ => ctzFrom a w 0)
def opBrev : IntOp := bitwise (fun w a _ _ => revBits w a)

/-- BFE (R120): B[7:0] is the position, B[15:8] the length. -/
def opBfe : IntOp := fun ty _ a b _ =>
  let w := tyWidth ty
  let pos := bits b 7 0
  let len := if bits b 15 8 < w then bits b 15 8 else w
  let f := ((intVal ty w a).fdiv (2 ^ pos : Nat) % (2 ^ len : Nat)).toNat
  if tySigned ty && decide (0 < len) && f.testBit (len - 1) then (wrapInt w ((f : Int) - (2 ^ len : Nat)), 0)
  else (f % 2 ^ w, 0)

/-- BFI (R120). -/
def opBfi : IntOp := fun ty _ a b d =>
  let w := tyWidth ty
  let pos := bits b 7 0
  let len := if bits b 15 8 < w then bits b 15 8 else w
  let mask := (2 ^ len - 1) * 2 ^ pos % 2 ^ w
  ((d &&& (2 ^ w - 1 - mask)) ||| (a * 2 ^ pos % 2 ^ w &&& mask), 0)

/-- LEA (R121): A is 64 bits, B is extended by TYPE. -/
def leaSum (ty shift a b : Nat) : Nat :=
  let x := if tyWidth ty = 64 then b else wrapInt 64 (intVal ty 32 b)
  (a + x * 2 ^ shift) % 2 ^ 64

/-! Runners. -/

/-- The latency class of an INT word (R50, R116). -/
def intLat (fn : Fn) (ty : Nat) : Nat :=
  match fn with
  | .imul | .imulImm | .imad | .imulhi => if wide ty then 10 else 6
  | _ => 4

/-- The poison checks of an INT word: BFE and BFI ignore B[31:16] (R120), so that half raises nothing (R375). -/
def intBad (fn : Fn) (e : Env) : Option Trap :=
  match fn with
  | .bfe | .bfi =>
    firstTrap [badTrap e.act 3 e.sourcesA, badTrap e.act 1 e.sourcesB,
      if (formOf e.fn e.body).dRead then badTrap e.act 3 e.sourcesD else none]
  | _ => e.badCheck

/-- An R-form INT word: lane by lane in a compute stream, on X registers in a stack core. `raw` marks the instructions
that write tag RAW (R81), `b32` those whose B is one 32-bit operand. -/
def intR (fn : Fn) (w : RWord) (raw b32 : Bool) (op : IntOp) (s : State) : Host.Outcome State Fault Refusal :=
  let ty := w.ty
  let g := wide ty
  let sat := w.mb 14
  if onStack s then
    runStackCore fn (.r w) (fun e x =>
      let m := 2 ^ tyWidth ty
      let r := op ty sat (e.src w.asel w.a.toNat % m) (e.src w.bsel w.b.toNat % (if b32 then 2 ^ 32 else m))
        ((e.sc.xreg w.d.toNat).toNat % m)
      .ok ((x.setX w.d.toNat (xResult ty r.1)).addSticky r.2)) s
  else
    runFixed fn (.r w) (fun _ => intLat fn ty) (intBad fn) (fun e =>
      let r (l : Nat) : Nat × Nat := op ty sat (e.srcA g l) (e.srcB (g && !b32) l) (e.srcD g l)
      e.vecWr g w.d.toNat (if raw then 0 else tagOf ty) (fun l => (r l).1) ++ e.flagWr (e.lanesFlags (fun l => (r l).2))) s

/-- An I-form INT word (R44): `count` marks the shifts, whose IMM32 is a 32-bit count. -/
def intI (fn : Fn) (w : IWord) (raw count : Bool) (op : IntOp) (s : State) : Host.Outcome State Fault Refusal :=
  let ty := w.modi.toNat
  let g := wide ty
  let b := if count then w.imm.toNat else immInt w.imm ty
  if onStack s then
    runStackCore fn (.i w) (fun e x =>
      let m := 2 ^ tyWidth ty
      let r := op ty false ((e.sc.xreg w.a.toNat).toNat % m) b 0
      .ok (x.setX w.d.toNat (xResult ty r.1))) s
  else
    runFixed fn (.i w) (fun _ => intLat fn ty) Env.badCheck (fun e =>
      e.vecWr g w.d.toNat (if raw then 0 else tagOf ty) (fun l => (op ty false (e.wp.lane g w.a.toNat l) b 0).1)) s

def execIadd (w : RWord) (s : State) : Host.Outcome State Fault Refusal := intR .iadd w false false opAdd s
def execIaddImm (w : IWord) (s : State) : Host.Outcome State Fault Refusal := intI .iaddImm w false false opAdd s
def execIsub (w : RWord) (s : State) : Host.Outcome State Fault Refusal := intR .isub w false false opSub s
def execImul (w : RWord) (s : State) : Host.Outcome State Fault Refusal := intR .imul w false false opMul s
def execImulImm (w : IWord) (s : State) : Host.Outcome State Fault Refusal := intI .imulImm w false false opMul s
def execImad (w : RWord) (s : State) : Host.Outcome State Fault Refusal := intR .imad w false false opMad s
def execImulhi (w : RWord) (s : State) : Host.Outcome State Fault Refusal := intR .imulhi w false false opMulhi s
def execImin (w : RWord) (s : State) : Host.Outcome State Fault Refusal := intR .imin w false false opMin s
def execImax (w : RWord) (s : State) : Host.Outcome State Fault Refusal := intR .imax w false false opMax s
def execIabs (w : RWord) (s : State) : Host.Outcome State Fault Refusal := intR .iabs w false false opAbs s
def execIneg (w : RWord) (s : State) : Host.Outcome State Fault Refusal := intR .ineg w false false opNeg s
def execAndB (w : RWord) (s : State) : Host.Outcome State Fault Refusal := intR .andB w true false opAnd s
def execAndImm (w : IWord) (s : State) : Host.Outcome State Fault Refusal := intI .andImm w true false opAnd s
def execOrB (w : RWord) (s : State) : Host.Outcome State Fault Refusal := intR .orB w true false opOr s
def execOrImm (w : IWord) (s : State) : Host.Outcome State Fault Refusal := intI .orImm w true false opOr s
def execXorB (w : RWord) (s : State) : Host.Outcome State Fault Refusal := intR .xorB w true false opXor s
def execXorImm (w : IWord) (s : State) : Host.Outcome State Fault Refusal := intI .xorImm w true false opXor s
def execNotB (w : RWord) (s : State) : Host.Outcome State Fault Refusal := intR .notB w true false opNot s
def execShl (w : RWord) (s : State) : Host.Outcome State Fault Refusal := intR .shl w false true opShl s
def execShlImm (w : IWord) (s : State) : Host.Outcome State Fault Refusal := intI .shlImm w false true opShl s
def execShr (w : RWord) (s : State) : Host.Outcome State Fault Refusal := intR .shr w false true opShr s
def execShrImm (w : IWord) (s : State) : Host.Outcome State Fault Refusal := intI .shrImm w false true opShr s
def execRot (w : RWord) (s : State) : Host.Outcome State Fault Refusal := intR .rot w true true opRot s
def execSel (w : RWord) (s : State) : Host.Outcome State Fault Refusal := intR .sel w false false opSel s
def execMov (w : RWord) (s : State) : Host.Outcome State Fault Refusal := intR .mov w false false opMov s
def execPopc (w : RWord) (s : State) : Host.Outcome State Fault Refusal := intR .popc w false false opPopc s
def execClz (w : RWord) (s : State) : Host.Outcome State Fault Refusal := intR .clz w false false opClz s
def execCtz (w : RWord) (s : State) : Host.Outcome State Fault Refusal := intR .ctz w false false opCtz s
def execBrev (w : RWord) (s : State) : Host.Outcome State Fault Refusal := intR .brev w true false opBrev s
def execBfe (w : RWord) (s : State) : Host.Outcome State Fault Refusal := intR .bfe w false true opBfe s
def execBfi (w : RWord) (s : State) : Host.Outcome State Fault Refusal := intR .bfi w true true opBfi s

/-- MOV# (R122): IMM32 is the only source. -/
def execMovImm (w : IWord) (s : State) : Host.Outcome State Fault Refusal :=
  intI .movImm w false false (fun _ _ _ b _ => (b, 0)) s

/-- A compare of A and B by the condition in D[6:4], into predicate D[3:0] (R119), or into a condition bit of a stack core
(R125). -/
def execIcmp (w : RWord) (s : State) : Host.Outcome State Fault Refusal :=
  let ty := w.ty
  let g := wide ty
  let n := tyWidth ty
  let cc := bits w.d.toNat 6 4
  let p := bits w.d.toNat 3 0
  if onStack s then
    runStackCore .icmp (.r w) (fun e x =>
      let r := intCond cc (intVal ty n (e.src w.asel w.a.toNat)) (intVal ty n (e.src w.bsel w.b.toNat))
      .ok { x with sflags := putBit x.sflags p r }) s
  else
    runFixed .icmp (.r w) (fun _ => 4) Env.badCheck (fun e =>
      e.predWr p (fun l => intCond cc (intVal ty n (e.srcA g l)) (intVal ty n (e.srcB g l)))) s

/-- ICMP# (R119, R44). -/
def execIcmpImm (w : IWord) (s : State) : Host.Outcome State Fault Refusal :=
  let ty := w.modi.toNat
  let g := wide ty
  let n := tyWidth ty
  let cc := bits w.d.toNat 6 4
  let p := bits w.d.toNat 3 0
  let b := intVal ty n (immInt w.imm ty)
  if onStack s then
    runStackCore .icmpImm (.i w) (fun e x =>
      .ok { x with sflags := putBit x.sflags p (intCond cc (intVal ty n (e.sc.xreg w.a.toNat).toNat) b) }) s
  else
    runFixed .icmpImm (.i w) (fun _ => 4) Env.badCheck (fun e =>
      e.predWr p (fun l => intCond cc (intVal ty n (e.wp.lane g w.a.toNat l)) b)) s

/-- LEA (R121): tag I64 to both registers of D. -/
def execLea (w : RWord) (s : State) : Host.Outcome State Fault Refusal :=
  let sum (a b : Nat) : Nat := leaSum w.ty (w.fld 2 0) a b
  if onStack s then
    runStackCore .lea (.r w) (fun e x =>
      .ok (x.setX w.d.toNat (BitVec.ofNat 64 (sum (e.src w.asel w.a.toNat) (e.src w.bsel w.b.toNat))))) s
  else
    runFixed .lea (.r w) (fun _ => 4) Env.badCheck (fun e =>
      e.vecWr true w.d.toNat 5 (fun l => sum (e.srcA true l) (e.srcB (wide w.ty) l))) s

/-- LEA# (R121): SHIFT 0, IMM32 extended by MODI. -/
def execLeaImm (w : IWord) (s : State) : Host.Outcome State Fault Refusal :=
  let sum (a : Nat) : Nat := leaSum w.modi.toNat 0 a (immInt w.imm w.modi.toNat)
  if onStack s then
    runStackCore .leaImm (.i w) (fun e x =>
      .ok (x.setX w.d.toNat (BitVec.ofNat 64 (sum (e.sc.xreg w.a.toNat).toNat)))) s
  else
    runFixed .leaImm (.i w) (fun _ => 4) Env.badCheck (fun e =>
      e.vecWr true w.d.toNat 5 (fun l => sum (e.wp.lane true w.a.toNat l))) s

/-- VREAD (R123): the value of lane B mod W of A, whatever its mask bit. DESIGN CHOICE (log 120): a poisoned element of that
lane raises DATA_ERROR even where the lane is not active. -/
def execVread (w : RWord) (s : State) : Host.Outcome State Fault Refusal :=
  runFixed .vread (.r w) (fun _ => 3)
    (fun e => badTrap (BitVec.ofNat 64 (2 ^ (e.srcB false 0 % e.width))) 3 e.sourcesA)
    (fun e => e.uniWr (wide w.ty) w.d.toNat (e.wp.lane (wide w.ty) w.a.toNat (e.srcB false 0 % e.width))) s

/-- VWRITE (R123): lane B mod W of D takes A; the other lanes keep their bits under the new tag. -/
def execVwrite (w : RWord) (s : State) : Host.Outcome State Fault Refusal :=
  runFixed .vwrite (.r w) (fun _ => 4) (fun _ => none) (fun e =>
    let l := e.srcB false 0 % e.width
    let x := e.srcA (wide w.ty) 0
    let lo : Wr := .v e.w w.d.toNat [(l, BitVec.ofNat 32 x)] (tagOf w.ty)
    if wide w.ty then [lo, .v e.w (w.d.toNat + 1) [(l, BitVec.ofNat 32 (x / 2 ^ 32))] (tagOf w.ty)] else [lo]) s

/-! Uniform instructions (R124). -/

/-- A uniform R-form word: the effect of the vector instruction named, once for the warp. -/
def uniR (fn : Fn) (w : RWord) (b32 : Bool) (op : IntOp) (s : State) : Host.Outcome State Fault Refusal :=
  let g := wide w.ty
  runFixed fn (.r w) (fun _ => 3) (fun _ => none) (fun e =>
    let r := op w.ty (w.mb 14) (e.srcA g 0) (e.srcB (g && !b32) 0) (e.wp.sreg g w.d.toNat)
    e.uniWr g w.d.toNat r.1 ++ e.flagWr r.2) s

/-- A uniform I-form word. -/
def uniI (fn : Fn) (w : IWord) (op : IntOp) (s : State) : Host.Outcome State Fault Refusal :=
  let ty := w.modi.toNat
  let g := wide ty
  runFixed fn (.i w) (fun _ => 3) (fun _ => none) (fun e =>
    e.uniWr g w.d.toNat (op ty false (e.wp.sreg g w.a.toNat) (immInt w.imm ty) 0).1) s

def execSadd (w : RWord) (s : State) : Host.Outcome State Fault Refusal := uniR .sadd w false opAdd s
def execSaddImm (w : IWord) (s : State) : Host.Outcome State Fault Refusal := uniI .saddImm w opAdd s
def execSsub (w : RWord) (s : State) : Host.Outcome State Fault Refusal := uniR .ssub w false opSub s
def execSmul (w : RWord) (s : State) : Host.Outcome State Fault Refusal := uniR .smul w false opMul s
def execSand (w : RWord) (s : State) : Host.Outcome State Fault Refusal := uniR .sand w false opAnd s
def execSor (w : RWord) (s : State) : Host.Outcome State Fault Refusal := uniR .sor w false opOr s
def execSxor (w : RWord) (s : State) : Host.Outcome State Fault Refusal := uniR .sxor w false opXor s
def execSshl (w : RWord) (s : State) : Host.Outcome State Fault Refusal := uniR .sshl w true opShl s
def execSshr (w : RWord) (s : State) : Host.Outcome State Fault Refusal := uniR .sshr w true opShr s
def execSmov (w : RWord) (s : State) : Host.Outcome State Fault Refusal := uniR .smov w false opMov s
def execSmovImm (w : IWord) (s : State) : Host.Outcome State Fault Refusal :=
  uniI .smovImm w (fun _ _ _ b _ => (b, 0)) s
def execSsel (w : RWord) (s : State) : Host.Outcome State Fault Refusal := uniR .ssel w false opSel s

/-- SCMP (R124): S[D] becomes 1 or 0, whatever the width of TYPE. -/
def execScmp (w : RWord) (s : State) : Host.Outcome State Fault Refusal :=
  let g := wide w.ty
  let n := tyWidth w.ty
  runFixed .scmp (.r w) (fun _ => 3) (fun _ => none) (fun e =>
    e.uniWr false w.d.toNat
      (if intCond (w.fld 2 0) (intVal w.ty n (e.srcA g 0)) (intVal w.ty n (e.srcB g 0)) then 1 else 0)) s

end Sys2Proof.Machine
end

