-- ==== Sys2Proof/Machine/Float.lean ====
section
/-! DEFINITION. The float class (R126 to R135): arithmetic, minimum and maximum, sign, compares and classification,
element by element within each active lane. -/

namespace Sys2Proof.Machine

/-- Element `i` of width `w` of a lane (R71). -/
def elem (w x i : Nat) : Nat := x / 2 ^ (w * i) % 2 ^ w

/-- A lane made of `n` elements of width `w`, with the union of the flags they raise; `f` gives element and flags. -/
def eachElem (w : Nat) (f : Nat → Nat × Nat) : Nat → Nat × Nat
  | 0 => (0, 0)
  | n + 1 =>
    let r := eachElem w f n
    let x := f n
    (r.1 + (x.1 % 2 ^ w) * 2 ^ (w * n), r.2 ||| x.2)

/-- What a float word computes on one element of its TYPE: from the elements of A, B and old D, the result and its flags. -/
abbrev FloatOp := Nat → Nat → Nat → Nat × Nat

/-- The packed form of a float operation on lanes of a TYPE (R126). -/
def packedOp (ty : Nat) (op : FloatOp) (a b d : Nat) : Nat × Nat :=
  let w := tyWidth ty
  eachElem w (fun i => op (elem w a i) (elem w b i) (elem w d i)) (perLane ty)

/-- An R-form float word (R131, R133): tags checked against TYPE, tag of TYPE written. -/
def fltR (fn : Fn) (w : RWord) (lat : Nat) (op : FloatOp) (s : State) : Host.Outcome State Fault Refusal :=
  runFixed fn (.r w) (fun _ => lat) (fun e => e.typeCheck (tagOf w.ty)) (fun e =>
    let r (l : Nat) : Nat × Nat := packedOp w.ty op (e.srcA false l) (e.srcB false l) (e.srcD false l)
    e.vecWr false w.d.toNat (tagOf w.ty) (fun l => (r l).1) ++ e.flagWr (e.lanesFlags (fun l => (r l).2))) s

/-- An I-form float word (R44, R131). -/
def fltI (fn : Fn) (w : IWord) (op : FloatOp) (s : State) : Host.Outcome State Fault Refusal :=
  let ty := w.modi.toNat
  runFixed fn (.i w) (fun _ => 6) (fun e => e.typeCheck (tagOf ty)) (fun e =>
    let r (l : Nat) : Nat × Nat := packedOp ty op (e.wp.lane false w.a.toNat l) (immFloat w.imm ty) 0
    e.vecWr false w.d.toNat (tagOf ty) (fun l => (r l).1) ++ e.flagWr (e.lanesFlags (fun l => (r l).2))) s

/-- RND of an R-form word. -/
def rndOf (w : RWord) : RMode := rmode (w.fld 17 16)

def execFadd (w : RWord) (s : State) : Host.Outcome State Fault Refusal :=
  fltR .fadd w 6 (fun a b _ => addF (fmtOf w.ty) (rndOf w) (w.mb 14) a b) s
def execFaddImm (w : IWord) (s : State) : Host.Outcome State Fault Refusal :=
  fltI .faddImm w (fun a b _ => addF (fmtOf w.modi.toNat) .rn false a b) s
def execFsub (w : RWord) (s : State) : Host.Outcome State Fault Refusal :=
  fltR .fsub w 6 (fun a b _ => subF (fmtOf w.ty) (rndOf w) (w.mb 14) a b) s
def execFmul (w : RWord) (s : State) : Host.Outcome State Fault Refusal :=
  fltR .fmul w 6 (fun a b _ => mulF (fmtOf w.ty) (rndOf w) (w.mb 14) a b) s
def execFmulImm (w : IWord) (s : State) : Host.Outcome State Fault Refusal :=
  fltI .fmulImm w (fun a b _ => mulF (fmtOf w.modi.toNat) .rn false a b) s
def execFma (w : RWord) (s : State) : Host.Outcome State Fault Refusal :=
  fltR .fma w 6 (fun a b d => fmaF (fmtOf w.ty) (rndOf w) (w.mb 14) a b d) s

/-- FMIN and FMAX (R134); PROP is XMOD[0]. -/
def execFmin (w : RWord) (s : State) : Host.Outcome State Fault Refusal :=
  fltR .fmin w 4 (fun a b _ => minMaxF (fmtOf w.ty) false (w.mb 0) a b) s
def execFmax (w : RWord) (s : State) : Host.Outcome State Fault Refusal :=
  fltR .fmax w 4 (fun a b _ => minMaxF (fmtOf w.ty) true (w.mb 0) a b) s

/-- The place of the sign bit of an element of TYPE. -/
def signPlace (ty : Nat) : Nat := 2 ^ (tyWidth ty - 1)

/-- FABS (R134): the sign bit of each element is cleared. -/
def execFabs (w : RWord) (s : State) : Host.Outcome State Fault Refusal :=
  fltR .fabs w 4 (fun a _ _ => (a % signPlace w.ty, 0)) s

/-- FNEG (R134): the sign bit of each element is inverted. -/
def execFneg (w : RWord) (s : State) : Host.Outcome State Fault Refusal :=
  fltR .fneg w 4 (fun a _ _ => (a ^^^ signPlace w.ty, 0)) s

/-- The compare of element `el` of two lanes (R135). -/
def floatCmp (ty cc el a b : Nat) : Bool × Nat :=
  let w := tyWidth ty
  floatCond cc (decodeF (fmtOf ty) (elem w a el)) (decodeF (fmtOf ty) (elem w b el))

/-- The 16-bit halves that elements `i` to `i + n − 1` of width `w` stand in: bit 0 the low half, bit 1 the high one
(R375). -/
def halvesUsed (w i n : Nat) : Nat :=
  (if w * i < 16 then 1 else 0) + (if 16 < w * (i + n) then 2 else 0)

/-- FCMP (R135). -/
def execFcmp (w : RWord) (s : State) : Host.Outcome State Fault Refusal :=
  let h := halvesUsed (tyWidth w.ty) (w.fld 2 0) 1
  runFixed .fcmp (.r w) (fun _ => 4) (fun e => firstTrap
      [tagTrap 1 (tagOf w.ty) e.sourcesA, tagTrap 2 (tagOf w.ty) e.sourcesB, badTrap e.act h e.sourcesA,
       badTrap e.act h e.sourcesB]) (fun e =>
    let r (l : Nat) : Bool × Nat := floatCmp w.ty (bits w.d.toNat 6 4) (w.fld 2 0) (e.srcA false l) (e.srcB false l)
    e.predWr (bits w.d.toNat 3 0) (fun l => (r l).1) ++ e.flagWr (e.lanesFlags (fun l => (r l).2))) s

/-- FCMP# (R135): element 0. -/
def execFcmpImm (w : IWord) (s : State) : Host.Outcome State Fault Refusal :=
  let ty := w.modi.toNat
  runFixed .fcmpImm (.i w) (fun _ => 4)
    (fun e => firstTrap [tagTrap 1 (tagOf ty) e.sourcesA, badTrap e.act (halvesUsed (tyWidth ty) 0 1) e.sourcesA]) (fun e =>
    let r (l : Nat) : Bool × Nat :=
      floatCmp ty (bits w.d.toNat 6 4) 0 (e.wp.lane false w.a.toNat l) (immFloat w.imm ty)
    e.predWr (bits w.d.toNat 3 0) (fun l => (r l).1) ++ e.flagWr (e.lanesFlags (fun l => (r l).2))) s

/-- The class bit of an element (R135). -/
def classBit (f : Fmt) (x : Nat) : Nat :=
  match decodeF f x with
  | .nan sig => if sig then 2 ^ 8 else 2 ^ 9
  | .inf neg => if neg then 2 ^ 0 else 2 ^ 7
  | .fin neg m _ =>
    let sub := x / 2 ^ f.mb % 2 ^ f.eb = 0
    if m = 0 then (if neg then 2 ^ 3 else 2 ^ 4)
    else if sub then (if neg then 2 ^ 2 else 2 ^ 5)
    else if neg then 2 ^ 1 else 2 ^ 6

/-- FCLASS (R135): the class of element ELEM as an I32. -/
def execFclass (w : RWord) (s : State) : Host.Outcome State Fault Refusal :=
  let h := halvesUsed (tyWidth w.ty) (w.fld 2 0) 1
  runFixed .fclass (.r w) (fun _ => 6)
    (fun e => firstTrap [tagTrap 1 (tagOf w.ty) e.sourcesA, badTrap e.act h e.sourcesA]) (fun e =>
    e.vecWr false w.d.toNat 1 (fun l => classBit (fmtOf w.ty) (elem (tyWidth w.ty) (e.srcA false l) (w.fld 2 0)))) s

end Sys2Proof.Machine
end

