-- ==== Sys2Proof/Machine/Convert.lean ====
section
/-! DEFINITION. The conversion class (R136 to R141, R76 to R78): conversions with the per-lane generators of stochastic
rounding, packing, block scales, quantising and dequantising, the special functions, and seeding. -/

namespace Sys2Proof.Machine

/-- A converted element: its bits, its flags, and the generator after it. -/
structure Conv where
  val : Nat
  fl : Nat
  g : Word
  deriving DecidableEq, Repr, Inhabited

/-- One element converted by RND or by SR with generator `g` (R76, R137): an exact result does not step it. -/
def convOne (ty rnd : Nat) (sr sat : Bool) (x : Num) (g : Word) : Conv :=
  if sr && convInexact ty x then
    let g' := xorshift g
    let r := convertNum ty (.sr (g'.toNat / 2 ^ 16)) sat x
    ⟨r.1, r.2, g'⟩
  else
    let r := convertNum ty (rmode rnd) sat x
    ⟨r.1, r.2, g⟩

/-- One element of type `src` converted to TYPE (R137). -/
def convElem (ty src rnd : Nat) (sr sat : Bool) (x : Nat) (g : Word) : Conv :=
  if tyFloat src then convOne ty rnd sr sat (decodeF (fmtOf src) x) g
  else if tyFloat ty then convOne ty rnd sr sat (intNum (intVal src (tyWidth src) x)) g
  else
    let r := convertInt ty src (rmode rnd) sat x
    ⟨r.1, r.2, g⟩

/-- `n` converted elements of width `wd`, in ascending order, the generator carried along. -/
def convRun (wd : Nat) (f : Nat → Word → Conv) (g : Word) : Nat → Conv
  | 0 => ⟨0, 0, g⟩
  | n + 1 =>
    let r := convRun wd f g n
    let x := f n r.g
    ⟨r.val + (x.val % 2 ^ wd) * 2 ^ (wd * n), r.fl ||| x.fl, x.g⟩

/-- A lane's conversion of `k` elements from element SSEL × k to element DSEL × k (R136); every other bit is 0. -/
def convLane (src ty ssel dsel k : Nat) (f : Nat → Word → Conv) (a : Nat) (g : Word) : Conv :=
  let ws := tyWidth src
  let wd := tyWidth ty
  let r := convRun wd (fun i g => f (elem ws a (ssel * k + i)) g) g k
  ⟨r.val * 2 ^ (wd * dsel * k), r.fl, r.g⟩

/-- A conversion word: `conv` converts a lane with its generator; the generators step at issue (R76). -/
def convWord (fn : Fn) (w : RWord) (lat : Nat) (dst : Bool) (check : Env → Option Trap) (conv : Env → Nat → Word → Conv)
    (s : State) : Host.Outcome State Fault Refusal :=
  runWord fn (.r w) (whenActive (fun e s =>
    match check e with
    | some t => .error t
    | none =>
      let rs := e.active.map (fun l => (l, conv e l (e.wp.genAt e.w l)))
      let val (l : Nat) : Nat := match rs.find? (fun r => r.1 == l) with
        | some r => r.2.val
        | none => 0
      let fl := rs.foldl (fun acc r => acc ||| r.2.fl) 0
      let s := if w.mb 15 then s.onWarp e.c e.w (fun x => rs.foldl (fun x r => x.setGen e.w r.1 r.2.g) x) else s
      .ok (e.retire s lat (e.vecWr dst w.d.toNat (tagOf w.ty) val ++ e.flagWr fl)))) s

/-- CVT (R136, R137). -/
def execCvt (w : RWord) (s : State) : Host.Outcome State Fault Refusal :=
  let src := w.fld 3 0
  let k := convK src w.ty
  convWord .cvt w 6 (wide w.ty) (fun e => firstTrap
      [tagTrap 1 (tagOf src) e.sourcesA, badTrap e.act (halvesUsed (tyWidth src) (w.fld 6 4 * k) k) e.sourcesA])
    (fun e l g => convLane src w.ty (w.fld 6 4) (w.fld 9 7) k
      (fun x g => convElem w.ty src (w.fld 17 16) (w.mb 15) (w.mb 14) x g) (e.srcA (wide src) l) g) s

/-- The tag of E8M0 scales (R80). -/
def tagE8M0 : BitVec 4 := 0xC

/-- QCVT (R140): A is F32, B an E8M0 scale. -/
def execQcvt (w : RWord) (s : State) : Host.Outcome State Fault Refusal :=
  convWord .qcvt w 8 false
    (fun e => firstTrap [tagTrap 1 (tagOf 8) e.sourcesA, tagTrap 2 tagE8M0 e.sourcesB,
      badTrap e.act 3 e.sourcesA, badTrap e.act 1 e.sourcesB])
    (fun e l g =>
      let x := decodeF (fmtOf 8) (e.srcA false l)
      convLane 8 w.ty 0 (w.fld 9 7) 1 (fun _ g =>
        let r := convOne w.ty (w.fld 17 16) (w.mb 15) (w.mb 14) (scaleDown x (e.srcB false l % 256)) g
        ⟨r.val, r.fl ||| sigFlag x, r.g⟩) 0 g) s

/-- The exact number of an element of any TYPE. -/
def numOf (ty x : Nat) : Num := if tyFloat ty then decodeF (fmtOf ty) x else intNum (intVal ty (tyWidth ty) x)

/-- DQCVT (R140): A is of SRCT, B an E8M0 scale. -/
def execDqcvt (w : RWord) (s : State) : Host.Outcome State Fault Refusal :=
  let src := w.fld 3 0
  let k := convK src w.ty
  convWord .dqcvt w 8 false
    (fun e => firstTrap [tagTrap 1 (tagOf src) e.sourcesA, tagTrap 2 tagE8M0 e.sourcesB,
      badTrap e.act (halvesUsed (tyWidth src) (w.fld 6 4 * k) k) e.sourcesA, badTrap e.act 1 e.sourcesB])
    (fun e l g => convLane src w.ty (w.fld 6 4) (w.fld 9 7) k (fun y g =>
        let x := numOf src y
        let r := convOne w.ty (w.fld 17 16) (w.mb 15) (w.mb 14) (scaleUp x (e.srcB false l % 256)) g
        ⟨r.val, r.fl ||| sigFlag x, r.g⟩) (e.srcA false l) g) s

/-- PACK (R138). -/
def execPack (w : RWord) (s : State) : Host.Outcome State Fault Refusal :=
  runFixed .pack (.r w) (fun _ => 6) (fun e => firstTrap
      [tagTrap 1 (tagOf w.ty) e.sourcesA, tagTrap 2 (tagOf w.ty) e.sourcesB, badTrap e.act 1 e.sourcesA,
       badTrap e.act 1 e.sourcesB])
    (fun e => e.vecWr false w.d.toNat (tagOf w.ty) (fun l => e.srcA false l % 2 ^ 16 + (e.srcB false l % 2 ^ 16) * 2 ^ 16)) s

/-- UNPACK (R138): half h is XMOD[0]. -/
def execUnpack (w : RWord) (s : State) : Host.Outcome State Fault Refusal :=
  runFixed .unpack (.r w) (fun _ => 6) (fun e => firstTrap
      [tagTrap 1 (tagOf w.ty) e.sourcesA, badTrap e.act (if w.mb 0 then 2 else 1) e.sourcesA])
    (fun e => e.vecWr false w.d.toNat (tagOf w.ty) (fun l => elem 16 (e.srcA false l) (w.fld 0 0))) s

/-- SCALE (R140): the E8M0 code of an F32 value. DESIGN CHOICE (log 119): a signalling NaN sets no flag. -/
def execScale (w : RWord) (s : State) : Host.Outcome State Fault Refusal :=
  runFixed .scale (.r w) (fun _ => 6) (fun e => firstTrap [tagTrap 1 (tagOf 8) e.sourcesA, e.badCheck])
    (fun e => e.vecWr false w.d.toNat tagE8M0 (fun l => scaleCode w.ty (decodeF (fmtOf 8) (e.srcA false l)))) s

/-- The latency of class XRED (R50). -/
def xredLat (e : Env) : Nat := if e.width = 16 then 8 else if e.width = 32 then 10 else 12

/-- The largest magnitude of a list of numbers as an F32 encoding, the canonical NaN if one is NaN, with NV for a
signalling one (R140, R127). -/
def maxMagnitude (xs : List Num) : Nat × Nat :=
  let fl := xs.foldl (fun acc x => acc ||| sigFlag x) 0
  if xs.any isNaN then (0x7FC00000, fl) else (enc32 (xs.foldl maxMag (.fin false 0 0)), fl)

/-- AMAX (R140): across the active lanes of the warp. -/
def execAmax (w : RWord) (s : State) : Host.Outcome State Fault Refusal :=
  runFixed .amax (.r w) xredLat (fun e => firstTrap [tagTrap 1 (tagOf w.ty) e.sourcesA, e.badCheck]) (fun e =>
    let xs := (e.active.map (fun l => (List.range (perLane w.ty)).map (fun i =>
      decodeF (fmtOf w.ty) (elem (tyWidth w.ty) (e.srcA false l) i)))).flatten
    let r := maxMagnitude xs
    e.vecWr false w.d.toNat 6 (fun _ => r.1) ++ e.flagWr r.2) s

/-- A special function (R141). -/
def specWord (fn : Fn) (w : RWord) (f : RMode → Bool → Nat → Nat × Nat) (s : State) : Host.Outcome State Fault Refusal :=
  fltR fn w 18 (fun a _ _ => f (rndOf w) (w.mb 14) a) s

def execExp2 (w : RWord) (s : State) : Host.Outcome State Fault Refusal := specWord .exp2 w exp2F s
def execLog2 (w : RWord) (s : State) : Host.Outcome State Fault Refusal := specWord .log2 w log2F s
def execRcp (w : RWord) (s : State) : Host.Outcome State Fault Refusal := specWord .rcp w rcpF s
def execRsq (w : RWord) (s : State) : Host.Outcome State Fault Refusal := specWord .rsq w rsqF s
def execSqrt (w : RWord) (s : State) : Host.Outcome State Fault Refusal := specWord .sqrt w sqrtF s

/-- SRSEED (R78): the generators are set at issue; it completes at t + 6. -/
def execSrseed (w : RWord) (s : State) : Host.Outcome State Fault Refusal :=
  runWord .srseed (.r w) (whenActive (fun e s =>
    match e.badCheck with
    | some t => .error t
    | none =>
      let s := s.onWarp e.c e.w (fun x => e.active.foldl (fun x l =>
        let a := e.srcA false l
        x.setGen e.w l (if a = 0 then 0x9E3779B9 else BitVec.ofNat 32 a)) x)
      .ok (e.retire s 6 []))) s

end Sys2Proof.Machine
end

