-- ==== Sys2Proof/Machine/Mem.lean ====
section
/-! DEFINITION. The memory class (R146 to R164): loads and stores of every tier, gathers and scatters, non-faulting loads,
page requests, prefetches, the weight store and the local atomics; the checks of R152 with their hold (R153), the commit
rules (R154), and the completion of the accesses (R151). -/

namespace Sys2Proof.Machine

/-! Addresses. -/

/-- The access size in bytes of an address-mould word. -/
def msize (w : RWord) : Nat := 2 ^ bits w.mod.toNat 21 19

/-- The sign-extended OFF of an address-mould word. -/
def moff (w : RWord) : Int := sgn 8 (bits w.mod.toNat 7 0)

/-- The sum of R147: base, index shifted by SCL, and offset in units of the size, modulo 2^`bw`. -/
def mouldSum (bw base : Nat) (idx : Int) (scl : Nat) (off : Int) (size : Nat) : Word64 :=
  BitVec.ofNat 64 ((((base : Int) + idx * (2 ^ scl : Nat) + off * (size : Nat)) % (2 ^ bw : Nat)).toNat)

/-- The address that lane `l` of an address-mould word forms (R147). -/
def Env.mouldAddr (e : Env) (w : RWord) (base64 : Bool) (size : Nat) (off : Int) (l : Nat) : Word64 :=
  let idx : Int := if w.mb 14 then sgn 32 (e.srcB false l) else 0
  mouldSum (if base64 then 64 else 32) (e.srcA base64 l) idx (w.fld 17 15) off size

/-! Tiles and ranges of bytes (R92, R142). -/

/-- The descriptor of R142. -/
structure TileDesc where
  bf16 : Bool
  sck : Bool
  cols : Nat
  rows : Nat
  deriving DecidableEq, Repr, Inhabited

/-- The descriptor in an S register, or none for QSHAPE (R142). -/
def tileDesc (ty : Nat) (x : Word) : Option TileDesc :=
  let v := x.toNat
  if bits v 31 21 ≠ 0 ∨ bits v 19 17 ≠ 0 then none
  else if bit v 16 ∧ ¬ (ty = 11 ∨ ty = 12 ∨ ty = 13) then none
  else some { bf16 := bit v 20, sck := bit v 16, cols := bits v 15 8, rows := bits v 7 0 }

/-- Elements, payload bytes, and the offset of the trailer (R92, R142). -/
def TileDesc.count (d : TileDesc) : Nat := (d.rows + 1) * 32 * (d.cols + 1)
def TileDesc.payload (d : TileDesc) (ty : Nat) : Nat := d.count * tyWidth ty / 8 + if d.sck then d.count / 32 else 0
def TileDesc.trailerAt (d : TileDesc) (ty : Nat) : Nat := (d.payload ty + 15) / 16 * 16
/-- The bytes of scratchpad that a lane's elements take. -/
def TileDesc.source (d : TileDesc) : Nat := d.count * if d.bf16 then 2 else 4

/-- A range of bytes cut at 64-byte boundaries. -/
def sectorCuts : Nat → Nat → Nat → List (Nat × Nat)
  | 0, _, _ => []
  | f + 1, a, n =>
    if n = 0 then []
    else
      let m := 64 - a % 64
      let k := if n < m then n else m
      (a, k) :: sectorCuts f (a + k) (n - k)

/-- The pieces of a range within sectors. -/
def pieces (a n : Nat) : List (Nat × Nat) := sectorCuts (n / 64 + 2) a n

/-- The first address of each page that a range meets. -/
def pageStarts (a n : Nat) : List Nat :=
  if n = 0 then [a] else a :: (List.range ((a + n - 1) / 2 ^ 16 - a / 2 ^ 16)).map (fun i => (a / 2 ^ 16 + 1 + i) * 2 ^ 16)

/-- The descriptor that an STQ or LDQ captured. -/
def opDesc (o : Op) (ty : Nat) : TileDesc :=
  (tileDesc ty (((o.args[0]?).getD 0).setWidth 32)).getD ⟨false, false, 0, 0⟩

/-! The checks of R152. -/

/-- Where an instruction's accesses go: through the page tables, to the scratchpad, or to the weight store. -/
inductive Space where
  | paged
  | scratch
  | weight
  deriving DecidableEq, Repr, Inhabited

/-- The space of a memory function. -/
def spaceOf (f : Fn) : Space :=
  match f with
  | .lds | .sts | .atoms => .scratch
  | .ldW => .weight
  | _ => .paged

/-- What a memory function needs of a page (R392). -/
def needOf (f : Fn) : Need :=
  match f with
  | .st | .stg | .stRel | .shst => .write
  | .atom | .atomg | .sigAdd | .sigSet => .both
  | _ => .read

/-- Whether a function is an atomic on HBM (R163, R293). -/
def isAtomic (f : Fn) : Bool := f == .atom || f == .atomg

/-- The bytes that one lane of a memory operation accesses. -/
def opSize (o : Op) : Nat :=
  match o.body with
  | .r w =>
    match o.fn with
    | .atom | .atomg | .atoms => tyWidth w.ty / 8
    | .shld | .shst => 128
    | .sigAdd | .sigWait | .sigRd | .sigSet => 8
    | .colRs | .colAg | .grpForm => 64
    | .xchPush | .replay => 32
    | _ => 2 ^ w.fld 21 19
  | _ => 1

/-- What the checks find in a lane: nothing, a MIGRATING page to wait for (R395), or a cause with its priority in R152
and whether a page request is posted for it (R394). -/
inductive LaneCheck where
  | ok
  | wait
  | bad (prio : Nat) (cause : Cause) (post : Bool)
  deriving DecidableEq, Repr, Inhabited

/-- The die of a core (R12). -/
def dieOf (c : Nat) : Nat := c / 16

/-- The outcome of translating for an access of core `c`: the checks of page, protection and region, in that order
(R392, R312). `late` tells that a wait for a MIGRATING page has timed out, and `held` is the cluster's held list at issue. -/
def State.pageCheck (s : State) (c asid va : Nat) (need : Need) (ho atomic late : Bool) (held : List Nat) : LaneCheck :=
  let outside (leaf : Nat) : Bool := atomic && leafTy leaf != 0
  match s.xlate (s.core c).tlb asid va with
  | .invalid => .bad 5 .pageFault false
  | .notres leaf => if outside leaf then .bad 4 .atomSpace false else .bad 5 .pageFault true
  | .migrating leaf =>
    if outside leaf then .bad 4 .atomSpace false else if late then .bad 5 .pageFault false else .wait
  | .ok leaf _ _ =>
    if outside leaf then .bad 4 .atomSpace false
    else if !permits leaf need ho then .bad 6 .protFault false
    else if !regionIn held leaf then .bad 7 .regionFault false
    else .ok

/-- Whether an address stands in a page that is MIGRATING (R395). -/
def State.migratingAt (s : State) (c va : Nat) : Bool :=
  match s.xlate (s.core c).tlb (s.core c).asid va with
  | .migrating _ => true
  | _ => false

/-- The checks of R152 on one address of `size` bytes. A lane of LD.NF in a valid page that is not resident, or still MIGRATING when
its wait ends, is not loaded (R157). -/
def State.laneCheck (s : State) (c : Nat) (f : Fn) (ho late : Bool) (held : List Nat) (size : Nat) (addr : Word64) : LaneCheck :=
  let k := s.core c
  if addr.toNat % size ≠ 0 then .bad 2 .alignFault false
  else
    match spaceOf f with
    | .scratch => if k.kernel.scratch < addr.toNat + size then .bad 3 .scratchRange false else .ok
    | .weight =>
      if 0x20000000 < addr.toNat + size ∨ ¬ (s.ctx k.asid).wsgrant.testBit (dieOf c) then .bad 3 .wsRange false else .ok
    | .paged =>
      match s.pageCheck c k.asid addr.toNat (needOf f) ho (isAtomic f) late held with
      | .bad p cause post =>
        if (f = .ldNf ∧ (post ∨ (late ∧ s.migratingAt c addr.toNat ∧ cause = .pageFault))) ∨ (cause = .regionFault ∧ (f = .sigAdd ∨ f = .sigWait ∨ f = .sigRd ∨ f = .sigSet)) then .ok
        else .bad p cause post
      | r => r

/-- What the checks of a list of lanes find together (R152): whether one must wait; else the trap of highest priority
with the lanes that found it, or none. -/
def checkTrap (xs : List (Nat × Word64 × LaneCheck)) : Option Trap :=
  let best := xs.foldl (fun acc x => match x.2.2 with
    | .bad p _ _ => if p < acc then p else acc
    | _ => acc) 99
  let hit := xs.filterMap (fun x => match x.2.2 with
    | .bad p c _ => if p = best then some (x.1, x.2.1, c) else none
    | _ => none)
  match hit with
  | [] => none
  | (_, a, c) :: _ => some { cause := c, addr := a, fmask := lanesOf (hit.map (·.1)) }

/-- Posting a page request to the MMP (R394, R396): requests of one kind for one page are merged. -/
def State.post (s : State) (asid va : Nat) (kind : Option Need) (ho : Bool) (ws : List Waiter) : State :=
  let page := va / 2 ^ 16 * 2 ^ 16
  let same (r : PageReq) : Bool := r.asid == asid && r.va == page && r.kind == kind && r.ho == ho
  if s.mmpq.any same then
    { s with mmpq := s.mmpq.map (fun r => if same r then { r with waiters := r.waiters ++ ws } else r) }
  else { s with mmpq := s.mmpq ++ [{ asid, va := page, kind, ho, waiters := ws }] }

/-- The translations of a list of addresses, kept with the operation they were found for. -/
def State.capture (s : State) (c asid : Nat) (vas : List Nat) : List TlbEntry :=
  vas.foldl (fun acc va => tlbAdd acc 4096 asid (s.xlate (s.core c).tlb asid va)) []

/-- A core's TLB filled with the translations that the checks of an operation found, its walk cache with the table entries above
them (R393), and the Bloom filter of a C48 context with them (R400). -/
def State.fillTlb (s : State) (c asid : Nat) (vas : List Nat) : State :=
  vas.foldl (fun s va =>
    let x := s.walk asid va
    s.onCore c (fun k =>
      let tables := match x with
        | .ok _ _ _ => tablesFrom s.hbm asid va 4 (s.ctx asid).root
        | _ => []
      let tlb := tlbAdd (tables.foldl tableAdd k.tlb) 2048 asid x
      let bloom := match x with
        | .ok _ base _ =>
          if (s.ctx asid).c48 then (bloomBits base).foldl (fun m b => m.put b true false) k.bloom else k.bloom
        | _ => k.bloom
      { k with tlb, bloom })) s

/-! Issue. -/

/-- The destination registers of a word (R52). -/
def Env.destRegs (e : Env) : List Reg :=
  let f := formOf e.fn e.body
  fieldRegs e.st e.w f.d 0 (dOf e.body) ++ (f.extra.filter (fun x => x.1 == .p)).map (fun x => ⟨.p, e.w, x.2⟩)

/-- What an earlier, partly performed run of the word that now issues left for its retry (R154, R247). -/
def Env.retry (e : Env) : Option Replay :=
  e.k.replays.find? (fun r => r.party == e.party && r.slot == e.slot && r.pc == e.pc && !e.handler &&
    r.kv == (e.fn == .kldK || e.fn == .kldV))

/-- A core without what was kept for the retry of a word; KVPROG.VALID goes with the retry of a KLD (R252). -/
def Core.dropReplay (k : Core) (p : Party) (slot : Nat) : Core :=
  let mine (r : Replay) : Bool := r.party == p && r.slot == slot
  let k := if k.replays.any (fun r => mine r && r.kv) then k.putSys [(0x00E, k.sysReg 0x00E &&& 0x7FFFFFFFFFFFFFFF)] else k
  { k with replays := k.replays.filter (fun r => !mine r) }

/-- The core after a word that needs its retry no longer; a handler's words leave the retries alone (R154). -/
def Env.retried (e : Env) (k : Core) : Core := if e.handler then k else k.dropReplay e.party e.slot

/-- A meaning that acts only when a lane is active, of a word that may be a retry: with none it issues, and what was kept for the
retry is kept no longer (R45, R154, R252). -/
def whenRetried (k : Meaning) : Meaning := fun e s =>
  if e.act = 0 then .ok ((e.retire s 1 []).onCore e.c e.retried) else k e s

/-- Launching an operation whose checks hold its stream at the word (R153): the pc stays at it until they end. -/
def Env.launchHeld (e : Env) (s : State) (f : Op → Op) : State :=
  let id := s.opId
  let s := e.goto s e.pc (e.clk + 1 + e.ctl.stall.toNat)
  let s := holdSite s e.c e.party e.slot e.handler (some id)
  (e.launchOp s .check f).onCore e.c e.retried

/-- The registers of store data checked against a tag other than RAW (R148, R152). -/
def typedStore (w : RWord) (e : Env) (addr : Nat → Word64) (act : Lanes) : Option Trap :=
  let tag : BitVec 4 := BitVec.ofNat 4 (w.fld 13 10)
  if tag = 0 then none
  else
    match tagTrap 0 tag e.sourcesD with
    | some t => some { t with fmask := act, addr := match e.lanes.find? (fun l => act.getLsbD l) with
        | some l => addr l
        | none => 0 }
    | none => none

/-- An address-mould load, store, gather or scatter (R146 to R156). -/
def mouldWord (fn : Fn) (w : RWord) (store base64 : Bool) (s : State) : Host.Outcome State Fault Refusal :=
  let off := match fn with
    | .ldNf => 0
    | .ldAcq | .stRel => sgn 7 (w.fld 6 0)
    | _ => moff w
  runWord fn (.r w) (whenRetried (fun e s =>
    let rep := e.retry
    let act := match rep with
      | some r => e.act &&& ~~~r.done
      | none => e.act
    let addr (l : Nat) : Word64 := match rep with
      | some r => (r.addr.find l).getD (e.mouldAddr w base64 (msize w) off l)
      | none => e.mouldAddr w base64 (msize w) off l
    let lanes := e.lanes.filter (fun l => act.getLsbD l)
    let words := ((msize w) + 3) / 4
    let bad := firstTrap [badTrap act 3 e.sourcesA, badTrap act 3 e.sourcesB,
      if store then badTrap act (if (msize w) = 1 then 1 else if (msize w) = 2 then 1 else 3) e.sourcesD else none]
    match (if store then typedStore w e addr act else none) with
    | some t => .error t
    | none =>
      match bad with
      | some t => .error t
      | none =>
        if act = 0 then .ok ((e.retire s 1 []).onCore e.c e.retried)
        else
          .ok (e.launchHeld s (fun o =>
            { o with
              lanes := act, todo := act, dests := if store then [] else e.destRegs, again := rep.isSome,
              done := match rep with
                | some r => r.done
                | none => 0,
              addr := lanes.map (fun l => (l, addr l)),
              data := if store then (lanes.map (fun l => (List.range words).map (fun j =>
                (4 * l + j, (e.wp.vreg (w.d.toNat + j)).lane l)))).flatten else [] })))) s

def execLd (w : RWord) (s : State) : Host.Outcome State Fault Refusal := mouldWord .ld w false true s
def execSt (w : RWord) (s : State) : Host.Outcome State Fault Refusal := mouldWord .st w true true s
def execLdg (w : RWord) (s : State) : Host.Outcome State Fault Refusal := mouldWord .ldg w false true s
def execStg (w : RWord) (s : State) : Host.Outcome State Fault Refusal := mouldWord .stg w true true s
def execLdNf (w : RWord) (s : State) : Host.Outcome State Fault Refusal := mouldWord .ldNf w false true s
def execLds (w : RWord) (s : State) : Host.Outcome State Fault Refusal := mouldWord .lds w false false s
def execSts (w : RWord) (s : State) : Host.Outcome State Fault Refusal := mouldWord .sts w true false s
def execLdW (w : RWord) (s : State) : Host.Outcome State Fault Refusal := mouldWord .ldW w false false s

/-- The operand words of an atomic captured at issue: B under 4 l and 4 l + 1, D for CAS under 4 l + 2 and 4 l + 3. -/
def atomData (e : Env) (g cas : Bool) : FMap Word :=
  (e.active.map (fun l =>
    let b := e.srcB g l
    let d := if cas then e.srcD g l else 0
    [(4 * l, BitVec.ofNat 32 b), (4 * l + 1, BitVec.ofNat 32 (b / 2 ^ 32)), (4 * l + 2, BitVec.ofNat 32 d),
     (4 * l + 3, BitVec.ofNat 32 (d / 2 ^ 32))])).flatten

/-- ATOM and ATOMS (R162, R163). -/
def atomWord (fn : Fn) (w : RWord) (base64 : Bool) (s : State) : Host.Outcome State Fault Refusal :=
  let g := wide w.ty
  let size := tyWidth w.ty / 8
  let cas := w.fld 17 14 == 4
  runWord fn (.r w) (whenActive (fun e s =>
    let addr (l : Nat) : Word64 :=
      mouldSum (if base64 then 64 else 32) (e.srcA base64 l) 0 0
        (if fn = .atomg then sgn 4 (w.fld 3 0) else sgn 9 (w.fld 8 0)) size
    let trap := match firstTrap [if cas then tagTrap 0 (tagOf w.ty) e.sourcesD else none,
        tagTrap 2 (tagOf w.ty) e.sourcesB] with
      | some t => some { t with fmask := e.act, addr := match e.active with
          | l :: _ => addr l
          | [] => 0 }
      | none => e.badCheck
    match trap with
    | some t => .error t
    | none =>
      .ok (e.launchHeld s (fun o =>
        { o with todo := e.act, dests := e.destRegs, addr := e.active.map (fun l => (l, addr l)), data := atomData e g cas }))))
    s

def execAtom (w : RWord) (s : State) : Host.Outcome State Fault Refusal := atomWord .atom w true s
def execAtoms (w : RWord) (s : State) : Host.Outcome State Fault Refusal := atomWord .atoms w false s

/-- The address of a word of PGREQ or PREF: a size of 1; in the access stream the base alone with OFF (R157). -/
def Env.byteAddr (e : Env) (w : RWord) (l : Nat) : Word64 := e.mouldAddr w true 1 (moff w) l

/-- PGREQ (R157): a request for the page of each active lane. With W it stays in flight until they are resolved. -/
def execPgreq (w : RWord) (s : State) : Host.Outcome State Fault Refusal :=
  runVariableThen .pgreq (.r w) Env.badCheck
    (fun e o => { o with todo := if w.mb 8 then e.act else 0, dests := e.destRegs })
    (fun e id s => e.active.foldl (fun s l =>
      let ws : List Waiter := if w.mb 8 then [⟨e.c, id, l⟩] else []
      s.post e.blk.asid (e.byteAddr w l).toNat none e.handler ws) s) s

/-- PREF (R157): completes at t + 1; a sector that cannot be read, or that no memory holds, does nothing. -/
def execPref (w : RWord) (s : State) : Host.Outcome State Fault Refusal :=
  runWord .pref (.r w) (whenActive (fun e s =>
    match e.badCheck with
    | some t => .error t
    | none =>
      let s := e.active.foldl (fun s l =>
        let va := (e.byteAddr w l).toNat
        match s.xlate (s.core e.c).tlb e.blk.asid va with
        | .ok leaf base _ =>
          if permits leaf .read e.handler && s.regionOk (clusterOf e.c) leaf then
            match placeOf leaf base va with
            | .hbm pa => if pa / 64 * 64 + 64 ≤ hbmTop then (s.loadAt e.c (w.fld 9 8) leaf (.hbm (pa / 64 * 64)) 64).2 else s
            | p => s.fetchL2 e.c leaf p
          else s
        | _ => s) s
      .ok (e.retire s 1 []))) s

/-- WSREF (R161): the clocks to the next refresh window, or the clocks left of this one; completes at t + 4. -/
def refreshPhase (clk die : Nat) : Nat := (clk + 9750 - 1625 * die % 9750) % 9750

def execWsref (w : RWord) (s : State) : Host.Outcome State Fault Refusal :=
  runFixed .wsref (.r w) (fun _ => 4) (fun _ => none) (fun e =>
    let ph := refreshPhase e.clk (dieOf e.c)
    if ph < 320 then [.s e.w w.d.toNat 0, .s e.w (w.d.toNat + 1) (BitVec.ofNat 32 (320 - ph))]
    else [.s e.w w.d.toNat (BitVec.ofNat 32 (9750 - ph)), .s e.w (w.d.toNat + 1) 320]) s

/-! The end of the checks (R153, R154). -/

/-- The stream instance of an operation released at the next word. -/
def releaseSite (s : State) (c : Nat) (o : Op) : State :=
  let s := holdSite s c o.party o.slot o.handler none
  let pc := o.pc + 12
  match o.party with
  | .access w => s.onWarp c w (fun x => { x with acc := { x.acc with apc := pc } })
  | .matrix => s.onCore c (fun k => { k with mst := { k.mst with mpc := pc } })
  | .compute w =>
    if o.handler then
      s.onCore c (fun k => match k.halt with
        | some h => { k with halt := some { h with handler := h.handler.map (fun x => { x with pc := pc }) } }
        | none => k)
    else
      s.onWarp c w (fun x => match x.splits.find o.slot with
        | some p => { x with splits := x.splits.set o.slot { p with pc := pc } }
        | none => x)

/-- An operation that takes no effect: it leaves, its counter falls, and its stream stands at its word again (R364,
R429). A retry that governed it still does (R154), and the operations that its class held back behind it retire (R209). -/
def dropOp (s : State) (c : Nat) (o : Op) : State :=
  let s := holdSite s c o.party o.slot o.handler none
  s.onCore c (fun k =>
    let k := { k with ops := k.ops.filter (fun x => x.id != o.id) }.flagDown o.party o.flag
    let k := if o.again && !o.handler then
        { k with replays := k.replays ++ [{ party := o.party, slot := o.slot, pc := o.pc, done := o.done, addr := o.addr }] }
      else k
    match o.eng with
    | some g =>
      let x := k.warp (partyWarp o.party)
      (k.setWarp (partyWarp o.party) { x with eng := x.eng.put g (x.eng.get g 0 - 1) 0 }).retireEngine
        (partyWarp o.party) g k.ops
    | none => k)

/-- Whether a trap found now for a stream instance would be taken: no halt stands, or the handler itself runs it, or the
halt was found in this clock by a later instance (R363, R364). -/
def takesTrap (s : State) (c : Nat) (o : Op) : Bool :=
  match (s.core c).halt with
  | none => true
  | some h => o.handler || (h.found == s.clk && !h.entered &&
      (h.trap.cause == .preempt || decide (partyRank o.party < partyRank h.party)))

/-- The operation ends with a trap at its word. -/
def trapOp (s : State) (c : Nat) (o : Op) (t : Trap) : State :=
  raiseAt (dropOp s c o) c o.party o.slot o.pc o.handler 7 t

/-- An operation of which every lane that could be performed has been: it completes; or, where other lanes failed their checks, the
performed lanes are committed, and the trap of the others is raised (R154). -/
def finishOp (s : State) (c : Nat) (o : Op) (wrs : List Wr) : State :=
  match o.fail with
  | none => completeOp s c o wrs
  | some t =>
    let done := o.done ||| o.lanes
    trapOp (s.onCore c (fun k => k.landAll s.clk o.party wrs)) c { o with again := true, done } { t with done }

/-- An operation with failed lanes whose trap would not be taken now: no lane of it is performed (R364, R429). -/
def untaken (s : State) (c : Nat) (o : Op) : Option Trap := if takesTrap s c o then none else o.fail

/-- The lanes `good` passed their checks, and the others hold the trap back until those are performed; with none of them it is
raised at once. -/
def commitThenTrap (s : State) (c : Nat) (o : Op) (good : List Nat) (t : Trap) : State :=
  if takesTrap s c o then
    (if good = [] then trapOp s c { o with again := true } { t with done := o.done }
     else s.setOp c { o with stage := .go, lanes := lanesOf good, fail := some t })
  else trapOp s c o t

/-! The accesses. -/

/-- The lanes of an operation, rising. -/
def opLanes (o : Op) : List Nat := (List.range 64).filter (fun l => o.lanes.getLsbD l)

/-- Where an address of an operation lies: by the translation that its checks found (R399), else as it is found now. -/
def State.opPlace (s : State) (c : Nat) (o : Op) (va : Nat) : Option (Nat × Place) :=
  match s.xlate (o.xl ++ (s.core c).tlb) (s.core c).asid va with
  | .ok leaf base _ => some (leaf, placeOf leaf base va)
  | _ => none

/-! Order (R150, R285, R286, R297). -/

/-- The lanes of an operation whose addresses lie in a window (R155). -/
def windowLanes (s : State) (c : Nat) (o : Op) : Lanes :=
  maskOf 64 64 (fun l => o.lanes.getLsbD l && (match s.opPlace c o (o.addr.get l 0).toNat with
    | some (_, .window _ _) => true
    | _ => false))

/-- What an operation is in the rules of order. -/
structure Access where
  rd : Bool
  wr : Bool
  acq : Bool := false
  rel : Bool := false
  deriving DecidableEq, Repr, Inhabited

/-- ORD of an ATOMG (R293). -/
def ordOf (b : Body) : Nat := match b with
  | .r w => w.fld 5 4
  | _ => 0

/-- The accesses of an operation in flight: none for what the rules of order do not call an access of its stream. A wait for a
token, a flag, a record or a collective is an acquire (R310, R331, R337), and a RELR a release (R311). -/
def accessOf (o : Op) : Option Access :=
  match o.fn with
  | .ld | .ldNf | .ldg | .lds | .ldW | .shld | .qld | .qldg | .mmaV | .tld => some ⟨true, false, false, false⟩
  | .st | .stg | .sts | .shst | .tst | .tcvt => some ⟨false, true, false, false⟩
  | .atom | .atoms | .stq | .ldq => some ⟨true, true, false, false⟩
  | .ldAcq | .sigRd | .sigWait => some ⟨true, false, true, false⟩
  | .stRel | .sigSet => some ⟨false, true, false, true⟩
  | .sigAdd => some ⟨true, true, false, true⟩
  | .atomg => some ⟨true, true, (ordOf o.body).testBit 0, (ordOf o.body).testBit 1⟩
  | .acqr | .mflagWait | .mqPop | .colWait => some ⟨false, false, true, false⟩
  | .relr => some ⟨false, false, false, true⟩
  | .grpForm | .colRs | .colAg => if o.stage = .check then some ⟨true, false, false, false⟩ else none
  | _ => none

/-- Where the bytes lie that an operation touches; `unknown` while an address has no translation. -/
inductive Tier where
  | scratch
  | weight
  | hbm
  | host
  | window (m : Nat)
  | unknown
  deriving DecidableEq, Repr, Inhabited

/-- `n` bytes from `lo` on. -/
structure Span where
  tier : Tier
  lo : Nat
  n : Nat
  deriving DecidableEq, Repr, Inhabited

/-- Whether two ranges of bytes meet. One whose translation is not known yet is compared by its place in a page. -/
def Span.meets (x y : Span) : Bool :=
  let near (a b : Tier) : Bool := a == .scratch || a == .weight || b == .scratch || b == .weight
  if x.tier = y.tier ∧ x.tier ≠ .unknown then decide (x.lo < y.lo + y.n) && decide (y.lo < x.lo + x.n)
  else if (x.tier = .unknown ∨ y.tier = .unknown) ∧ ¬ near x.tier y.tier then
    decide (x.lo % 2 ^ 16 < y.lo % 2 ^ 16 + y.n) && decide (y.lo % 2 ^ 16 < x.lo % 2 ^ 16 + x.n)
  else false

/-- The bytes of one page that an operation touches at an address. -/
def State.spanAt (s : State) (c : Nat) (o : Op) (va n : Nat) : Span :=
  match s.opPlace c o va with
  | some (_, .hbm pa) => ⟨.hbm, pa, n⟩
  | some (_, .host pa) => ⟨.host, pa, n⟩
  | some (_, .window m off) => ⟨.window m, off, n⟩
  | none => ⟨.unknown, va, n⟩

/-- The bytes that an operation touches (R150). -/
def State.spansOf (s : State) (c : Nat) (o : Op) : List Span :=
  match o.fn, o.body with
  | .mmaV, _ | .tld, _ | .tst, _ | .tcvt, _ => o.spans.map (fun x => ⟨.scratch, x.1, x.2⟩)
  | .acqr, _ | .relr, _ | .mflagWait, _ | .mqPop, _ | .colWait, _ => []
  | .stq, .r w | .ldq, .r w =>
    let d := opDesc o w.ty
    ((opLanes o).map (fun l =>
      (⟨.scratch, (o.data.get l 0).toNat, if o.fn = .stq then d.source else d.payload w.ty⟩ : Span) ::
        (pieces (o.addr.get l 0).toNat (d.trailerAt w.ty + 16)).map (fun p => s.spanAt c o p.1 p.2))).flatten
  | _, _ =>
    match spaceOf o.fn with
    | .scratch => o.addr.map (fun e => ⟨.scratch, e.2.toNat, opSize o⟩)
    | .weight => o.addr.map (fun e => ⟨.weight, e.2.toNat, opSize o⟩)
    | .paged => o.addr.map (fun e => s.spanAt c o e.2.toNat (opSize o))

/-- Whether two operations of a core touch a common byte. -/
def State.overlap (s : State) (c : Nat) (a b : Op) : Bool :=
  (s.spansOf c a).any (fun x => (s.spansOf c b).any x.meets)

/-- The scope that a release or acquire names. -/
def scopeOf (o : Op) : Nat := match o.fn, o.body with
  | .ldAcq, .r w | .stRel, .r w => w.fld 9 7
  | .atomg, .r w => w.fld 8 6
  | .sigAdd, .r w | .sigSet, .r w | .sigRd, .r w | .sigWait, .r w => w.fld 21 19
  | _, _ => 4

/-- A release at WARP or BLOCK scope asks of earlier accesses no more than to be performed at the core (R291); where the publish
directory has no room for it, it is performed at PACKAGE scope (R289). -/
def State.narrow (s : State) (c : Nat) (o : Op) : Bool :=
  decide (scopeOf o < 2) && (opLanes o).all (fun l => match s.opPlace c o (o.addr.get l 0).toNat with
    | some (_, .hbm pa) => decide ((s.dir.get (home pa) []).length < 64)
    | _ => true)

/-- The number below which the operations of stream instance `q` are acquired by barrier waits of `p` (R297), and the same of what its
fences carry onward (R291). -/
def markKey (p q : Party) : Nat := 128 * partyRank p + partyRank q
def Core.seen (k : Core) (p q : Party) : Nat := k.marks.get (markKey p q) 0

/-- The number below which the compute stream's operations come before the queue loads of a warp's access stream (R194). -/
def Core.popped (k : Core) (p q : Party) : Nat :=
  match p, q with
  | .access w, .compute v => if w = v then (k.warp w).acc.qmark else 0
  | _, _ => 0

/-- Whether an earlier operation of the core must be complete before a later one is performed: preserved order within a
stream (R285), the same address in a stream (R150), what a barrier wait acquired (R297), what a fence carries (R291), the order of the
streams of a warp through a back queue (R194), and, for any access of the core, a store that has been performed at the core alone. -/
def State.before (s : State) (c : Nat) (e o : Op) : Bool :=
  match accessOf e, accessOf o with
  | some a, some b =>
    let k := s.core c
    let own := e.party == o.party
    let seen := decide (e.id < k.seen o.party e.party)
    let rel := b.rel && !(e.near && s.narrow c o)
    (own && ((a.rd && b.wr) || a.acq || rel)) || (seen && rel) ||
      (b.wr && (decide (e.id < k.fmarks.get (markKey o.party e.party) 0) ||
        (!e.near && decide (e.id < k.nmarks.get (markKey o.party e.party) 0)))) ||
      ((own || seen || e.near || decide (e.id < k.popped o.party e.party)) && s.overlap c e o)
  | _, _ => false

/-- Whether an operation may be performed now: nothing that must come before it remains. -/
def State.mayPerform (s : State) (c : Nat) (o : Op) : Bool :=
  (s.core c).ops.all (fun e => !decide (e.id < o.id) || e.stage == .done || !s.before c e o)

/-- Whether a store whose checks have passed goes to HBM, the scratchpad or host memory, so that it can be performed at the core before
it reaches its home; a window access never is (R291). -/
def State.storePath (s : State) (c : Nat) (e : Op) : Bool :=
  (match accessOf e with
   | some a => a.wr && !a.rd && !a.rel
   | none => false) && e.stage == .go && (windowLanes s c e == 0)

/-- A release or fence of WARP or BLOCK scope takes the stores before it as performed at the core: those of its stream, and those that
the stream's barrier waits acquired (R291, R297). -/
def State.nearBefore (s : State) (c id : Nat) (p : Party) : State :=
  let k := s.core c
  s.setCore c { k with ops := k.ops.map (fun e =>
    if e.id < id ∧ (e.party = p ∨ e.id < k.seen p e.party) ∧ s.storePath c e then { e with near := true } else e) }

/-- Whether the writes that an engine's reads must observe are performed (R206, R267, R299): those that stream instance
`p` issued, or acquired at a barrier, before operation `id`. -/
def Core.writesDone (k : Core) (p : Party) (id : Nat) : Bool :=
  k.ops.all (fun e => !decide (e.id < id) || e.stage == .done ||
    !((e.party == p || decide (e.id < k.seen p e.party)) &&
      (match accessOf e with
       | some a => a.wr
       | none => false)))

/-! Scopes (R19, R20, R282, R289). -/

/-- The agents of the scopes: the streams of a warp, the matrix stream of a core, a stack core; and the launch controller. -/
def agentOf (c : Nat) (p : Party) : Nat := 64 * c + (match p with
  | .matrix => 33
  | p => partyWarp p)
def stackAgent (g k : Nat) : Nat := 2 ^ 16 + 64 * g + k
def launchAgent : Nat := 2 ^ 17

/-- Whether two agents belong to one instance of a scope (R19, R20, R282). -/
def sameInstance (scope a b : Nat) : Bool :=
  let core (x : Nat) : Bool := decide (x < 2 ^ 16)
  let stack (x : Nat) : Nat := if x < 2 ^ 16 then x / 256 else (x - 2 ^ 16) / 64
  match scope with
  | 0 => a == b
  | 1 => core a && core b && a / 64 == b / 64
  | 2 => core a && core b && a / 128 == b / 128
  | 3 => a != launchAgent && b != launchAgent && stack a == stack b
  | _ => true

/-- What a location remembers when a release `x`, if there is one, is written: by a store, or by an atomic, which follows every
release before it (R286). -/
def RelSet.written (r : RelSet) (x : Option (Nat × Nat)) (atomic : Bool) : RelSet :=
  let add (xs : List (Nat × Nat)) : List (Nat × Nat) := match x with
    | some y => if xs.contains y then xs else xs ++ [y]
    | none => xs
  { own := if atomic then add r.all else add [], all := add r.all }

/-- A release, at a scope, that has been performed on HBM (R289): below PACKAGE scope the line enters the home slice's
publish directory while it has room; a wider one removes the line's entries. -/
def State.released (s : State) (a scope pa n : Nat) (atomic : Bool) : State :=
  let h := home pa
  let es := s.dir.get h []
  let line := pa / 256
  if scope < 4 ∧ es.length < 64 then
    { s.onRels pa n (fun r => r.written (some (a, scope)) atomic) with
      dir := s.dir.put h (es.filter (fun e => !(e.line == line && e.agent == a)) ++ [⟨line, a, scope, s.opId⟩]) [] }
  else
    { s.onRels pa n (fun r => r.written (some (a, 4)) atomic) with
      dir := s.dir.put h (es.filter (fun e => e.line != line)) [] }

/-- The entries of the publish directory that an acquire of agent `a` at `pa` finds from outside their instance (R289). -/
def State.published (s : State) (a pa : Nat) : List PubEntry :=
  (s.dir.get (home pa) []).filter (fun e => e.line == pa / 256 && !sameInstance e.scope e.agent a)

/-- The acquire effect of a read of HBM at `pa` by an agent on core `c` (R287, R289, R292): the core's L1 is invalidated at CLUSTER
scope or wider, after a forced publish, and when the value came from a release outside the scope's instance. -/
def State.acquired (s : State) (c a scope pa n : Nat) : State :=
  let hits := s.published a pa
  let outside := (locations pa n).any (fun l => (s.rels.get l {}).own.any (fun x => !sameInstance scope a x.1))
  let wide := decide (2 ≤ scope) || !hits.isEmpty || outside
  let s := { s with dir := s.dir.put (home pa) ((s.dir.get (home pa) []).filter (fun e => !hits.contains e)) [] }
  if wide then s.l1Clear c else s

/-- The acquire effect of a read at a place: a window is read at POD scope (R283). -/
def State.acquiredAt (s : State) (c a scope n : Nat) (p : Place) : State :=
  match p with
  | .hbm pa => s.acquired c a scope pa n
  | .host _ => if 2 ≤ scope then s.l1Clear c else s
  | .window _ _ => s.l1Clear c

/-- The release effect of a write at a place. -/
def State.releasedAt (s : State) (a scope n : Nat) (p : Place) (atomic : Bool) : State :=
  match p with
  | .hbm pa => s.released a scope pa n atomic
  | _ => s

/-- A plain store that follows a fence with release effect counts as a release at the fence's scope (R286), of which the publish
directory keeps nothing (R290, log 126). -/
def State.fencedAt (s : State) (c : Nat) (o : Op) (n : Nat) (p : Place) : State :=
  match p, (s.core c).fenced.find (partyRank o.party) with
  | .hbm pa, some (scope, id) =>
    if id ≤ o.id then s.onRels pa n (fun r => r.written (some (agentOf c o.party, scope)) false) else s
  | _, _ => s

/-- Whether a forced publish is asked for by an acquire (R289): the lines of its lanes that the directory holds for other
instances. -/
def State.publishes (s : State) (c : Nat) (o : Op) : List PubEntry :=
  match accessOf o with
  | some a =>
    if a.acq then
      ((opLanes o).map (fun l => match s.opPlace c o (o.addr.get l 0).toNat with
        | some (_, .hbm pa) => s.published (agentOf c o.party) pa
        | _ => [])).flatten
    else []
  | none => []

/-- Whether a forced publish that arrived before operation `id` was launched is complete (R289): every store and atomic that the cores
of the instances issued before it, and before a release that has come since. An operation that itself waits for a publish holds none
up. -/
def State.publishDone (s : State) (id : Nat) (es : List PubEntry) : Bool :=
  s.cores.all (fun x => x.2.ops.all (fun o =>
    !(o.stage != .done && o.pub.isNone && (match accessOf o with
      | some a => a.wr
      | none => false) && es.any (fun e =>
        decide (o.id < max id e.upto) && sameInstance e.scope e.agent (agentOf x.1 o.party)))))

/-! The accesses of single lanes. -/

/-- The weight-store key of an offset of a die. -/
def wsKey (die off : Nat) : Nat := die * 2 ^ 29 + off

/-- What a warp has read of the SEQ and GEN words of a reduction window (R331). -/
def State.noteRed (s : State) (c warp : Nat) (p : Place) (bs : List Byte) : State :=
  match p with
  | .window m off =>
    match s.modRegion m off bs.length with
    | .reduction base o =>
      [0, 1].foldl (fun s i =>
        let word := BitVec.ofNat 32 (leNat ((bs.drop (4 * i - o)).take 4))
        if o ≤ 4 * i ∧ 4 * i + 4 ≤ o + bs.length then
          s.onCore c (fun k => { k with redRead := k.redRead.set ((modKey m base + 4 * i) * 64 + warp) word })
        else s) s
    | _ => s
  | _ => s

/-- The bytes that one lane of a load reads; none for the lane of an LD.NF whose page is not resident. -/
def loadLane (s : State) (c : Nat) (o : Op) (cp size l : Nat) : Option (List Byte) × State :=
  let a := (o.addr.get l 0).toNat
  match spaceOf o.fn with
  | .scratch => (some ((s.core c).scratch.getBytes a size), s)
  | .weight => (some (s.ws.getBytes (wsKey (dieOf c) a) size), s)
  | .paged =>
    if o.fn = .ldNf ∧ o.done.getLsbD l then (none, s)
    else
      match s.opPlace c o a with
      | some (leaf, p) =>
        let r := s.loadAt c cp leaf p size
        (some r.1, r.2.noteRed c (partyWarp o.party) p r.1)
      | none => (none, s)

/-- The words of a loaded value: a narrow value extended by SGN (R148). -/
def loadWords (w : RWord) (bs : List Byte) : List Word :=
  let n := bs.length
  let v := leNat bs
  if n ≤ 2 ∧ w.mb 18 then [BitVec.ofNat 32 (wrapInt 32 (sgn (8 * n) v))]
  else (List.range ((n + 3) / 4)).map (fun j => BitVec.ofNat 32 (v / 2 ^ (32 * j)))

/-- The results of the lanes of a load: each with its words, or none for a lane that is not resident. `errs` are the
lanes whose data is lost, with the status (R155). -/
def loadWrs (w : RWord) (o : Op) (warp : Nat) (errs : Lanes) (status : Nat → Nat) (rs : List (Nat × Option (List Word))) :
    List Wr :=
  let tag : BitVec 4 := BitVec.ofNat 4 (w.fld 13 10)
  let n := ((2 ^ w.fld 21 19) + 3) / 4
  let d := w.d.toNat
  let word (x : Option (List Word)) (j : Nat) : Word := ((x.getD [])[j]?).getD 0
  let vals := (List.range n).map (fun j => Wr.v warp (d + j) (rs.map (fun r => (r.1, word r.2 j))) tag)
  let marks := ((rs.filter (fun r => errs.getLsbD r.1)).map (fun r => (List.range n).map (fun j =>
    Wr.vbad warp (d + j) r.1 { load := true, pc := o.pc, addr := o.addr.get r.1 0, status := status r.1 }))).flatten
  let preds := if o.fn = .ldNf then
      [Wr.p warp (w.fld 3 0) o.lanes (maskOf 64 64 (fun l => rs.any (fun r => r.1 == l && r.2.isSome)))]
    else []
  vals ++ marks ++ preds

/-- Every lane of a load performed: its results, and the package after it. -/
def loadAll (s : State) (c : Nat) (o : Op) (w : RWord) (lanes : List Nat) : List (Nat × Option (List Word)) × State :=
  let cp := if spaceOf o.fn = .paged then w.fld 9 8 else 0
  lanes.foldl (fun acc l =>
    let r := loadLane acc.2 c o cp (msize w) l
    (acc.1 ++ [(l, r.1.map (loadWords w))], r.2)) ([], s)

/-- The bytes that lane `l` of a store carries. -/
def storeBytes (o : Op) (size l : Nat) : List Byte :=
  let v := (List.range 4).foldl (fun acc j => acc + (o.data.get (4 * l + j) 0).toNat * 2 ^ (32 * j)) 0
  toLe v size

/-- One lane of a store performed; `keep` tells which places are written. -/
def storeLane (s : State) (c : Nat) (o : Op) (cp size : Nat) (keep : Place → Bool) (l : Nat) : State :=
  let a := (o.addr.get l 0).toNat
  let bs := storeBytes o size l
  match spaceOf o.fn with
  | .scratch => s.onCore c (fun k => { k with scratch := k.scratch.putBytes a bs })
  | .weight => s
  | .paged =>
    match s.opPlace c o a with
    | some (leaf, p) => if keep p then (s.storeAt c cp leaf p bs).fencedAt c o size p else s
    | none => s

/-- Every lane of a store performed in ascending lane order, so that a higher lane's byte stands (R150). -/
def storeAll (s : State) (c : Nat) (o : Op) (w : RWord) (keep : Place → Bool) (lanes : List Nat) : State :=
  let cp := if spaceOf o.fn = .paged then w.fld 9 8 else 0
  lanes.foldl (fun s l => storeLane s c o cp (msize w) keep l) s

/-! Atomics (R163, R164). -/

/-- The new value of an atomic operation (R163). -/
def atomNew (ty op old b d : Nat) : Nat :=
  let w := tyWidth ty
  let lt := decide (intVal ty w old < intVal ty w b)
  match op with
  | 0 => if ty = 8 then (addF (fmtOf 8) .rn false old b).1 else (old + b) % 2 ^ w
  | 1 => if ty = 8 then (minMaxF (fmtOf 8) false false old b).1 else if lt then old else b
  | 2 => if ty = 8 then (minMaxF (fmtOf 8) true false old b).1 else if lt then b else old
  | 3 => b
  | 4 => if old = d then b else old
  | 5 => old &&& b
  | 6 => old ||| b
  | _ => old ^^^ b

/-- The stack core that owns an HBM address, and the near address there (R260, R388). -/
def ownerOf (pa : Nat) : Nat × Nat × Nat := (pa / stackBytes, pa % stackBytes / sliceBytes, pa % sliceBytes)

/-- Whether a near address lies in a row that a range of claims meets (R261, R277). -/
def rowClaimed (claims : List Claim) (near : Nat) : Bool :=
  let row := near / 2048 * 2048
  claims.any (fun x => decide (x.lo < row + 2048) && decide (row < x.hi))

/-- An atomic performed on HBM bytes at the point of coherence, for an access of core `c` under `leaf`: the old value. -/
def State.atomHbm (s : State) (c leaf pa ty op b d : Nat) : Nat × State :=
  let n := tyWidth ty / 8
  let held := s.heldBy c leaf
  let old := leNat (s.readPlace held (.hbm pa) n)
  let rels := s.rels
  let s := { s.writePlace held (.hbm pa) (toLe (atomNew ty op old b d) n) with rels }
  (old, (s.onRels pa n (fun r => r.written none true)).l1Drop c [pa / 64])

/-- TYPE and OP of an atomic; a SIG.ADD adds as I64 (R298). -/
def atomTy (o : Op) : Nat := match o.fn, o.body with
  | .sigAdd, _ => 6
  | _, .r w => w.ty
  | _, _ => 0
def atomOp (o : Op) : Nat := match o.fn, o.body with
  | .sigAdd, _ => 0
  | _, .r w => w.fld 17 14
  | _, _ => 0

/-- The 64-bit operand that an atomic captured for a lane. -/
def atomOperand (o : Op) (k l : Nat) : Nat :=
  (o.data.get (4 * l + k) 0).toNat + 2 ^ 32 * (o.data.get (4 * l + k + 1) 0).toNat

/-- One lane of an atomic performed on HBM with its acquire and release effects, the acquire first: it reads what was there before
(R293, R298). -/
def State.atomOrdered (s : State) (c leaf pa b d : Nat) (o : Op) : Nat × State :=
  let a := (accessOf o).getD ⟨true, true, false, false⟩
  let n := tyWidth (atomTy o) / 8
  let s := if a.acq then s.acquired c (agentOf c o.party) (scopeOf o) pa n else s
  let r := s.atomHbm c leaf pa (atomTy o) (atomOp o) b d
  (r.1, if a.rel then r.2.released (agentOf c o.party) (scopeOf o) pa n true else r.2)

/-- One lane of an atomic performed: the operation with the lane's old value. -/
def atomLane (s : State) (c : Nat) (o : Op) (l : Nat) : State × Op :=
  let ty := atomTy o
  let a := (o.addr.get l 0).toNat
  let b := atomOperand o 0 l
  let d := atomOperand o 2 l
  let put (old : Nat) : Op := { o with outs := o.outs.set l (BitVec.ofNat 64 old), todo := putBit o.todo l false }
  match spaceOf o.fn with
  | .scratch =>
    let n := tyWidth ty / 8
    let old := (s.core c).scratch.num a n
    (s.onCore c (fun k => { k with scratch := k.scratch.putNum a n (atomNew ty (atomOp o) old b d) }), put old)
  | _ =>
    match s.opPlace c o a with
    | some (leaf, .hbm pa) =>
      let r := s.atomOrdered c leaf pa b d o
      (r.2, put r.1)
    | _ => (s, { o with todo := putBit o.todo l false, bad := putBit o.bad l true })

/-- One lane of an atomic delivered: performed, or deferred while its row is claimed, or refused when the deferral buffer
is full (R164, R278). -/
def atomDeliver (s : State) (c : Nat) (o : Op) (l : Nat) : State × Op :=
  match spaceOf o.fn, s.opPlace c o (o.addr.get l 0).toNat with
  | .paged, some (_, .hbm pa) =>
    let (g, k, near) := ownerOf pa
    let x := s.sc g k
    if rowClaimed x.claims near then
      if x.deferral.length < 32 then
        let x := { x with deferral := x.deferral ++ [{ core := c, op := o.id, lane := l, addr := pa, since := s.ref }] }
        (s.setSc g k x, o)
      else (s, { o with todo := putBit o.todo l false, bad := putBit o.bad l true })
    else atomLane s c o l
  | _, _ => atomLane s c o l

/-- The results of an atomic whose lanes are all performed or refused: D takes the old values, the status predicate
the refusals (R163). -/
def atomWrs (o : Op) : List Wr :=
  match o.body with
  | .r w =>
    let warp := partyWarp o.party
    let ok := (List.range 64).filter (fun l => o.lanes.getLsbD l && !o.bad.getLsbD l)
    let val (l : Nat) : Nat := (o.outs.get l 0).toNat
    let lo := Wr.v warp w.d.toNat (ok.map (fun l => (l, BitVec.ofNat 32 (val l)))) (tagOf w.ty)
    let hi := Wr.v warp (w.d.toNat + 1) (ok.map (fun l => (l, BitVec.ofNat 32 (val l / 2 ^ 32)))) (tagOf w.ty)
    let ret := if w.mb 13 then (if wide w.ty then [lo, hi] else [lo]) else []
    ret ++ (if o.fn = .atoms then [] else [.p warp (w.fld 12 9) o.lanes o.bad])
  | _ => []

/-- The end of a SIG.ADD (R298): its split goes on; RET gives the old value; the status predicate tells a refusal or a
failure. -/
def sigAddDone (s : State) (c : Nat) (o : Op) : State :=
  match o.body with
  | .r w =>
    let warp := partyWarp o.party
    let l := (opLanes o).head?.getD 0
    let bad := o.bad != 0
    let old := o.outs.get l 0
    let ret := if w.mb 18 && !bad then
        [Wr.s warp w.d.toNat (old.setWidth 32), Wr.s warp (w.d.toNat + 1) ((old >>> 32).setWidth 32)] else []
    let stp := if w.fld 12 9 = 15 then [] else [Wr.p warp (w.fld 12 9) o.lanes (if bad then o.lanes else 0)]
    completeOp (releaseSite s c o) c o (ret ++ stp)
  | _ => s

/-- The atomic completes once no lane remains; until then it is held. -/
def atomSettle (s : State) (c : Nat) (o : Op) : State :=
  if o.todo = 0 then
    (if o.fn = .sigAdd then sigAddDone s c o else completeOp s c o (atomWrs o))
  else s.setOp c { o with stage := .held }

/-- Every lane of an atomic delivered in ascending lane order. -/
def atomAll (s : State) (c : Nat) (o : Op) : State :=
  let r := ((List.range 64).filter (fun l => o.todo.getLsbD l)).foldl (fun acc l => atomDeliver acc.1 c acc.2 l) (s, o)
  atomSettle r.1 c r.2

/-- The end of the checks of a memory operation (R152 to R154): its stream is released, or the trap is raised; an LDG or
STG performs first the lanes that passed. -/
def memCheckEnd (s : State) (c : Nat) (o : Op) : State :=
  let size := opSize o
  let asid := (s.core c).asid
  let xs := (opLanes o).map (fun l =>
    let a := o.addr.get l 0
    (l, a, s.laneCheck c o.fn o.handler (o.status != 0) o.regions size a))
  if xs.any (fun x => x.2.2 == .wait) then s.noteWait c o 0
  else
    let good := (xs.filter (fun x => x.2.2 == .ok)).map (·.1)
    let vas := good.map (fun l => (o.addr.get l 0).toNat)
    let o := if spaceOf o.fn = .paged ∧ o.fn ≠ .sigWait then { o with xl := s.capture c asid vas } else o
    let s := if spaceOf o.fn = .paged then s.fillTlb c asid vas else s
    match checkTrap xs with
    | none =>
      let held := o.fn == .sigAdd || o.fn == .sigWait || o.fn == .sigRd
      let o := if o.fn = .ldNf then { o with done := lanesOf ((opLanes o).filter (fun l =>
          (s.opPlace c o (o.addr.get l 0).toNat).isNone)) } else o
      (if held then s else releaseSite s c o).setOp c { o with stage := .go }
    | some t =>
      let s := xs.foldl (fun s x => match x.2.2 with
        | .bad _ _ true => s.post asid x.2.1.toNat (some (needOf o.fn)) o.handler []
        | _ => s) s
      if o.fn = .ldg ∨ o.fn = .stg then commitThenTrap s c o good t else trapOp s c o t

/-- Whether an LD.W or an MMA of the core's die is held by a refresh window now (R161). -/
def State.refreshing (s : State) (die : Nat) : Bool := s.refresh.get die false || decide (refreshPhase s.clk die < 320)

/-- Both of two window accesses: a wait of either, else the first status. -/
def WindowAccess.both (a b : WindowAccess) : WindowAccess :=
  match a, b with
  | .wait, _ | _, .wait => .wait
  | .bad st, _ => .bad st
  | .ok, x => x

/-- The window accesses that a range of bytes makes, for an STQ or an LDQ. -/
def State.rangeWindow (s : State) (c : Nat) (o : Op) (a n : Nat) : WindowAccess :=
  (pieces a n).foldl (fun acc p => acc.both (match s.opPlace c o p.1 with
    | some (_, .window m off) =>
      if o.fn = .stq then s.windowWrite (s.core c).asid m off (toLe 0 p.2) else s.windowRead (s.core c).asid m off p.2
    | _ => .ok)) .ok

/-- A window access of an operation of which the wait for a port has passed its bound: TIMEOUT (R329). -/
def Op.bounded (o : Op) (x : WindowAccess) : WindowAccess := if o.expired && x == .wait then .bad 0x02 else x

/-- The window access that lane `l` of an operation makes. -/
def State.laneWindow (s : State) (c : Nat) (o : Op) (l : Nat) : WindowAccess :=
  o.bounded <|
  if o.fn = .stq ∨ o.fn = .ldq then
    match o.body with
    | .r w => s.rangeWindow c o (o.addr.get l 0).toNat ((opDesc o w.ty).trailerAt w.ty + 16)
    | _ => .ok
  else
  match spaceOf o.fn, s.opPlace c o (o.addr.get l 0).toNat with
  | .paged, some (_, .window m off) =>
    let n := opSize o
    match needOf o.fn with
    | .write => s.windowWrite (s.core c).asid m off (if o.fn = .shst then o.bytes else storeBytes o n l)
    | .both => s.windowWrite (s.core c).asid m off (toLe 0 n)
    | _ => s.windowRead (s.core c).asid m off n
  | _, _ => .ok

/-- Whether a lane waits for a port that retrains (R324). -/
def State.windowWaits (s : State) (c : Nat) (o : Op) : Bool := (opLanes o).any (fun l => s.laneWindow c o l == .wait)

/-- An operation that waits for a port notes since when (R329). -/
def State.notePort (s : State) (c : Nat) (o : Op) : State :=
  s.setOp c { o with port := some (o.port.getD s.ref) }

/-- The lanes whose window access ends with a status of its own. -/
def State.badLanes (s : State) (c : Nat) (o : Op) : Lanes :=
  maskOf 64 64 (fun l => o.lanes.getLsbD l && (match s.laneWindow c o l with
    | .bad _ => true
    | _ => false))

/-- The lanes that an access error befalls (R155): a data error in any tier, a fabric status in a window only; and those
whose window cannot be reached. -/
def errLanes (s : State) (c : Nat) (o : Op) (lanes : Lanes) (err : AccessError) : Lanes :=
  s.badLanes c o ||| (match err with
    | .ok => 0
    | .dataError => if spaceOf o.fn = .scratch then 0 else o.lanes &&& lanes
    | .fabric _ => lanes &&& windowLanes s c o)

/-- A data error that befalls lanes of an access, noted for the log (R415). -/
def State.noteAccess (s : State) (c : Nat) (o : Op) (lanes : Lanes) (err : AccessError) : State :=
  if err = .dataError ∧ errLanes s c o lanes err ≠ 0 then s.noteError 3 c (some o.pc.toNat) else s

/-- The fabric status of an access error. -/
def errStatus (err : AccessError) : Nat := match err with
  | .fabric st => st
  | _ => 0

/-- The fabric status of a lane. -/
def laneStatus (s : State) (c : Nat) (o : Op) (err : AccessError) (l : Nat) : Nat :=
  match s.laneWindow c o l with
  | .bad st => st
  | _ => errStatus err

/-- The error of an operation that makes one access: its window's own status, else the one that befalls it. -/
def oneError (s : State) (c : Nat) (o : Op) (err : AccessError) : AccessError :=
  match (opLanes o).map (s.laneWindow c o) with
  | .bad st :: _ => .fabric st
  | _ => err

/-- A memory operation of class MEM whose checks have passed is performed and completes (R151): loads write their
registers, stores their bytes, atomics both. -/
def memComplete (s : State) (c : Nat) (o : Op) (w : RWord) (lanes : Lanes) (err : AccessError) : State :=
  match o.fn with
  | .ld | .ldNf | .lds | .ldg | .ldW =>
    if o.fn = .ldW ∧ s.refreshing (dieOf c) then s
    else
      let errs := errLanes s c o lanes err
      let r := loadAll s c o w (opLanes o)
      finishOp r.2 c o (loadWrs w o (partyWarp o.party) errs (laneStatus s c o err) r.1)
  | .st | .stg | .sts => finishOp (storeAll s c o w (fun _ => true) (opLanes o)) c o []
  | .atom | .atoms => atomAll s c o
  | _ => s

/-- WINDOW_FAULT waits to be reported for an operation (R155). -/
def pendWindow (s : State) (c : Nat) (o : Op) (addr : Word64) (status : Nat) : State :=
  let pend : Pending := { cause := .windowFault, party := o.party, flag := o.flag, eng := none, pc := o.pc, addr, status }
  s.onWarp c (partyWarp o.party) (fun x => { x with pendings := x.pendings ++ [pend] })

/-- A window store of which lanes end with a fabric status (R155): their bytes are not written, and WINDOW_FAULT waits to
be reported at the lowest of them. -/
def windowFail (s : State) (c : Nat) (o : Op) (w : RWord) (fails : Lanes) (status : Nat → Nat) : State :=
  let t := storeAll s c o w (fun _ => true) ((opLanes o).filter (fun l => !fails.getLsbD l))
  match (opLanes o).find? (fun l => fails.getLsbD l) with
  | some l => finishOp (pendWindow t c o (o.addr.get l 0) (status l)) c o []
  | none => finishOp t c o []

end Sys2Proof.Machine
end

