-- ==== Sys2Proof/Machine/Access.lean ====
section
/-! DEFINITION. The access stream and the queues (R176 to R193): scalar instructions and branches, queue loads with their
poisoned entries, back queues, the slip register, and the end of the stream. -/

namespace Sys2Proof.Machine

/-! Scalar instructions (R178 to R180). -/

/-- A scalar word: D from the 64-bit values of A and B (R179). -/
def accR (fn : Fn) (w : RWord) (f : Nat → Nat → Nat) (s : State) : Host.Outcome State Fault Refusal :=
  runFixed fn (.r w) (fun _ => 2) (fun _ => none) (fun e =>
    [.a e.w w.d.toNat (BitVec.ofNat 64 (f (e.srcA true 0) (e.srcB true 0)))]) s

/-- The I-form of a scalar word (R44, R178). -/
def accI (fn : Fn) (w : IWord) (f : Nat → Nat → Nat) (s : State) : Host.Outcome State Fault Refusal :=
  runFixed fn (.i w) (fun _ => 2) (fun _ => none) (fun e =>
    [.a e.w w.d.toNat (BitVec.ofNat 64 (f (e.wp.areg w.a.toNat) (immInt w.imm w.modi.toNat)))]) s

def execAadd (w : RWord) (s : State) : Host.Outcome State Fault Refusal := accR .aadd w (fun a b => a + b) s
def execAaddImm (w : IWord) (s : State) : Host.Outcome State Fault Refusal := accI .aaddImm w (fun a b => a + b) s
def execAsub (w : RWord) (s : State) : Host.Outcome State Fault Refusal := accR .asub w (fun a b => a + (2 ^ 64 - b)) s
def execAmul (w : RWord) (s : State) : Host.Outcome State Fault Refusal := accR .amul w (fun a b => a * b) s
def execAshl (w : RWord) (s : State) : Host.Outcome State Fault Refusal :=
  accR .ashl w (fun a b => if 64 ≤ b then 0 else a * 2 ^ b) s
def execAshr (w : RWord) (s : State) : Host.Outcome State Fault Refusal :=
  accR .ashr w (fun a b => (opShr w.ty false a b 0).1) s
def execAand (w : RWord) (s : State) : Host.Outcome State Fault Refusal := accR .aand w (fun a b => a &&& b) s
def execAmov (w : RWord) (s : State) : Host.Outcome State Fault Refusal := accR .amov w (fun a _ => a) s
def execAmovImm (w : IWord) (s : State) : Host.Outcome State Fault Refusal := accI .amovImm w (fun _ b => b) s

/-- ACMP (R179): a condition bit. -/
def execAcmp (w : RWord) (s : State) : Host.Outcome State Fault Refusal :=
  runFixed .acmp (.r w) (fun _ => 2) (fun _ => none) (fun e =>
    [.c e.w w.d.toNat (intCond (w.fld 2 0) (intVal w.ty 64 (e.srcA true 0)) (intVal w.ty 64 (e.srcB true 0)))]) s

/-- ABR (R180). -/
def execAbr (w : IWord) (s : State) : Host.Outcome State Fault Refusal :=
  runWord .abr (.i w) (whenActive (fun e s => .ok (e.jump (e.quick s) (branchTarget e.pc w.imm)))) s

/-! Queues (R181, R182). -/

/-- The compute stream of the warp has ended (R110). -/
def Env.computeEnded (e : Env) : Bool := e.wp.live == 0

/-- A forward push is issuable: room in the queue and below the slip register; always once the compute stream has
ended (R182, R193). -/
def Env.canPush (e : Env) (q : Nat) : Bool :=
  e.computeEnded || (!(e.wp.queue q).full && decide (e.wp.acc.slipCount < e.wp.acc.slip))

/-- A back-queue pop is issuable: its head is FULL, or the queue is empty and the compute stream has ended (R182,
R193). -/
def Env.canPop (e : Env) (q : Nat) : Bool :=
  (e.wp.queue q).headSlot.st == .full || ((e.wp.queue q).headSlot.st == .free && e.computeEnded)

/-- QUEUE_EMPTY at a pop of an empty back queue (R193). -/
def Env.emptyTrap (e : Env) (q : Nat) : Option Trap :=
  if (e.wp.queue q).headSlot.st = .full then none else some (plain .queueEmpty)

/-- A lane of the head entry of a back queue. -/
def Env.headLane (e : Env) (q l : Nat) : Nat := ((e.wp.queue q).headSlot.reg.lane l).toNat

/-- The package with the head of a back queue popped; what the compute stream launched before the push comes before the access
stream's later loads (R194). -/
def Env.popBack (e : Env) (s : State) (q : Nat) : State :=
  s.onWarp e.c e.w (fun x =>
    { x with queues := x.queues.put q (x.queue q).pop {}, acc := { x.acc with qmark := max x.acc.qmark (x.queue q).headSlot.mark } })

/-- The live lanes of a queue load with their addresses (R184): `x` is a lane of LEN or of the index vector. -/
def queueAddrs (fn : Fn) (w : RWord) (width : Nat) (base : Word64) (x : FMap Word) : FMap Word64 :=
  let size := msize w
  let off := moff w
  let scl := w.fld 17 15
  (List.range width).filterMap (fun l =>
    if fn = .qld then
      (if l < (x.get 0 0).toNat then some (l, mouldSum 64 base.toNat ((l * size * 2 ^ scl : Nat) : Int) 0 off size) else none)
    else
      let i := (x.get l 0).toInt
      if w.mb 14 && decide (i < 0) then none else some (l, mouldSum 64 base.toNat i scl off size))

/-- A queue load (R183, R184): its slot is reserved at issue; its checks and accesses take place at its completion. -/
def queueLoad (fn : Fn) (w : RWord) (s : State) : Host.Outcome State Fault Refusal :=
  let q := w.d.toNat
  let back := w.b.toNat
  runWhen fn (.r w) (fun e => e.act == 0 || (e.canPush q && (fn == .qld || e.canPop back))) (whenActive (fun e s =>
    match (if fn = .qldg then e.emptyTrap back else none) with
    | some t => .error t
    | none =>
      let x : FMap Word := if fn = .qld then [(0, BitVec.ofNat 32 (e.srcB false 0))] else (e.wp.queue back).headSlot.reg.w
      let s := if fn = .qldg then e.popBack s back else s
      if e.computeEnded then .ok (e.quick s)
      else
        let base := BitVec.ofNat 64 (e.srcA true 0)
        let addrs := queueAddrs fn w e.width base x
        let slot := (e.wp.queue q).tail
        let s := s.onWarp e.c e.w (fun y =>
          { y with queues := y.queues.put q ((y.queue q).push { st := .pending }) {},
                   acc := { y.acc with slipCount := y.acc.slipCount + 1 } })
        .ok (e.launchOp s .go (fun o =>
          { o with pos := slot, lanes := lanesOf addrs.keys, addr := addrs, data := x, args := [base] })))) s

def execQld (w : RWord) (s : State) : Host.Outcome State Fault Refusal := queueLoad .qld w s
def execQldg (w : RWord) (s : State) : Host.Outcome State Fault Refusal := queueLoad .qldg w s

/-- ABRQ (R190): the head entry decides the branch, and lane 0 goes to A[D] with WR. -/
def execAbrq (w : IWord) (s : State) : Host.Outcome State Fault Refusal :=
  let q := w.a.toNat
  runWhen .abrq (.i w) (fun e => e.canPop q) (fun e s =>
    match e.emptyTrap q with
    | some t => .error t
    | none =>
      let s := e.popBack s q
      let nz (l : Nat) : Bool := e.headLane q l != 0
      let r := match bits w.modi.toNat 1 0 with
        | 0 => nz 0
        | 1 => e.lanes.any nz
        | _ => e.lanes.all nz
      let s := if w.modi.getLsbD 2 then e.retire s 4 [.a e.w w.d.toNat (BitVec.ofNat 64 (e.headLane q 0))] else e.quick s
      .ok (if r != w.modi.getLsbD 3 then e.jump s (branchTarget e.pc w.imm) else s)) s

/-- QPOP (R191): n lanes of the head entry, written at t + 3. -/
def execQpop (w : RWord) (s : State) : Host.Outcome State Fault Refusal :=
  let q := w.a.toNat
  runWhen .qpop (.r w) (fun e => e.act == 0 || e.canPop q) (whenActive (fun e s =>
    match e.emptyTrap q with
    | some t => .error t
    | none =>
      .ok (e.retire (e.popBack s q) 3 ((List.range (w.fld 5 0 + 1)).map (fun i =>
        let x := e.headLane q i
        .a e.w (w.d.toNat + i) (if w.mb 6 then (BitVec.ofNat 32 x).signExtend 64 else BitVec.ofNat 64 x)))))) s

/-- QPUSH (R189): the tail slot of a back queue takes the active lanes; it is FULL from t + 2. After the access stream
has ended the entry is discarded (R193). -/
def execQpush (w : RWord) (s : State) : Host.Outcome State Fault Refusal :=
  let q := w.d.toNat
  runWhen .qpush (.r w) (fun e => e.act == 0 || e.wp.acc.aend || !(e.wp.queue q).full) (whenActive (fun e s =>
    match e.badCheck with
    | some t => .error t
    | none =>
      let tag : BitVec 4 := match e.sourcesA with
        | r :: _ => r.tag
        | [] => 0
      let lanes : FMap Word := e.active.foldl (fun m l => m.put l (BitVec.ofNat 32 (e.srcA false l)) 0) []
      let slot : QSlot := { st := .pending, due := e.clk + 2, mark := e.k.lastOp, reg := { w := lanes, tag := tag } }
      let s := if e.wp.acc.aend then s
        else s.onWarp e.c e.w (fun x => { x with queues := x.queues.put q ((x.queue q).push slot) {} })
      .ok (e.quick s))) s

/-- SLIP (R192): the slip register, clamped to 8 to 96. -/
def execSlip (w : RWord) (s : State) : Host.Outcome State Fault Refusal :=
  runWord .slip (.r w) (whenActive (fun e s =>
    let v := e.srcA true 0
    let v := if v < 8 then 8 else if 96 < v then 96 else v
    .ok ((e.quick s).onWarp e.c e.w (fun x => { x with acc := { x.acc with slip := v } })))) s

/-- AEXIT (R193): the access stream ends; where it ends the warp it reports a failed copy (R208) or a KV data error
(R254). -/
def execAexit (w : RWord) (s : State) : Host.Outcome State Fault Refusal :=
  runWord .aexit (.r w) (fun e s =>
    match (if e.computeEnded then firstTrap [e.k.copyFault e.w e.wp.copies, e.k.kvDataTrap e.w false] else none) with
    | some t => .error t
    | none => .ok ((e.quick s).onCore e.c (fun k =>
      let x := k.warp e.w
      (k.setWarp e.w { x with acc := { x.acc with aend := true } }).endWarp e.w))) s

/-! Completion of queue loads (R184 to R186). -/

/-- A queue slot of a warp replaced. -/
def Core.setSlot (k : Core) (w q i : Nat) (x : QSlot) : Core :=
  let p := k.warp w
  let y := p.queue q
  k.setWarp w { p with queues := p.queues.put q { y with slots := y.slots.put i x {} } {} }

/-- The CAUSE code of a poison record (R186): a lane that the region rule turns away is recorded as PROT_FAULT
(log 11). -/
def poisonCause (c : Cause) : Nat :=
  match c with
  | .alignFault => 1
  | .pageFault => 2
  | _ => 3

/-- The slot of a queue load that failed (R185, R186). -/
def poisonSlot (o : Op) (q : Nat) (cause : Nat) (faddr : Word64) (fmask : Lanes) (status : Nat) : QSlot :=
  { st := .poison, reg := { w := o.data },
    record := { apc := o.pc, base := (o.args[0]?).getD 0, faddr, fmask,
                word := BitVec.ofNat 32 (status * 2 ^ 16 + o.pos * 2 ^ 8 + q * 2 ^ 4 + cause) } }

/-- A queue load performed: its slot leaves PENDING as FULL or as POISON. As a load of the access stream it waits for what comes before it
(R150, R184, R194); `hurt` are the lanes that an error befalls. -/
def queueComplete (s : State) (c : Nat) (o : Op) (w : RWord) (hurt : Lanes) (err : AccessError) : State :=
  let warp := partyWarp o.party
  let q := w.d.toNat
  if ((s.core c).warp warp).ended then completeOp s c o []
  else
    let lanes := opLanes o
    let asid := (s.core c).asid
    let xs := lanes.map (fun l =>
      let a := o.addr.get l 0
      (l, a, s.laneCheck c o.fn false (o.status != 0) o.regions (msize w) a))
    if xs.any (fun x => x.2.2 == .wait) then s.noteWait c o 0
    else if !s.mayPerform c o then s
    else if s.windowWaits c o then s.notePort c o
    else
      let put (s : State) (x : QSlot) : State := completeOp (s.onCore c (fun k => k.setSlot warp q o.pos x)) c o []
      match checkTrap xs with
      | some t =>
        let s := xs.foldl (fun s x => match x.2.2 with
          | .bad _ _ true => s.post asid x.2.1.toNat (some .read) false []
          | _ => s) s
        put s (poisonSlot o q (poisonCause t.cause) t.addr t.fmask 0)
      | none =>
        let hit := errLanes s c o hurt err
        if hit = 0 then
          let s := s.fillTlb c asid (lanes.map (fun l => (o.addr.get l 0).toNat))
          let r := lanes.foldl (fun acc l =>
            let x := loadLane acc.2 c o (w.fld 9 8) (msize w) l
            (FMap.put acc.1 l (((x.1.map (loadWords w)).getD [])[0]?.getD 0) 0, x.2)) (([] : FMap Word), s)
          put r.2 { st := .full, reg := { w := r.1, tag := BitVec.ofNat 4 (w.fld 13 10) } }
        else
          let l := (lanes.find? (fun l => hit.getLsbD l)).getD 0
          let st := laneStatus s c o err l
          put (s.noteAccess c o hurt err) (poisonSlot o q (if st = 0 then 4 else 5) (o.addr.get l 0) hit st)

/-- QUEUE_LOAD_COMPLETION (R184, R185): an error befalls the named lanes, which FMASK of the poison record then names (R186). -/
def execQueueLoadCompletion (core op : Nat) (errs : LaneErrors) (s : State) : Host.Outcome State Fault Refusal :=
  match (s.core core).findOp op with
  | some o =>
    match o.fn, o.body with
    | .qld, .r w => done (queueComplete s core o w errs.lanes errs.err)
    | .qldg, .r w => done (queueComplete s core o w errs.lanes errs.err)
    | _, _ => .next s
  | none => .next s

/-- BACK_QUEUE_SLOT_FULL (R189): a pushed slot is FULL from its clock. -/
def execBackQueueSlotFull (core warp queue : Nat) (s : State) : Host.Outcome State Fault Refusal :=
  let q := ((s.core core).warp warp).queue queue
  if 12 ≤ queue ∧ q.slots.any (fun x => x.2.st == .pending && decide (x.2.due ≤ s.clk + 1)) then
    done (s.onWarp core warp (fun x => { x with queues := x.queues.put queue { q with slots := q.slots.mapV (fun y =>
      if y.st = .pending ∧ y.due ≤ s.clk + 1 then { y with st := .full, due := 0 } else y) } {} }))
  else .next s

end Sys2Proof.Machine
end

