-- ==== Sys2Proof/Machine/Tiles.lean ====
section
/-! DEFINITION. Quantised tile stores and loads, STQ and LDQ (R92 to R94, R142 to R145). -/

namespace Sys2Proof.Machine

/-- The page checks of a range of bytes: the first that does not pass, with its address. -/
def State.rangeCheck (s : State) (c asid a n : Nat) (need : Need) (ho late : Bool) (held : List Nat) : Word64 × LaneCheck :=
  let xs := (pageStarts a n).map (fun p => (BitVec.ofNat 64 p, s.pageCheck c asid p need ho false late held))
  match xs.find? (fun x => x.2 != .ok) with
  | some x => x
  | none => (BitVec.ofNat 64 a, .ok)

/-- Reading a range for an access of core `c` with the default cache policy. -/
def State.readRange (s : State) (c : Nat) (o : Op) (a n : Nat) : List Byte × State :=
  (pieces a n).foldl (fun acc p => match acc.2.opPlace c o p.1 with
    | some (leaf, pl) =>
      let r := acc.2.loadAt c 0 leaf pl p.2
      (acc.1 ++ r.1, r.2)
    | none => (acc.1 ++ List.replicate p.2 0, acc.2)) ([], s)

/-- Storing bytes to a range for an access of core `c` with the default cache policy. -/
def State.writeRange (s : State) (c : Nat) (o : Op) (a : Nat) (bs : List Byte) : State :=
  (pieces a bs.length).foldl (fun s p => match s.opPlace c o p.1 with
    | some (leaf, pl) => s.storeAt c 0 leaf pl ((bs.drop (p.1 - a)).take p.2)
    | none => s) s

/-- Elements of width 4, 8 or 16 packed in bytes by R71. -/
def packElems (w : Nat) : List Nat → List Byte
  | [] => []
  | [x] => if w = 16 then toLe x 2 else [BitVec.ofNat 8 x]
  | x :: y :: xs =>
    if w = 4 then BitVec.ofNat 8 (x % 16 + 16 * (y % 16)) :: packElems w xs
    else if w = 8 then BitVec.ofNat 8 x :: packElems w (y :: xs)
    else toLe x 2 ++ packElems w (y :: xs)

/-- What STQ makes of a lane's source (R143): the elements, the scale codes, the count of saturations, the flags, and the
generator. -/
structure Quant where
  q : List Nat
  scales : List Nat
  sat : Nat
  fl : Nat
  g : Word
  deriving DecidableEq, Repr, Inhabited

/-- One element quantised under scale code `sc` (none without SCK). -/
def quantStep (ty rnd : Nat) (sr sat : Bool) (sc : Option Nat) (acc : Quant) (x : Num) : Quant :=
  let v := match sc with
    | some s => scaleDown x s
    | none => x
  let r := convOne ty rnd sr sat v acc.g
  { acc with q := acc.q ++ [r.val], sat := acc.sat + (if (r.fl &&& (fQSAT ||| fSAT)) != 0 then 1 else 0),
             fl := acc.fl ||| r.fl ||| sigFlag x, g := r.g }

/-- The blocks of 32 source elements quantised in order. -/
def quantBlocks (ty rnd : Nat) (sr sat sck : Bool) : Nat → List Num → Quant → Quant
  | 0, _, acc => acc
  | n + 1, xs, acc =>
    let b := xs.take 32
    let sc := if sck then
        (let m := maxMagnitude b
         some (scaleCode ty (decodeF (fmtOf 8) m.1)))
      else none
    let acc := { acc with scales := match sc with
      | some s => acc.scales ++ [s]
      | none => acc.scales }
    quantBlocks ty rnd sr sat sck n (xs.drop 32) (b.foldl (quantStep ty rnd sr sat sc) acc)

/-- A lane's tile as STQ writes it, from its source numbers (R92, R143): all bytes, the flags, the generator. -/
def quantTile (ty rnd : Nat) (sr sat : Bool) (d : TileDesc) (xs : List Num) (g : Word) : List Byte × Nat × Word :=
  let r := quantBlocks ty rnd sr sat d.sck (d.count / 32) xs ⟨[], [], 0, 0, g⟩
  let body := packElems (tyWidth ty) r.q ++ r.scales.map (fun x => BitVec.ofNat 8 x)
  let pad := List.replicate (d.trailerAt ty - body.length) (0 : Byte)
  let trailer := toLe (maxMagnitude xs).1 4 ++ toLe r.sat 4 ++ toLe (crc32c body) 4 ++
    [BitVec.ofNat 8 ((if d.sck then 16 else 0) + (tagOf ty).toNat), BitVec.ofNat 8 d.rows, BitVec.ofNat 8 d.cols, 0x10]
  (body ++ pad ++ trailer, r.fl, r.g)

/-- Whether a tile as read agrees with its declaration (R94). -/
def trailerOk (ty : Nat) (d : TileDesc) (bs : List Byte) : Bool :=
  let body := bs.take (d.payload ty)
  let t := bs.drop (d.trailerAt ty)
  leNat ((t.drop 8).take 4) == crc32c body && leNat ((t.drop 12).take 1) == (if d.sck then 16 else 0) + (tagOf ty).toNat &&
    leNat ((t.drop 13).take 1) == d.rows && leNat ((t.drop 14).take 1) == d.cols && leNat ((t.drop 15).take 1) == 0x10

/-- STQ and LDQ (R142): QSHAPE at issue; the addresses are captured and the checks hold the split (R153). DESIGN CHOICE (log 122):
the tags of the V registers that STQ reads are not checked, since R144 lists no FORMAT_MISMATCH. -/
def tileWord (fn : Fn) (w : RWord) (s : State) : Host.Outcome State Fault Refusal :=
  runWord fn (.r w) (whenRetried (fun e s =>
    let desc := e.wp.s.get w.d.toNat 0
    match tileDesc w.ty desc with
    | none => .error (plain .qshape)
    | some _ =>
      match e.badCheck with
      | some t => .error t
      | none =>
        let rep := e.retry
        let act := match rep with
          | some r => e.act &&& ~~~r.done
          | none => e.act
        let lanes := e.lanes.filter (fun l => act.getLsbD l)
        if act = 0 then .ok ((e.retire s 1 []).onCore e.c e.retried)
        else
          .ok (e.launchHeld s (fun o =>
            { o with
              lanes := act, args := [desc.setWidth 64], again := rep.isSome, dests := (e.destRegs.filter (fun r => r.kind == .p)),
              done := match rep with
                | some r => r.done
                | none => 0,
              addr := lanes.map (fun l => (l, match rep with
                | some r => r.addr.get l (BitVec.ofNat 64 (e.srcB true l))
                | none => BitVec.ofNat 64 (e.srcB true l))),
              data := lanes.map (fun l => (l, BitVec.ofNat 32 (e.srcA false l))) })))) s

def execStq (w : RWord) (s : State) : Host.Outcome State Fault Refusal := tileWord .stq w s
def execLdq (w : RWord) (s : State) : Host.Outcome State Fault Refusal := tileWord .ldq w s

/-- The checks of one lane (R142): alignment, the scratchpad range, then the pages. -/
def tileLaneCheck (s : State) (c : Nat) (o : Op) (ty l : Nat) : Word64 × LaneCheck :=
  let d := opDesc o ty
  let k := s.core c
  let a := (o.data.get l 0).toNat
  let b := o.addr.get l 0
  let inScratch := if o.fn = .stq then d.source else d.payload ty
  if a % 4 ≠ 0 then (BitVec.ofNat 64 a, .bad 2 .alignFault false)
  else if b.toNat % 16 ≠ 0 then (b, .bad 2 .alignFault false)
  else if k.kernel.scratch < a + inScratch then (BitVec.ofNat 64 a, .bad 3 .scratchRange false)
  else s.rangeCheck c k.asid b.toNat (d.trailerAt ty + 16) (if o.fn = .stq then .write else .read) o.handler (o.status != 0)
    o.regions

/-- The source numbers of a lane of STQ, read from the scratchpad. -/
def tileSource (k : Core) (d : TileDesc) (a : Nat) : List Num :=
  if d.bf16 then (List.range d.count).map (fun i => decodeF (fmtOf 10) (k.scratch.num (a + 2 * i) 2))
  else (List.range d.count).map (fun i => decodeF (fmtOf 8) (k.scratch.num (a + 4 * i) 4))

/-- STQ's lanes quantised in ascending order: the bytes of each lane, the flags, and the package with the generators
stepped. -/
def stqLanes (s : State) (c : Nat) (o : Op) (w : RWord) (lanes : List Nat) : List (Nat × List Byte) × Nat × State :=
  let d := opDesc o w.ty
  let warp := partyWarp o.party
  lanes.foldl (fun acc l =>
    let k := acc.2.2.core c
    let r := quantTile w.ty (w.fld 17 16) (w.mb 15) (w.mb 14) d (tileSource k d (o.data.get l 0).toNat)
      ((k.warp warp).genAt warp l)
    (acc.1 ++ [(l, r.1)], acc.2.1 ||| r.2.1, acc.2.2.onWarp c warp (fun x => x.setGen warp l r.2.2))) ([], 0, s)

/-- LDQ's lanes read from memory. -/
def ldqLanes (s : State) (c : Nat) (o : Op) (ty : Nat) (lanes : List Nat) : List (Nat × List Byte) × State :=
  let n := (opDesc o ty).trailerAt ty + 16
  lanes.foldl (fun acc l =>
    let r := acc.2.readRange c o (o.addr.get l 0).toNat n
    (acc.1 ++ [(l, r.1)], r.2)) ([], s)

/-- LDQ's payloads written to the scratchpad in ascending lane order (R144). -/
def ldqWrite (s : State) (c : Nat) (o : Op) (ty : Nat) (tiles : List (Nat × List Byte)) : State :=
  let d := opDesc o ty
  s.onCore c (fun k => { k with scratch := tiles.foldl (fun m t =>
    m.putBytes (o.data.get t.1 0).toNat (t.2.take (d.payload ty))) k.scratch })

/-- The predicate and sticky bit of an LDQ's lanes (R144). -/
def ldqWrs (o : Op) (w : RWord) (tiles : List (Nat × List Byte)) : List Wr :=
  let warp := partyWarp o.party
  let d := opDesc o w.ty
  let badL := lanesOf ((tiles.filter (fun t => !trailerOk w.ty d t.2)).map (·.1))
  (if w.fld 3 0 = 15 then [] else [Wr.p warp (w.fld 3 0) (lanesOf (tiles.map (·.1))) badL]) ++
    (if badL = 0 then [] else [Wr.flagsOr warp (BitVec.ofNat 32 fTRL)])

/-- The tiles of an operation, as it carries them after its checks: equal parts of its bytes. -/
def opTiles (o : Op) (ty : Nat) : List (Nat × List Byte) :=
  let n := (opDesc o ty).trailerAt ty + 16
  (opLanes o).zipIdx.map (fun x => (x.1, (o.bytes.drop (x.2 * n)).take n))

/-- Whether an LDQ holds its split until its trailers have been read: a mismatch may still trap (R144). -/
def trailersHold (o : Op) : Bool := o.fn == .ldq && o.todo != 0

/-- The end of the checks of STQ and LDQ (R142, R144, R154). An STQ whose lanes all pass reads and converts its source, its
generators stepping in the order of the stream; an LDQ samples FLAGS.TRLEN (DESIGN CHOICE, log 123: now), and holds its split if a
mismatch would trap. Where some lanes fail, those that pass are performed before the trap is raised. -/
def tileCheckEnd (s : State) (c : Nat) (o : Op) (w : RWord) : State :=
  let asid := (s.core c).asid
  let d := opDesc o w.ty
  let xs := (opLanes o).map (fun l =>
    let r := tileLaneCheck s c o w.ty l
    (l, r.1, r.2))
  if xs.any (fun x => x.2.2 == .wait) then s.noteWait c o 0
  else
    let good := (xs.filter (fun x => x.2.2 == .ok)).map (·.1)
    let vas := (good.map (fun l => pageStarts (o.addr.get l 0).toNat (d.trailerAt w.ty + 16))).flatten
    let o := { o with xl := s.capture c asid vas }
    let s := s.fillTlb c asid vas
    let o := { o with todo := if ((s.core c).warp (partyWarp o.party)).flags.getLsbD 16 then o.lanes else 0 }
    let need : Need := if o.fn = .stq then .write else .read
    match checkTrap xs with
    | none =>
      if o.fn = .stq then
        if !s.mayPerform c o then s
        else
          let r := stqLanes s c o w good
          (releaseSite r.2.2 c o).setOp c { o with stage := .go, bytes := (r.1.map (·.2)).flatten, status := r.2.1 }
      else (if trailersHold o then s else releaseSite s c o).setOp c { o with stage := .go }
    | some t =>
      let s := xs.foldl (fun s x => match x.2.2 with
        | .bad _ _ true => s.post asid x.2.1.toNat (some need) o.handler []
        | _ => s) s
      commitThenTrap s c o good t

/-- The pieces of an STQ's tiles within sectors, in the order in which they are written: lanes rising, so that the bytes of a higher
lane stand (R145); the lanes of `fails` write nothing (R155). -/
def stqPieces (o : Op) (tiles : List (Nat × List Byte)) (fails : Lanes) : List (Nat × List Byte) :=
  ((tiles.filter (fun t => !fails.getLsbD t.1)).map (fun t =>
    let a := (o.addr.get t.1 0).toNat
    (pieces a t.2.length).map (fun p => (p.1, (t.2.drop (p.1 - a)).take p.2)))).flatten

/-- The sticky bits of an STQ. -/
def stqFlags (o : Op) (fl : Nat) : List Wr := if fl = 0 then [] else [Wr.flagsOr (partyWarp o.party) (BitVec.ofNat 32 fl)]

/-- STQ performed (R145): its writes are ordinary stores, one piece at a time, and it completes with the last. With lanes that failed
their checks the others are written together, and the trap is raised. A lane whose window ends with a status writes nothing, and
WINDOW_FAULT waits to be reported (R155). -/
def stqPerform (s : State) (c : Nat) (o : Op) (w : RWord) : State :=
  let fails := s.badLanes c o
  let report (t : State) : State := match (opLanes o).find? (fun l => fails.getLsbD l) with
    | some l => pendWindow t c o (o.addr.get l 0) (laneStatus s c o .ok l)
    | none => t
  match o.fail with
  | some _ =>
    let r := stqLanes s c o w (opLanes o)
    let t := (stqPieces o r.1 fails).foldl (fun s p => s.writeRange c o p.1 p.2) r.2.2
    finishOp (report t) c o (stqFlags o r.2.1)
  | none =>
    let ps := stqPieces o (opTiles o w.ty) fails
    let s := match ps[o.pos]? with
      | some p => s.writeRange c o p.1 p.2
      | none => s
    if o.pos + 1 < ps.length then s.setOp c { o with pos := o.pos + 1 }
    else finishOp (report s) c o (stqFlags o o.status)

/-- LDQ performed (R144): a mismatch traps when TRLEN was 1, and nothing is written; else the payloads and P_STP are. Beside lanes that
failed their checks a lane that would trap is not performed. -/
def ldqPerform (s : State) (c : Nat) (o : Op) (w : RWord) : State :=
  let d := opDesc o w.ty
  let r := ldqLanes s c o w.ty (opLanes o)
  let miss := r.1.filter (fun t => !trailerOk w.ty d t.2)
  let free (s : State) : State := if trailersHold o && o.fail.isNone then releaseSite s c o else s
  match o.fail, (if o.todo = 0 then [] else miss) with
  | none, t :: _ =>
    trapOp r.2 c o { cause := .trailerMismatch, fmask := putBit 0 t.1 true,
                     addr := o.addr.get t.1 0 + BitVec.ofNat 64 (d.trailerAt w.ty) }
  | _, _ =>
    let keep := if o.todo = 0 then r.1 else r.1.filter (fun x => trailerOk w.ty d x.2)
    finishOp (free (ldqWrite r.2 c o w.ty keep)) c { o with lanes := lanesOf (keep.map (·.1)) } (ldqWrs o w keep)

/-- STQ and LDQ performed (R145): nothing while a port of a window that they access retrains (R324). -/
def tileComplete (s : State) (c : Nat) (o : Op) (w : RWord) : State :=
  if s.windowWaits c o then s.notePort c o
  else
    match untaken s c o with
    | some t => trapOp s c o t
    | none => if o.fn = .stq then stqPerform s c { o with port := none } w else ldqPerform s c o w

end Sys2Proof.Machine
end

