-- ==== Sys2Proof/Machine/Alloc.lean ====
section
/-! DEFINITION. What the memory-management processor does with frames and page tables (R389 to R401): finding frames,
writing leaves with the tables above them, and shootdowns. -/

namespace Sys2Proof.Machine

/-- The frames of HBM. -/
def frameCount : Nat := hbmTop / 2 ^ 16

/-- The near window of stack core (g, k) as frames would meet it, and the context that holds the stack. -/
def State.windowOf (s : State) (pa : Nat) : SCore × Nat :=
  let (g, k, near) := ownerOf pa
  (s.sc g k, near)

/-- Whether a frame may back a page of a context: it exists, lies in no save area of a stack core, and in no near window of
another context (R260); 256 names no context. -/
def State.frameUsable (s : State) (asid f : Nat) : Bool :=
  let (x, near) := s.windowOf (f * 2 ^ 16)
  decide (f < frameCount) && decide (near < 0x5FF00000) &&
    !(decide (x.nwbase ≤ near) && decide (near < x.nwlim) && x.asid != asid)

/-- Whether a run of frames meets no run in use. -/
def State.frameFree (s : State) (f n : Nat) : Bool :=
  s.frames.all (fun e => e.2.role == .free || decide (e.1 + e.2.n ≤ f) || decide (f + n ≤ e.1))

/-- Whether `n` frames from `f` can be handed out to a context. -/
def State.runOk (s : State) (asid f n : Nat) : Bool :=
  (if n = 1 then s.frameUsable asid f else (List.range n).all (fun i => s.frameUsable asid (f + i))) && s.frameFree f n

/-- The search for a run, aligned to its own size, from a frame on. -/
def State.searchRun (s : State) (asid n : Nat) : Nat → Nat → Option Nat
  | 0, _ => none
  | fuel + 1, f => if s.runOk asid f n then some f else s.searchRun asid n fuel (f + n)

/-- A run of `n` frames, a power of two, that the MMP finds (log 8). -/
def State.findRun (s : State) (asid n : Nat) : Option Nat :=
  let start := Config.frameHint s.fresh % frameCount / n * n
  match s.searchRun asid n 65536 start with
  | some f => some f
  | none => s.searchRun asid n 65536 0

/-- The frames that count against a context's quota (R396, R243). -/
def State.framesUsed (s : State) (asid : Nat) : Nat :=
  s.frames.foldl (fun acc e =>
    if e.2.owner = asid + 1 ∧ (e.2.role = .page ∨ e.2.role = .directory) then acc + e.2.n else acc) 0

/-- Every byte of a range of HBM set to zero beneath the caches (R401). -/
def State.zeroHbm (s : State) (pa n : Nat) : State :=
  let out (a : Nat) : Bool := !(decide (pa ≤ a) && decide (a < pa + n))
  let outSec (x : Nat) : Bool := !(decide (pa ≤ 64 * x) && decide (64 * x < pa + n))
  { s with hbm := s.hbm.keep (fun a _ => out a), l2 := s.l2.keep (fun x _ => outSec x),
           copies := s.copies.keep (fun k _ => outSec (k % 2 ^ 61)) }

/-- Handing out a run of frames: what it met before is forgotten, and its bytes are zero. -/
def State.takeRun (s : State) (f n : Nat) (role : FrameRole) (owner : Nat) : State :=
  let s := s.zeroHbm (f * 2 ^ 16) (n * 2 ^ 16)
  { s with frames := (s.frames.keep (fun a r => r.role != .free || decide (a + r.n ≤ f) || decide (f + n ≤ a))).set f
             { n, role, owner }, fresh := s.fresh + 1 }

/-- A run given back: it keeps who held it last. -/
def State.giveRun (s : State) (f : Nat) : State :=
  match s.frames.find f with
  | some r => { s with frames := s.frames.set f { r with role := .free } }
  | none => s

/-- A run for a context's page or directory, within the quota. -/
def State.allocFor (s : State) (asid n : Nat) (role : FrameRole) : Option (Nat × State) :=
  if (s.ctx asid).quota < s.framesUsed asid + n then none
  else
    match s.findRun (if role = .page then asid else 256) n with
    | some f => some (f * 2 ^ 16, s.takeRun f n role (asid + 1))
    | none => none

/-- A run outside the quota, for the MMP's own tables (R389) or for save areas (R382), in no near window. -/
def State.allocOwn (s : State) (asid n : Nat) (role : FrameRole) : Option (Nat × State) :=
  match s.findRun 256 n with
  | some f => some (f * 2 ^ 16, s.takeRun f n role (asid + 1))
  | none => none

def State.allocTable (s : State) (asid n : Nat) : Option (Nat × State) := s.allocOwn asid n .table

/-- The MMP's write of a table or leaf entry, indivisible (R396). -/
def State.writeEntry (s : State) (pa x : Nat) : State := s.writeHbm pa (toLe x 8)

/-- The size of a page at a level (R389). -/
def levelSize (level : Nat) : Nat := 2 ^ (16 + 9 * (3 - level))

/-- The entry of `va` in a table: `n` levels lie below the root's. -/
def entryAt (va n table : Nat) : Nat :=
  let shift := 16 + 9 * n
  table + 8 * (if n = 3 then bits va 56 43 else bits va (shift + 8) shift)

/-- The place of the entry that maps `va` at a level, missing tables being made (R389); none where a leaf stands above it,
or no frame can be found. `n` counts the levels below, as in `walkFrom`. -/
def State.entryFor (s : State) (asid va level : Nat) : Nat → Nat → Option (Nat × State)
  | 0, _ => none
  | n + 1, table =>
    let e := entryAt va n table
    let x := s.hbm.num e 8
    if 3 - n = level then (if bits x 1 0 = 1 then none else some (e, s))
    else if bits x 1 0 = 1 then s.entryFor asid va level n (bits x 63 12 * 2 ^ 12)
    else if bits x 1 0 = 2 then none
    else
      match s.allocTable asid 1 with
      | some (pa, s) => (s.writeEntry e (pa + 1)).entryFor asid va level n pa
      | none => none

/-- A leaf written at a level for `va` (R397). -/
def State.setLeaf (s : State) (asid va level leaf : Nat) : Option State :=
  if 2 ^ 57 ≤ va then none
  else
    match s.entryFor asid va level 4 (s.ctx asid).root with
    | some (e, s) => some (s.writeEntry e leaf)
    | none => none

/-- Where the leaf that maps `va` stands, with its page's size and word, whatever its state; none where there is none. -/
def leafAt (hbm : FMap Byte) (va : Nat) : Nat → Nat → Option (Nat × Nat × Nat)
  | 0, _ => none
  | n + 1, table =>
    let e := entryAt va n table
    let x := hbm.num e 8
    if bits x 1 0 = 1 then leafAt hbm va n (bits x 63 12 * 2 ^ 12)
    else if bits x 1 0 = 2 ∧ n ≠ 3 then some (e, 2 ^ (16 + 9 * n), x)
    else none

def State.leafOf (s : State) (asid va : Nat) : Option (Nat × Nat × Nat) :=
  if va < 2 ^ 57 then leafAt s.hbm va 4 (s.ctx asid).root else none

/-! Shootdowns (R398 to R400). -/

/-- Every receiver of a shootdown: the core TLBs, the copy engines, the launch controller. -/
def receivers : List Nat := List.range 193

/-- A shootdown sent (R398). -/
def State.shoot (s : State) (asid va size : Nat) (after : AfterShoot) : State :=
  { s with shoots := s.shoots ++ [{ asid, va, size, waiting := receivers, after }] }

/-- Whether a shootdown of a page is still going on. -/
def State.shooting (s : State) (asid va : Nat) : Bool :=
  s.shoots.any (fun x => x.asid == asid && decide (x.va ≤ va) && decide (va < x.va + x.size))

/-- Whether a TLB entry matches a shootdown. -/
def Shoot.hits (x : Shoot) (e : TlbEntry) : Bool :=
  e.asid == x.asid && decide (e.va < x.va + x.size) && decide (x.va < e.va + e.size)

/-- Whether a Bloom filter has both bits of a page number (R400). -/
def bloomHas (m : FMap Bool) (va : Nat) : Bool := (bloomBits va).all (fun b => m.get b false)

/-- Whether a C48 core's filter finds a form of some listed page number (R400): one leaf's page is one listed number. -/
def bloomHit (m : FMap Bool) (x : Shoot) : Bool :=
  [x.va, x.va / 2 ^ 25 * 2 ^ 25, x.va / 2 ^ 34 * 2 ^ 34].any (bloomHas m)

/-- A core drops its matching entries; its filter is cleared once no entry of the context is left (R399, R400). -/
def Core.dropTlb (k : Core) (x : Shoot) : Core :=
  let tlb := k.tlb.filter (fun e => !x.hits e)
  { k with tlb, bloom := if tlb.any (fun e => !e.table && e.asid == x.asid) then k.bloom else [] }

/-- Whether a core has begun an access under a translation that a shootdown drops, and not performed it (R399). -/
def Core.usesTlb (k : Core) (x : Shoot) : Bool :=
  k.ops.any (fun o => o.stage != .done && o.xl.any x.hits)

/-- The sectors of a range of HBM that a cluster holds as part of a region, written back (R311): the MMP reads or reuses the
frame. -/
def State.flushHeld (s : State) (pa n : Nat) : State :=
  let mine (k : Nat) : Bool := decide (pa ≤ 64 * (k % 2 ^ 61)) && decide (64 * (k % 2 ^ 61) < pa + n)
  let hbm := s.heldBytes.foldl (fun m e => if mine e.1 ∧ e.2.m then m.putBytes (64 * (e.1 % 2 ^ 61)) e.2.bytes else m) s.hbm
  { s with hbm, heldBytes := s.heldBytes.keep (fun k _ => !mine k) }

/-- What follows a shootdown that every receiver has acknowledged. -/
def State.afterShoot (s : State) (x : Shoot) : State :=
  match x.after with
  | .nothing => s
  | .release f => (s.flushHeld (f * 2 ^ 16) (((s.frames.find f).map (·.n)).getD 0 * 2 ^ 16)).giveRun f
  | .evict f size host =>
    let s := s.flushHeld (f * 2 ^ 16) size
    let bytes := s.hbmBytes (f * 2 ^ 16) size
    let s := { s with host := s.host.putBytes host bytes }
    let s := s.giveRun f
    { s with ctxs := s.ctxs.put x.asid { s.ctx x.asid with evicted := (s.ctx x.asid).evicted.set x.va host } {} }
  | .evictKv e f size =>
    let s := s.flushHeld (f * 2 ^ 16) size
    let h := s.kvHandle + 1
    let copy : KvCopy := { asid := x.asid, va := x.va, bytes := s.hbmBytes (f * 2 ^ 16) size }
    let s := { s with kvHandle := h, kvCopies := s.kvCopies.set h copy,
                      kvBack := s.kvBack.set e { s.kvBack.get e default with handle := some h } }
    (s.writeEntry e (h * 2 ^ 12 + 2)).giveRun f

/-- A receiver's answer to the first shootdown that waits for it (R399, R400). -/
def State.answer (s : State) (r : Nat) : State :=
  match s.shoots.find? (fun x => x.waiting.contains r) with
  | none => s
  | some x =>
    let (s, ready) :=
      if r < 96 then
        let k := s.core r
        if (s.ctx x.asid).c48 && !bloomHit k.bloom x then (s, !k.usesTlb x)
        else (s.setCore r (k.dropTlb x), !k.usesTlb x)
      else if r < 192 then
        (s.onCore (r - 96) (fun k => { k with ctlb := k.ctlb.filter (fun e => !x.hits e) }), true)
      else ({ s with ltlb := s.ltlb.filter (fun e => !x.hits e) }, true)
    if ready then
      let y := { x with waiting := x.waiting.filter (fun i => i != r) }
      if y.waiting.isEmpty then { s with shoots := s.shoots.filter (fun z => z != x) }.afterShoot y
      else { s with shoots := s.shoots.map (fun z => if z = x then y else z) }
    else s

/-- SHOOTDOWN (R399). -/
def execShootdown (receiver : Nat) (s : State) : Host.Outcome State Fault Refusal := done (s.answer receiver)

end Sys2Proof.Machine
end

