-- ==== Sys2Proof/Machine/Barriers.lean ====
section
/-! DEFINITION. Block barriers (R294 to R297): arrivals, holds, BAR.INIT, and the orphaned hold. -/

namespace Sys2Proof.Machine

/-- A barrier of a block. -/
def Core.bar (k : Core) (b : Nat) : Barrier := k.bars.get b {}

/-- The parity bits and the arrived flags of a party (R294). -/
def Core.lpOf (k : Core) (p : Party) : Word × Word :=
  match p with
  | .compute w => ((k.warp w).lp, (k.warp w).arvd)
  | .access w => ((k.warp w).alp, (k.warp w).aarvd)
  | .matrix => (k.mst.lp, k.mst.arvd)

/-- A core with the parity bits and the arrived flags of a party replaced. -/
def Core.setLp (k : Core) (p : Party) (x : Word × Word) : Core :=
  match p with
  | .compute w => k.setWarp w { k.warp w with lp := x.1, arvd := x.2 }
  | .access w => k.setWarp w { k.warp w with alp := x.1, aarvd := x.2 }
  | .matrix => { k with mst := { k.mst with lp := x.1, arvd := x.2 } }

/-- A barrier hold on `b` that has ended is no hold any more (R295). -/
def endHold (b : Nat) (ph : Bool) (h : Option (Nat × Bool)) : Option (Nat × Bool) :=
  match h with
  | some (i, q) => if i = b ∧ q ≠ ph then none else h
  | none => none

/-- The greater of two maps of numbers at each place. -/
def maxMarks (m n : FMap Nat) : FMap Nat := n.foldl (fun m e => m.put e.1 (max e.2 (m.get e.1 0)) 0) m

/-- What an arrival of a party releases (R297): its own operations, and what its barrier waits acquired, by stream instance. -/
def Core.carries (k : Core) (p : Party) : FMap Nat :=
  maxMarks [(partyRank p, k.lastOp)]
    ((k.marks.filter (fun e => e.1 / 128 = partyRank p)).map (fun e => (e.1 % 128, e.2)))

/-- The completion of a barrier wait by a stream instance, an acquire at BLOCK scope of what the arrivals of the phase that has ended
released (R297). -/
def Core.mark (k : Core) (b : Nat) (p : Party) : Core :=
  { k with marks := maxMarks k.marks ((k.bar b).last.map (fun e => (128 * partyRank p + e.1, e.2))) }

/-- The stream instances in a hold on barrier `b` that the phase `ph` ends. -/
def Core.freed (k : Core) (b : Nat) (ph : Bool) : List Party :=
  let on (h : Option (Nat × Bool)) : Bool := h.isSome && (endHold b ph h).isNone
  (k.warps.map (fun e =>
    (if e.2.splits.any (fun p => on p.2.bar) then [Party.compute e.1] else []) ++
      (if on e.2.acc.bar then [Party.access e.1] else []))).flatten ++ (if on k.mst.bar then [.matrix] else [])

/-- Every hold of a block on barrier `b` that its phase ends. -/
def Core.endHolds (k : Core) (b : Nat) : Core :=
  let ph := (k.bar b).ph
  let k := (k.freed b ph).foldl (fun k p => k.mark b p) k
  { k with
    warps := k.warps.mapV (fun x =>
      { x with splits := x.splits.mapV (fun p => { p with bar := endHold b ph p.bar }),
               acc := { x.acc with bar := endHold b ph x.acc.bar } }),
    mst := { k.mst with bar := endHold b ph k.mst.bar },
    halt := k.halt.map (fun h => { h with handler := h.handler.map (fun x => { x with bar := endHold b ph x.bar }) }) }

/-- One arrival counted on a barrier (R295); the arrivals of copies and KLDs are this alone. -/
def Core.count (k : Core) (b : Nat) : Core :=
  let x := k.bar b
  let y : Barrier := if x.n + 1 = x.expect then { x with n := 0, ph := !x.ph, now := [], last := x.now } else { x with n := x.n + 1 }
  let k := { k with bars := k.bars.put b y {} }
  if x.n + 1 = x.expect then k.endHolds b else k

/-- The arrival of a party (R295). -/
def Core.arrive (k : Core) (p : Party) (b : Nat) : Core :=
  let l := k.lpOf p
  let x := k.bar b
  let k := { k with bars := k.bars.put b { x with now := maxMarks x.now (k.carries p) } {} }
  (k.setLp p (putBit l.1 b x.ph, putBit l.2 b true)).count b

/-- The parity that a wait of a party takes, and the core after it (R295). -/
def Core.takeParity (k : Core) (p : Party) (b : Nat) : Bool × Core :=
  let l := k.lpOf p
  (if l.2.getLsbD b then l.1.getLsbD b else (k.bar b).ph, k.setLp p (l.1, putBit l.2 b false))

/-- The barrier hold of the issuing stream instance. -/
def Env.setBar (e : Env) (s : State) (h : Option (Nat × Bool)) : State :=
  match e.st with
  | .access => s.onWarp e.c e.w (fun x => { x with acc := { x.acc with bar := h } })
  | .matrix => s.onCore e.c (fun k => { k with mst := { k.mst with bar := h } })
  | _ =>
    if e.handler then
      s.onCore e.c (fun k => match k.halt with
        | some t => { k with halt := some { t with handler := t.handler.map (fun x => { x with bar := h }) } }
        | none => k)
    else e.onSplit s (fun p => { p with bar := h })

/-- BAR.ARV, MBAR.ARV (R295, R225). -/
def Env.barArrive (e : Env) (s : State) (b : Nat) : State := s.onCore e.c (fun k => k.arrive e.party b)

/-- BAR.WAIT, MBAR.WAIT (R295): the parity is taken, and the party is held until the phase has ended. -/
def Env.barWait (e : Env) (s : State) (b : Nat) : State :=
  let r := (s.core e.c).takeParity e.party b
  let s := s.setCore e.c (if (r.2.bar b).ph = r.1 then r.2 else r.2.mark b e.party)
  e.setBar s (if (r.2.bar b).ph = r.1 then some (b, r.1) else none)

/-- BAR.ARV (R295). -/
def execBarArv (w : RWord) (s : State) : Host.Outcome State Fault Refusal :=
  runWord .barArv (.r w) (whenActive (fun e s => .ok (e.barArrive (e.quick s) w.a.toNat))) s

/-- BAR.WAIT (R295). -/
def execBarWait (w : RWord) (s : State) : Host.Outcome State Fault Refusal :=
  runWord .barWait (.r w) (whenActive (fun e s => .ok (e.barWait (e.quick s) w.a.toNat))) s

/-- BAR.SYNC (R295). -/
def execBarSync (w : RWord) (s : State) : Host.Outcome State Fault Refusal :=
  runWord .barSync (.r w) (whenActive (fun e s =>
    .ok (e.barWait (e.barArrive (e.quick s) w.a.toNat) w.a.toNat))) s

/-! Arrivals still to come. -/

/-- The cores of a stack group's mask for an operation of core `c` (R205, R250): bit i of the mask is core 4g + i. -/
def maskCores (c mask : Nat) : List Nat := ((List.range 4).filter (fun i => mask.testBit i)).map (fun i => c / 4 * 4 + i)

/-- The barrier on which an operation of core `c` will arrive, and the cores whose blocks it reaches: CPTM, and KLD with
MC = 1 (R205, R250). -/
def arrivals (c : Nat) (o : Op) : Option (Nat × List Nat) :=
  match o.body with
  | .r w =>
    match o.fn with
    | .cptm => some (w.fld 9 5, maskCores c (w.fld 13 10))
    | .kldK | .kldV => if w.mb 21 then some (w.fld 16 12, maskCores c (w.fld 20 17)) else none
    | _ => none
  | _ => none

/-- Whether two cores run blocks of one launch (R205). -/
def State.sameLaunch (s : State) (c d : Nat) : Bool :=
  match (s.core c).block, (s.core d).block with
  | some x, some y => x.launch == y.launch
  | _, _ => false

/-- The barrier and the receivers of each KLD with MC = 1 that a KV_FAULT has stopped on a core and that a return may still
continue (R251, R252), read from the word at its PC (log 34). -/
def State.stoppedTiles (s : State) (d : Nat) : List (Nat × List Nat) :=
  let k := s.core d
  let halted := match k.halt with
    | some h =>
      let prog := if h.entered then k.sysReg 0x00E else h.trap.kvprog.setWidth 64
      if h.trap.cause = .kvFault ∧ prog.getLsbD 63 then [h.pc] else []
    | none => []
  (halted ++ (k.replays.filter (·.kv)).map (·.pc)).filterMap (fun pc =>
    match s.fetchWord k.tlb k.asid pc.toNat false with
    | some bs =>
      let w := rOf (wordOfBytes bs)
      if w.mb 21 then some (w.fld 16 12, maskCores d (w.fld 20 17)) else none
    | none => none)

/-- Whether a copy or KLD that will arrive on barrier `b` of core `c`'s block is outstanding (R296, R297). -/
def State.willArrive (s : State) (c b : Nat) : Bool :=
  (List.range 4).any (fun i =>
    let d := c / 4 * 4 + i
    s.sameLaunch d c && ((s.core d).ops.any (fun o => o.stage != .done &&
      (match arrivals d o with
       | some (bn, cs) => bn == b && cs.contains c
       | none => false)) || (s.stoppedTiles d).any (fun e => e.1 == b && e.2.contains c)))

/-- Whether a party of a block stands at a wait on a barrier. -/
def Core.waitsOn (k : Core) (b : Nat) : Bool :=
  let on (h : Option (Nat × Bool)) : Bool := match h with
    | some (i, _) => i == b
    | none => false
  k.warps.any (fun e => e.2.splits.any (fun p => on p.2.bar) || on e.2.acc.bar) || on k.mst.bar

/-- BAR.INIT (R296). -/
def execBarInit (w : RWord) (s : State) : Host.Outcome State Fault Refusal :=
  runWord .barInit (.r w) (whenActive (fun e s =>
    let b := w.a.toNat
    let n := e.srcB false 0
    if n = 0 ∨ 255 < n then .error (plain .barCount)
    else if (e.k.bar b).n ≠ 0 ∨ e.k.waitsOn b ∨ e.s.willArrive e.c b then .error (plain .barBusy)
    else
      .ok ((e.quick s).onCore e.c (fun k =>
        { k with
          bars := k.bars.put b { expect := n } {},
          warps := k.warps.mapV (fun x =>
            { x with lp := putBit x.lp b false, arvd := putBit x.arvd b false, alp := putBit x.alp b false,
                     aarvd := putBit x.aarvd b false }),
          mst := { k.mst with lp := putBit k.mst.lp b false, arvd := putBit k.mst.arvd b false } })))) s

/-- Whether nothing can end the hold of a party on barrier `b` (R297): every other warp of the block has ended, and so
has this one's other stream, the matrix stream has ended or does not exist, and nothing outstanding will arrive. -/
def State.orphaned (s : State) (c w b : Nat) : Bool :=
  let k := s.core c
  (List.range k.kernel.nwarps).all (fun i => i == w || (k.warp i).ended) && (!k.kernel.matrix || k.mst.mend) &&
    !s.willArrive c b

/-- Whether any stream of a warp other than the held one can still issue an arrival: another split of it that is not held,
or its other stream. -/
def Core.othersCanArrive (k : Core) (w : Nat) (p : Party) (slot : Nat) : Bool :=
  let x := k.warp w
  let isAcc := match p with
    | .access _ => true
    | _ => false
  x.splits.any (fun e => (isAcc || e.1 != slot) && e.2.bar.isNone) ||
    (!isAcc && k.kernel.hasAccess w && !x.acc.aend && x.acc.bar.isNone)

/-- BAR_ORPHAN (R297): the held party raises the trap, TPC naming the wait before its pc; the hold remains. -/
def execBarOrphan (core : Nat) (party : Party) (slot : Nat) (s : State) : Host.Outcome State Fault Refusal :=
  let k := s.core core
  let raise (h : Option (Nat × Bool)) (w : Nat) (pc : Word64) : Host.Outcome State Fault Refusal :=
    match h with
    | some (b, _) =>
      if k.halt.isNone && k.mayIssue s.clk party slot false && s.orphaned core w b && !k.othersCanArrive w party slot then
        done (raiseAt s core party slot (pc - 12) false 7 (plain .barOrphan))
      else .next s
    | none => .next s
  match party with
  | .compute w =>
    match (k.warp w).splits.find slot with
    | some p => raise p.bar w p.pc
    | none => .next s
  | .access w => raise (k.warp w).acc.bar w (k.warp w).acc.apc
  | .matrix => .next s

end Sys2Proof.Machine
end

