-- ==== Sys2Proof/Machine/Copy.lean ====
section
/-! DEFINITION. Shape records, copies, tags and engine-class counters (R196 to R210). -/

namespace Sys2Proof.Machine

/-! Shape records (R196 to R198). -/

/-- A shape record that passes R197, with its element width. Strides are listed from STR1 on. -/
structure Shape where
  base : Nat
  swz : Nat
  rank : Nat
  fmt : Nat
  pad : Nat
  dim : List Nat
  str : List Nat
  box : List Nat
  deriving DecidableEq, Repr, Inhabited

/-- The element width of a record's FMT (R196); 0 for the invalid tags. -/
def fmtWidth (f : Nat) : Nat :=
  match f with
  | 0 | 3 | 9 | 10 | 12 => 8
  | 1 | 6 => 32
  | 2 | 7 | 8 | 13 => 16
  | 4 | 11 => 4
  | 5 => 64
  | _ => 0

def Shape.width (x : Shape) : Nat := fmtWidth x.fmt
def Shape.dimAt (x : Shape) (k : Nat) : Nat := (x.dim[k]?).getD 1
def Shape.boxAt (x : Shape) (k : Nat) : Nat := (x.box[k]?).getD 1
/-- The stride of dimension k from 1 on. -/
def Shape.strAt (x : Shape) (k : Nat) : Nat := (x.str[k - 1]?).getD 0
/-- The bytes of a row, L. -/
def Shape.row (x : Shape) : Nat := x.boxAt 0 * x.width / 8
/-- The rows of the box image. -/
def Shape.rows (x : Shape) : Nat := x.boxAt 1 * x.boxAt 2 * x.boxAt 3 * x.boxAt 4
/-- The swizzle span in bytes. -/
def Shape.span (x : Shape) : Nat := 16 * 2 ^ x.swz

/-- The number of `n` bytes at offset `o` of a record. -/
def recNum (bs : List Byte) (o n : Nat) : Nat := leNat ((bs.drop o).take n)

/-- RANK of a record as it stands. -/
def recRank (bs : List Byte) : Nat := bits (recNum bs 8 4) 6 4

/-- A record as R197 checks it: none for SHAPE_FORM. -/
def parseShape (bs : List Byte) : Option Shape :=
  let h := recNum bs 8 4
  let x : Shape :=
    { base := recNum bs 0 8, swz := bits h 10 8, rank := bits h 6 4, fmt := bits h 3 0, pad := recNum bs 12 4,
      dim := (List.range 5).map (fun k => recNum bs (0x10 + 4 * k) 4),
      str := (List.range 4).map (fun k => recNum bs (0x28 + 8 * k) 8),
      box := (List.range 5).map (fun k => recNum bs (0x48 + 2 * k) 2) }
  let ok :=
    decide (bits h 31 16 = 0) && !bit h 11 && !bit h 7 && bits h 15 12 == 1 && decide (1 ≤ x.rank) && decide (x.rank ≤ 5) &&
      decide (x.swz ≤ 4) && decide (x.fmt < 14) && recNum bs 0x24 4 == 0 && (bs.drop 0x52).all (fun b => b == 0) &&
      (List.range 5).all (fun k =>
        if k < x.rank then decide (x.dimAt k ≠ 0) && decide (1 ≤ x.boxAt k) && decide (x.boxAt k ≤ 256)
        else x.dimAt k == 1 && x.boxAt k == 1) &&
      decide (x.base % 16 = 0) && x.str.all (fun y => decide (y % 16 = 0)) && decide (x.boxAt 0 * x.width % 128 = 0) &&
      (x.swz == 0 || decide (x.row % x.span = 0))
  if ok then some x else none

/-- The 128 bytes of a record (R196). -/
def Core.shapeBytes (k : Core) (n : Nat) : List Byte := k.shapes.getBytes (128 * n) 128

/-- Whether no SHLD or SHSET to a record is incomplete (R199). -/
def Core.shapeFree (k : Core) (n : Nat) : Bool :=
  !k.ops.any (fun o => o.fn == .shld && o.stage != .done && o.body.dIdx == n) &&
    !k.pends.any (fun p => p.wrs.any (fun x => match x with
      | .sh r _ _ => r == n
      | _ => false))

/-- The swizzled offset in a row (R198). -/
def swizzle (swz row o : Nat) : Nat :=
  if swz = 0 then o
  else
    let s := 16 * 2 ^ swz
    o - o % s + ((o % s / 16) ^^^ (row % (s / 16))) * 16 + o % 16

/-! Loading and setting records (R199). -/

/-- SHLD and SHST: the checks hold the stream, and the record moves at the completion. -/
def shapeMove (fn : Fn) (w : RWord) (s : State) : Host.Outcome State Fault Refusal :=
  runWhen fn (.r w) (fun e => e.act == 0 || e.k.shapeFree w.d.toNat) (whenActive (fun e s =>
    let a := BitVec.ofNat 64 (e.srcA true 0)
    .ok (e.launchHeld s (fun o =>
      { o with todo := e.act, dests := [], addr := e.active.map (fun l => (l, a)),
               bytes := if fn = .shst then e.k.shapeBytes w.d.toNat else [] })))) s

def execShld (w : RWord) (s : State) : Host.Outcome State Fault Refusal := shapeMove .shld w s
def execShst (w : RWord) (s : State) : Host.Outcome State Fault Refusal := shapeMove .shst w s

/-- SHSET: the word lands at t + 2. -/
def execShset (w : RWord) (s : State) : Host.Outcome State Fault Refusal :=
  runWhen .shset (.r w) (fun e => e.act == 0 || e.k.shapeFree w.d.toNat) (whenActive (fun e s =>
    .ok (e.retire s 2 [.sh w.d.toNat (w.fld 4 0) (BitVec.ofNat 32 (e.srcA false 0))]))) s

/-- The completion of SHLD and SHST. A load of which data is lost leaves bytes that the spec does not state (R155, log 6). -/
def shapeComplete (s : State) (c : Nat) (o : Op) (err : AccessError) : State :=
  let a := (o.addr.get ((opLanes o).head?.getD 0) 0).toNat
  if o.fn = .shst then completeOp (s.writeRange c o a o.bytes) c o []
  else
    let r := s.readRange c o a 128
    let lost : Bool := match err with
      | .ok => false
      | .dataError => true
      | .fabric _ => windowLanes s c o != 0 || s.badLanes c o != 0
    let bs := if lost then (List.range 128).map (fun i => Config.freeByte (s.fresh + i)) else r.1
    let s := if lost then { r.2 with fresh := r.2.fresh + 128 } else r.2
    completeOp (s.onCore c (fun k => { k with shapes := k.shapes.putBytes (128 * o.body.dIdx) bs })) c o []

/-! What a copy moves (R198, R201). -/

/-- One side of a chunk: memory, the scratchpad, the weight buffer, the weight store. -/
inductive Side where
  | mem (a : Nat)
  | scr (a : Nat)
  | wb (off : Nat)
  | ws (off : Nat)
  deriving DecidableEq, Repr, Inhabited

/-- A chunk of 16 bytes: its sides, the bits from `lo` up to `hi` that are elements of the tensor, and what the others,
padding, deliver. -/
structure Chunk where
  src : Side
  dst : Side
  lo : Nat
  hi : Nat
  pad : Nat
  deriving DecidableEq, Repr, Inhabited

/-- An integer clamped to 0 … n. -/
def clampTo (n : Nat) (x : Int) : Nat := if x < 0 then 0 else if (n : Int) < x then n else x.toNat

/-- The padding pattern of 16 bytes. -/
def Shape.padding (x : Shape) : Nat :=
  (List.range (128 / x.width)).foldl (fun acc i => acc + (x.pad % 2 ^ x.width) * 2 ^ (x.width * i)) 0

/-- Chunk `j` of row `row` of a box at coordinates `cs`, between memory and the image at `img` (R198). -/
def Shape.chunk (x : Shape) (cs : List Int) (toMem : Bool) (img : Nat → Side) (row j : Nat) : Chunk :=
  let i1 := row % x.boxAt 1
  let i2 := row / x.boxAt 1 % x.boxAt 2
  let i3 := row / (x.boxAt 1 * x.boxAt 2) % x.boxAt 3
  let i4 := row / (x.boxAt 1 * x.boxAt 2 * x.boxAt 3)
  let at' (k i : Nat) : Int := ((cs[k]?).getD 0) + (i : Int)
  let inside := [(1, i1), (2, i2), (3, i3), (4, i4)].all (fun e =>
    decide (0 ≤ at' e.1 e.2) && decide (at' e.1 e.2 < (x.dimAt e.1 : Int)))
  let n := 128 / x.width
  let first := at' 0 (j * n)
  let lo := clampTo n (-first)
  let hi := clampTo n ((x.dimAt 0 : Int) - first)
  let sum := [(1, i1), (2, i2), (3, i3), (4, i4)].foldl (fun acc e => acc + at' e.1 e.2 * (x.strAt e.1 : Int)) 0
  let addr := ((x.base : Int) + first * (x.width : Int) / 8 + sum) % (2 ^ 64 : Int)
  let m : Side := .mem addr.toNat
  let p := img (row * x.row + swizzle x.swz row (16 * j))
  let width := if inside ∧ lo < hi then (lo * x.width, hi * x.width) else (0, 0)
  { src := if toMem then p else m, dst := if toMem then m else p, lo := width.1, hi := width.2, pad := x.padding }

/-- Every chunk of a box. -/
def Shape.chunks (x : Shape) (c : List Int) (toMem : Bool) (img : Nat → Side) : List Chunk :=
  ((List.range x.rows).map (fun r => (List.range (x.row / 16)).map (fun j => x.chunk c toMem img r j))).flatten

/-- The chunks of a linear copy. -/
def linearChunks (src dst : Nat → Side) (len : Nat) : List Chunk :=
  (List.range (len / 16)).map (fun i => ⟨src (16 * i), dst (16 * i), 0, 128, 0⟩)

/-- An argument that an operation captured. -/
def Op.arg (o : Op) (i : Nat) : Word64 := (o.args[i]?).getD 0

/-- The chunks of a copy in flight (R201, R228). -/
def copyChunks (o : Op) : List Chunk :=
  match o.body with
  | .r w =>
    let a := (o.arg 0).toNat
    let coords := (o.args.drop 1).map (fun x => sgn 32 x.toNat)
    let toMem := o.fn == .cpt && w.mb 15
    match o.fn with
    | .cpt | .cptm | .cpw =>
      (match parseShape o.bytes with
       | some x => x.chunks coords toMem (fun i => if o.fn = .cpw then .wb (a + i) else .scr (a + i))
       | none => [])
    | .cpl =>
      let src := (o.arg 1).toNat
      linearChunks (fun i => if w.mb 14 then .scr (src + i) else .mem ((src + i) % 2 ^ 64))
        (fun i => if w.mb 15 then .scr (a + i) else .mem ((a + i) % 2 ^ 64)) (o.arg 2).toNat
    | .wbld =>
      let src := (o.arg 1).toNat
      linearChunks (fun i => if w.mb 15 then .ws (src + i) else .mem ((src + i) % 2 ^ 64)) (fun i => .wb (a + i))
        (o.arg 2).toNat
    | _ => []
  | _ => []

/-- Whether a function is a copy. -/
def isCopy (f : Fn) : Bool := f == .cpt || f == .cptm || f == .cpw || f == .cpl || f == .wbld

/-- TAG of a copy. -/
def copyTag (b : Body) : Nat := match b with
  | .r w => w.fld 21 16
  | _ => 0

/-! Issue (R200 to R202). -/

/-- The coordinates that a copy reads: registers from B on, RANK of them. -/
def Env.coords (e : Env) (w : RWord) (rank : Nat) : List Word64 :=
  (List.range rank).map (fun i => BitVec.ofNat 64 (e.src false w.bsel (w.b.toNat + i) 0))

/-- The range and scoreboard checks of the coordinate registers, whose number the record gives (R200). -/
def Env.coordTrap (e : Env) (w : RWord) (rank : Nat) : Option Trap :=
  let top := if e.st = .access then 64 else 256
  let kind : RegKind := if e.st = .access then .a else .s
  if top < w.b.toNat + rank then some (plain .regRange)
  else schedTrap e.k e.kernel e.party e.ctl.wait (regsFrom kind e.w w.b.toNat rank)

/-- A trap with an address. -/
def addrTrap (c : Cause) (a : Nat) : Trap := { cause := c, addr := BitVec.ofNat 64 a }

/-- A copy leaves the tag busy (R202). -/
def Core.takeTag (k : Core) (t : Nat) : Core :=
  { k with busy := putBit k.busy t true, tags := putBit k.tags t false, tagerr := putBit k.tagerr t false,
           tagrec := k.tagrec.put t {} {} }

/-- The issue of a copy whose checks have passed. -/
def Env.startCopy (e : Env) (s : State) (t : Nat) (args : List Word64) (bytes : List Byte) : State :=
  let seq := if e.st = .matrix then 0 else e.wp.copies + 1
  let s := e.launchOp s .go (fun o => { o with args, bytes, seq, lanes := 1 })
  let s := s.onCore e.c (fun k => k.takeTag t)
  if e.st = .matrix then s else s.onWarp e.c e.w (fun x => { x with copies := x.copies + 1 })

/-- Whether a copy's tag is free. -/
def Env.tagFree (e : Env) (t : Nat) : Bool := e.act == 0 || !e.k.busy.getLsbD t

/-- A tiled copy: CPT, CPTM, CPW. -/
def tiledCopy (fn : Fn) (w : RWord) (s : State) : Host.Outcome State Fault Refusal :=
  runWhen fn (.r w) (fun e => e.tagFree (w.fld 21 16) && (e.act == 0 || e.k.shapeFree w.d.toNat)) (whenActive (fun e s =>
    let bs := e.k.shapeBytes w.d.toNat
    let rank := if recRank bs ≤ 5 then recRank bs else 0
    let a := e.srcA false 0
    let cs := e.coords w rank
    match e.coordTrap w rank with
    | some t => .error t
    | none =>
      match parseShape bs with
      | none => .error (plain .shapeForm)
      | some x =>
        if fn = .cpw ∧ x.swz ≠ 0 then .error (plain .shapeForm)
        else if a % 16 ≠ 0 ∨ (x.swz ≠ 0 ∧ a % x.span ≠ 0) then .error (addrTrap .alignFault a)
        else if (((cs[0]?).getD 0).toNat * x.width) % 128 ≠ 0 then .error (addrTrap .alignFault a)
        else
          let top := a + x.row * x.rows
          if fn ≠ .cpw ∧ e.kernel.scratch < top then .error (addrTrap .scratchRange a)
          else if fn = .cpw ∧ 0x80000 < top then .error (addrTrap .wbRange a)
          else .ok (e.startCopy s (w.fld 21 16) (BitVec.ofNat 64 a :: cs) bs))) s

def execCpt (w : RWord) (s : State) : Host.Outcome State Fault Refusal := tiledCopy .cpt w s
def execCptm (w : RWord) (s : State) : Host.Outcome State Fault Refusal := tiledCopy .cptm w s
def execCpw (w : RWord) (s : State) : Host.Outcome State Fault Refusal := tiledCopy .cpw w s

/-- CPL (R200, R201). -/
def execCpl (w : RWord) (s : State) : Host.Outcome State Fault Refusal :=
  runWhen .cpl (.r w) (fun e => e.tagFree (w.fld 21 16)) (whenActive (fun e s =>
    let i := w.a.toNat
    let (dst, src, len) :=
      if e.st = .access then (e.wp.areg i, e.wp.areg (i + 1), e.wp.areg (i + 2) % 2 ^ 32)
      else (e.wp.sreg true i, e.wp.sreg true (i + 2), e.wp.sreg false (i + 4))
    let dst := if w.mb 15 then dst % 2 ^ 32 else dst
    let src := if w.mb 14 then src % 2 ^ 32 else src
    if dst % 16 ≠ 0 then .error (addrTrap .alignFault dst)
    else if src % 16 ≠ 0 then .error (addrTrap .alignFault src)
    else if len % 16 ≠ 0 then .error (addrTrap .alignFault dst)
    else if 0x1000000 < len then .error (addrTrap .scratchRange dst)
    else if w.mb 15 ∧ e.kernel.scratch < dst + len then .error (addrTrap .scratchRange dst)
    else if w.mb 14 ∧ e.kernel.scratch < src + len then .error (addrTrap .scratchRange src)
    else .ok (e.startCopy s (w.fld 21 16) [BitVec.ofNat 64 dst, BitVec.ofNat 64 src, BitVec.ofNat 64 len] []))) s

/-! Tags and counters (R207 to R209). -/

/-- The 64-bit mask operand of a tag instruction. -/
def Env.tagMask (e : Env) : Word64 := BitVec.ofNat 64 (e.srcA true 0)

/-- The lowest tag of a set, 64 for none. -/
def lowestTag (m : Word64) : Nat := ((List.range 64).find? (fun t => m.getLsbD t)).getD 64

/-- The result register of a tag instruction in its stream (R207). -/
def Env.tagWr (e : Env) (d x : Nat) : List Wr :=
  match e.st with
  | .access => [.a e.w d (BitVec.ofNat 64 x)]
  | .matrix => [.m d (BitVec.ofNat 32 x)]
  | _ => [.s e.w d (BitVec.ofNat 32 x)]

/-- WAITALL (R207, R208). -/
def execWaitall (w : RWord) (s : State) : Host.Outcome State Fault Refusal :=
  runWhen .waitall (.r w) (fun e => e.act == 0 || e.k.busy &&& e.tagMask == 0) (whenActive (fun e s =>
    let bad := e.k.tagerr &&& e.tagMask
    if bad ≠ 0 then .error (e.k.copyTrap (lowestTag bad)) else .ok (e.quick s))) s

/-- WAITANY (R207, R208). -/
def execWaitany (w : RWord) (s : State) : Host.Outcome State Fault Refusal :=
  runWhen .waitany (.r w)
    (fun e => e.act == 0 || e.k.tags &&& e.tagMask != 0 || e.k.busy &&& e.tagMask == 0) (whenActive (fun e s =>
    let t := lowestTag (e.k.tags &&& e.tagMask)
    if t < 64 ∧ e.k.tagerr.getLsbD t then .error (e.k.copyTrap t)
    else .ok (e.retire s 3 (e.tagWr w.d.toNat t)))) s

/-- TAGFIND (R207). -/
def execTagfind (w : RWord) (s : State) : Host.Outcome State Fault Refusal :=
  runFixed .tagfind (.r w) (fun _ => 3) (fun _ => none) (fun e =>
    e.tagWr w.d.toNat (lowestTag (e.tagMask &&& (if w.mb 0 then ~~~e.k.busy else e.k.tags)))) s

/-- TAGCLR (R207, R208). -/
def execTagclr (w : RWord) (s : State) : Host.Outcome State Fault Refusal :=
  runWord .tagclr (.r w) (whenActive (fun e s =>
    let m := e.tagMask &&& ~~~e.k.busy
    .ok ((e.quick s).onCore e.c (fun k =>
      { k with tags := k.tags &&& ~~~m, tagerr := k.tagerr &&& ~~~m,
               tagrec := (setBitsOf m 64).foldl (fun r t => r.put t { r.get t {} with reported := false } {}) k.tagrec })))) s

/-- WAITC (R208, R209, R254). -/
def execWaitc (w : RWord) (s : State) : Host.Outcome State Fault Refusal :=
  let cls := w.fld 21 20
  let n := w.fld 7 0
  runWhen .waitc (.r w) (fun e => e.act == 0 || decide (e.wp.eng.get cls 0 ≤ n)) (whenActive (fun e s =>
    match (if cls = 0 then e.k.copyFault e.w (e.wp.copies - n)
           else if cls = 1 then e.k.kvDataTrap e.w true else none) with
    | some t => .error t
    | none => .ok (e.quick s))) s

/-! The copy engine (R202 to R206). -/

/-- What the copy engine finds at the page of an address: a place, a page it has asked for or must wait for, a port that it
must wait for, a refusal, no grant, a window that cannot be reached. -/
inductive CopyPage where
  | ok (leaf : Nat) (p : Place)
  | absent
  | moving
  | port
  | fabric
  | refused
  | denied
  deriving DecidableEq, Repr, Inhabited

/-- The translation of a copy's memory address (R203, R204, R312). The pages that the MMP refused, and those whose wait on
a MIGRATING entry passed its bound, stand in the operation's `outs`. -/
def State.copyPage (s : State) (c : Nat) (o : Op) (need : Need) (va : Nat) : CopyPage :=
  let failed := o.outs.get (va / 2 ^ 16) 0 != 0
  let asid := (s.core c).asid
  match s.xlate (s.core c).ctlb asid va with
  | .invalid => .refused
  | .notres _ => if failed then .refused else .absent
  | .migrating _ => if failed then .refused else .moving
  | .ok leaf base _ =>
    if !(permits leaf need o.handler && regionIn o.regions leaf) then .denied
    else
      match placeOf leaf base va with
      | .window m off =>
        (match o.bounded (if need = .write then s.windowWrite asid m off (toLe 0 16) else s.windowRead asid m off 16) with
         | .ok => .ok leaf (.window m off)
         | .wait => .port
         | .bad _ => .fabric)
      | p => .ok leaf p

/-- The copy engine's TLB with the translations of a list of addresses (R393). -/
def State.fillCtlb (s : State) (c : Nat) (vas : List Nat) : State :=
  vas.foldl (fun s va =>
    let x := s.walk (s.core c).asid va
    s.onCore c (fun k => { k with ctlb := tlbAdd k.ctlb 64 (s.core c).asid x })) s

/-- The memory sides of a chunk that it accesses, with what it needs of them. -/
def Chunk.sides (x : Chunk) : List (Nat × Need) :=
  if x.lo < x.hi then
    (match x.src with
     | .mem a => [(a, Need.read)]
     | _ => []) ++
    (match x.dst with
     | .mem a => [(a, Need.write)]
     | _ => [])
  else []

/-- What the copy engine finds at the pages of a chunk. -/
def chunkPages (s : State) (c : Nat) (o : Op) (x : Chunk) : List (Nat × Need × CopyPage) :=
  x.sides.map (fun e => (e.1, e.2, s.copyPage c o e.2 e.1))

/-- Whether every page of a chunk can be accessed. -/
def chunkReady (s : State) (c : Nat) (o : Op) (x : Chunk) : Bool :=
  (chunkPages s c o x).all (fun e => match e.2.2 with
    | .ok _ _ => true
    | _ => false)

/-- The cores whose scratchpads take a copy's image: those of CPTM's mask that run a block of the launch (R205); else the
issuer's. -/
def copyTargets (s : State) (c : Nat) (o : Op) : List Nat :=
  match arrivals c o with
  | some (_, cs) => cs.filter (fun d => s.sameLaunch c d)
  | none => [c]

/-- Whether a receiver's SCRATCH holds an image that ends at `top`. -/
def fits (s : State) (d top : Nat) : Bool := decide (top ≤ (s.core d).kernel.scratch)

/-- The end of a copy's scratchpad image. -/
def imageTop (o : Op) : Nat := match parseShape o.bytes with
  | some x => (o.arg 0).toNat + x.row * x.rows
  | none => 0

/-- The 16 bytes at a side of a chunk, as a number. -/
def readSide (s : State) (c : Nat) (o : Op) (need : Need) (x : Side) : Nat × State :=
  match x with
  | .mem a =>
    match s.copyPage c o need a with
    | .ok leaf p => let r := s.loadAt c 1 leaf p 16; (leNat r.1, r.2)
    | _ => (0, s)
  | .scr a => ((s.core c).scratch.num a 16, s)
  | .wb a => ((s.core c).wbuf.num a 16, s)
  | .ws a => (s.ws.num (wsKey (dieOf c) a) 16, s)

/-- One chunk moved (R201, R206): padding is delivered to an image and skipped in memory. -/
def moveChunk (s : State) (c : Nat) (o : Op) (targets : List Nat) (x : Chunk) : State :=
  let mask := if x.lo < x.hi then 2 ^ x.hi - 2 ^ x.lo else 0
  let (v, s) := if x.lo < x.hi then readSide s c o .read x.src else (0, s)
  match x.dst with
  | .mem a =>
    if x.lo < x.hi then
      match s.copyPage c o .write a with
      | .ok leaf p =>
        let old := leNat (s.readPlace (s.heldBy c leaf) p 16)
        let new := (v &&& mask) ||| (old - (old &&& mask))
        let first := x.lo / 8
        let last := (x.hi + 7) / 8
        let p' : Place := match p with
          | .hbm pa => .hbm (pa + first)
          | .host pa => .host (pa + first)
          | .window m off => .window m (off + first)
        s.storeAt c 1 leaf p' (((toLe new 16).drop first).take (last - first))
      | _ => s
    else s
  | .scr a =>
    let bs := toLe ((v &&& mask) ||| (x.pad - (x.pad &&& mask))) 16
    targets.foldl (fun s d => s.onCore d (fun k => { k with scratch := k.scratch.putBytes a bs })) s
  | .wb a =>
    let bs := toLe ((v &&& mask) ||| (x.pad - (x.pad &&& mask))) 16
    s.onCore c (fun k => { k with wbuf := k.wbuf.putBytes a bs })
  | .ws _ => s

/-- The receivers whose scratchpads take the image. -/
def copyReceivers (s : State) (c : Nat) (o : Op) : List Nat :=
  (copyTargets s c o).filter (fun d => o.fn != .cptm || fits s d (imageTop o))

/-- Chunks moved in order. -/
def moveChunks (s : State) (c : Nat) (o : Op) (xs : List Chunk) : State :=
  let ts := copyReceivers s c o
  xs.foldl (fun s x => moveChunk s c o ts x) s

/-- The completion of a copy with a status (R202, R203, R205): the tag is done, the arrivals of CPTM are made, its counter
and its flag fall. -/
def finishCopy (s : State) (c : Nat) (o : Op) (status : Nat) (faddr : Word64) : State :=
  let t := copyTag o.body
  let warp := if o.party = .matrix then 32 else partyWarp o.party
  let s := s.onCore c (fun k =>
    { k with busy := putBit k.busy t false, tags := putBit k.tags t true, tagerr := putBit k.tagerr t (status != 0),
             tagrec := k.tagrec.put t
               (if status = 0 then {} else { seq := o.seq, status, faddr, pc := o.pc, warp }) {} })
  let s := match arrivals c o with
    | some (b, _) => (copyTargets s c o).foldl (fun s d => s.onCore d (fun k => k.count b)) s
    | none => s
  completeOp s c o []

/-- Whether a lane of an operation already waits for a page request. -/
def State.waiting (s : State) (c op lane : Nat) : Bool :=
  let mine (r : PageReq) : Bool := r.waiters.any (fun x => x.core == c && x.op == op && x.lane == lane)
  s.mmpq.any mine || s.calls.any (fun x => mine x.req)

/-- The pages of memory that a chunk accesses. -/
def Chunk.pages (x : Chunk) : List Nat := x.sides.map (fun e => e.1 / 2 ^ 16)

/-- The pages that the engine has asked for, or moves bytes of: up to 8 pages from the first chunk on (R204). -/
def aheadPages (xs : List Chunk) : List Nat := ((xs.map Chunk.pages).flatten.eraseDups).take 8

/-- Whether a shootdown for an address space is pending (R398). -/
def State.shootPending (s : State) (asid : Nat) : Bool := s.shoots.any (fun x => x.asid == asid)

/-- Whether the engine pauses before a chunk: the chunk would be its first access to a page while a shootdown is pending (R204). -/
def copyPauses (s : State) (c : Nat) (o : Op) (xs : List Chunk) (x : Chunk) : Bool :=
  s.shootPending (s.core c).asid && x.pages.any (fun p => !(xs.take o.pos).any (fun y => y.pages.contains p))

/-- The chunks that the engine can move now, from its position on: up to one that it must wait for, or that fails (R204). -/
def copyRun (s : State) (c : Nat) (o : Op) (xs : List Chunk) : List Chunk :=
  (xs.drop o.pos).takeWhile (fun x => chunkReady s c o x && !copyPauses s c o xs x)

/-- Whether the engine has reached the pages of a chunk: those of the chunk at its position (R204). -/
def copyReached (s : State) (c : Nat) (o : Op) (xs : List Chunk) (n : Nat) : Bool :=
  match xs[o.pos]?, xs[n]? with
  | some y, some x => decide (o.pos ≤ n) && x.pages.all (fun p => y.pages.contains p) && !copyPauses s c o xs x
  | _, _ => false

/-- The MIGRATING pages of the chunk at the engine's position, under their numbers plus 1, with the ticks from which it waits for them
(R395). -/
def movingPages (s : State) (c : Nat) (o : Op) (xs : List Chunk) : FMap Nat :=
  (xs.take 1).foldl (fun m x => (chunkPages s c o x).foldl (fun m e =>
    let p := e.1 / 2 ^ 16 + 1
    if e.2.2 = .moving then m.set p (o.waits.get p s.ref) else m) m) []

/-- The engine waits at the first of its remaining chunks. It asks the MMP for the absent pages up to 8 pages ahead, each once (R203,
R204, R394), and notes since when it waits for a migration or a port. -/
def askPages (s : State) (c : Nat) (o : Op) (xs : List Chunk) : State :=
  let held := (xs.take 1).any (fun x => (chunkPages s c o x).any (fun e => e.2.2 == .port))
  let s := s.setOp c { o with waits := movingPages s c o xs, port := if held then some (o.port.getD s.ref) else none }
  let near := aheadPages xs
  xs.foldl (fun s x => (chunkPages s c o x).foldl (fun s e =>
    if e.2.2 = .absent ∧ near.contains (e.1 / 2 ^ 16) ∧ ¬ s.waiting c o.id (e.1 / 2 ^ 16) then
      s.post (s.core c).asid e.1 (some e.2.1) o.handler [⟨c, o.id, e.1 / 2 ^ 16⟩]
    else s) s) s

/-- COPY_COMPLETION (R202 to R204): a failed copy completes; else the engine moves the chunks that it can, from its position on, and
completes the copy, or waits at the chunk that it cannot move. -/
def execCopyCompletion (core op : Nat) (s : State) : Host.Outcome State Fault Refusal :=
  match (s.core core).findOp op with
  | some o =>
    if !isCopy o.fn || o.stage == .done || !(s.core core).writesDone o.party o.id then .next s
    else if o.status ≠ 0 then done (finishCopy s core o o.status o.faddr)
    else
      let xs := copyChunks o
      let run := copyRun s core o xs
      let t := moveChunks (s.fillCtlb core (run.map (fun x => x.sides.map (·.1))).flatten) core o run
      if xs.length ≤ o.pos + run.length then
        if o.fn == .cptm && (copyTargets s core o).any (fun d => !fits s d (imageTop o)) then
          done (finishCopy { t with fresh := t.fresh + 1 } core o 5 (Config.freeWord64 t.fresh))
        else done (finishCopy t core o 0 0)
      else done (askPages t core { o with pos := o.pos + run.length } (xs.drop (o.pos + run.length)))
  | none => .next s

/-- Whether a chunk can have failed with a status (R203): refused pages, pages not granted, lost source data, a window
access. -/
def failsWith (s : State) (c : Nat) (o : Op) (x : Chunk) (status : Nat) : Bool :=
  let pages := chunkPages s c o x
  match status with
  | 1 => pages.any (fun e => e.2.2 == .refused)
  | 2 => pages.any (fun e => e.2.2 == .denied)
  | 3 =>
    (match x.src with
     | .ws _ => true
     | .mem _ => chunkReady s c o x && decide (x.lo < x.hi)
     | _ => false)
  | 4 => pages.any (fun e => match e.2.2 with
    | .ok _ (.window _ _) => true
    | .fabric => true
    | _ => false)
  | _ => false

/-- The lowest byte of a failing chunk. -/
def failAddr (s : State) (c : Nat) (o : Op) (x : Chunk) (status : Nat) : Word64 :=
  let pages := chunkPages s c o x
  let hit := pages.find? (fun e => match status, e.2.2 with
    | 1, .refused => true
    | 2, .denied => true
    | 4, .ok _ (.window _ _) => true
    | 4, .fabric => true
    | 3, _ => e.2.1 == .read
    | _, _ => false)
  match hit, x.src with
  | some e, _ => BitVec.ofNat 64 e.1
  | none, .ws a => BitVec.ofNat 64 a
  | none, _ => 0

/-- COPY_FAILURE (R203, R204): the engine learns that a chunk failed of which it has reached the pages; the writes already on their way
land, and it starts no further chunk. -/
def execCopyFailure (core op chunk status : Nat) (landed : List Nat) (s : State) : Host.Outcome State Fault Refusal :=
  match (s.core core).findOp op with
  | some o =>
    if !isCopy o.fn || o.stage == .done || o.status != 0 || !(s.core core).writesDone o.party o.id then .next s
    else
      let xs := copyChunks o
      match xs[chunk]? with
      | some x =>
        if failsWith s core o x status && copyReached s core o xs chunk then
          let moved := (landed.filter (fun i => i != chunk && copyReached s core o xs i)).filterMap (fun i => xs[i]?)
          let s' := moveChunks s core o (moved.filter (chunkReady s core o))
          let s' := if status = 3 then s'.noteError 3 core (some o.pc.toNat) else s'
          done (s'.setOp core { o with status, faddr := failAddr s core o x status })
        else .next s
      | none => .next s
  | none => .next s

end Sys2Proof.Machine
end

