-- ==== Sys2Proof/Machine/Kv.lean ====
section
/-! DEFINITION. KV space and attention (R236 to R259): coordinates, the residency map and its walk, KVSEL, KST, KPROBE, KMAP,
KUNMAP, the tile loads with their restart, and what the MMP does to KV pages. -/

namespace Sys2Proof.Machine

/-! Spaces and the residency map. -/

/-- A KV space (R237). -/
structure KvSpace where
  sdir : Nat
  nlayer : Nat
  nhead : Nat
  dh : Nat
  nseq : Nat
  npage : Nat
  deriving DecidableEq, Repr, Inhabited

/-- The descriptor of a space; none where it is not valid or a reserved bit is set (R237, R242). -/
def Context.kvSpace (x : Context) (n : Nat) : Option KvSpace :=
  let w (o len : Nat) : Nat := x.kvtab.num (64 * n + o) len
  let a := w 0 8
  let b := w 8 4
  let c := w 0xC 4
  let d := w 0x10 4
  if bit a 0 && bits a 11 1 == 0 && bits b 15 3 == 0 && bits c 31 20 == 0 && bits d 31 18 == 0 && w 0x14 44 == 0 then
    some { sdir := bits a 63 12 * 2 ^ 12, nlayer := bits b 31 24, nhead := bits b 23 16, dh := 32 * (bits b 2 0 + 1),
           nseq := bits c 19 0, npage := bits d 17 0 }
  else none

/-- The space number that an operation captured, and its descriptor; a descriptor cannot become invalid while it is used. -/
def State.spaceOf (s : State) (asid n : Nat) : KvSpace := ((s.ctx asid).kvSpace n).getD default

/-- The page size of a space (R87). -/
def kvPageSize (dh : Nat) : Nat :=
  let n := 192 + 99 * dh
  if n ≤ 4096 then 4096 else if n ≤ 8192 then 8192 else if n ≤ 16384 then 16384 else 32768

/-- Fields of a coordinate (R236). -/
def coordSeq (x : Nat) : Nat := bits x 63 44
def coordLayer (x : Nat) : Nat := bits x 43 36
def coordHead (x : Nat) : Nat := bits x 35 28
def coordPos (x : Nat) : Nat := bits x 23 0

/-- The page of a coordinate within its space. -/
def coordPage (x : Nat) : Nat := x / 2 ^ 28 * 2 ^ 18 + coordPos x / 64

/-- Whether a coordinate lies outside its space (R240). -/
def KvSpace.oob (d : KvSpace) (x : Nat) : Bool :=
  decide (d.nseq < coordSeq x) || decide (d.nlayer < coordLayer x) || decide (d.nhead < coordHead x) ||
    decide (d.npage < coordPos x / 64)

/-- The place of the layer-head entry and of the position-table entry of a coordinate, as far as the levels exist (R239). -/
def KvSpace.seqEntry (d : KvSpace) (x : Nat) : Nat := d.sdir + 8 * coordSeq x
def KvSpace.lhIndex (d : KvSpace) (x : Nat) : Nat := coordLayer x * (d.nhead + 1) + coordHead x

/-- The place of the position-table entry of a coordinate; none where a directory entry on the way has V = 0. -/
def kvEntry (hbm : FMap Byte) (d : KvSpace) (x : Nat) : Option Nat :=
  let e0 := hbm.num (d.seqEntry x) 8
  if !bit e0 0 then none
  else
    let e1 := hbm.num (bits e0 63 12 * 2 ^ 12 + 8 * d.lhIndex x) 8
    if !bit e1 0 then none else some (bits e1 63 12 * 2 ^ 12 + 8 * (coordPos x / 64))

/-- The status of a coordinate (R240), the frame that its entry names, and the entry's place. -/
def State.kvStatus (s : State) (d : KvSpace) (x : Nat) : Nat × Nat × Option Nat :=
  if d.oob x then (5, 0, none)
  else
    match kvEntry s.hbm d x with
    | none => (1, 0, none)
    | some e =>
      let v := s.hbm.num e 8
      let st := bits v 2 0
      (if 5 ≤ st then 5 else st, bits v 63 12 * 2 ^ 12, some e)

/-- A position-table entry. -/
def kvWord (frame st : Nat) : Nat := frame / 2 ^ 12 * 2 ^ 12 + st

/-- The header of a page (R88): its FILL, OVF and OCNT; none where R250 calls it broken. Bytes 8 to 63 read as 0. -/
def State.kvHeader (s : State) (d : KvSpace) (frame : Nat) : Option (Nat × Bool × Nat) :=
  let h := s.hbm.num frame 4
  let oc := s.hbm.num (frame + 4) 4
  let g := d.dh / 32
  if bits h 31 24 = 1 ∧ bits h 23 16 = g ∧ bits h 15 8 ≤ 64 ∧ bits h 7 1 = 0 ∧ oc < 16 ^ g ∧
      (List.range g).all (fun i => decide (bits oc (4 * i + 3) (4 * i) ≤ 8)) then
    some (bits h 15 8, bit h 0, oc)
  else none

/-- A walk to the page of a coordinate (R250): the status with a broken header as POISON, and the frame. -/
def State.kvWalk (s : State) (d : KvSpace) (x : Nat) : Nat × Nat × Nat :=
  let (st, frame, _) := s.kvStatus d x
  if st = 0 then
    match s.kvHeader d frame with
    | some (fill, _, _) => (0, frame, fill)
    | none => (4, frame, 0)
  else (st, frame, 0)

/-- A KV walker's cache with one more entry, within its capacity (R241, log 7). -/
def State.kvCache (s : State) (c asid space page frame : Nat) : State :=
  s.onCore c (fun k => { k with kvc := ((⟨asid, space, page, frame⟩ : KvEntry) ::
    k.kvc.filter (fun e => !(e.asid == asid && e.space == space && e.page == page))).take 64 })

/-- An entry invalidated in every KV walker (R241). -/
def State.kvDrop (s : State) (asid space page : Nat) : State :=
  { s with cores := s.cores.mapV (fun k =>
      { k with kvc := k.kvc.filter (fun e => !(e.asid == asid && e.space == space && e.page == page)) }) }

/-- Whether some core reads a frame under an entry that its walk has read (R241). -/
def State.kvReading (s : State) (frame : Nat) : Bool :=
  s.cores.any (fun e => e.2.ops.any (fun o =>
    (o.fn == .kldK || o.fn == .kldV) && o.stage == .go && o.outs.any (fun p => p.2.toNat == frame)))

/-! Decoding (R89 to R91, R249). -/

/-- A product rounded once to BF16. -/
def kvProduct (a b : Num) : Nat := (deliver (fmtOf 10) .rn false true (mulNum a b).1).1

/-- The outlier that names a position and channel: the lowest valid entry (R89). -/
def State.kvOutlier (s : State) (d : KvSpace) (frame oc p ch : Nat) : Option Nat :=
  let g := ch / 32
  let n := bits oc (4 * g + 3) (4 * g)
  let es := (List.range n).map (fun i => s.hbm.num (frame + 192 + 2 * d.dh + 32 * g + 4 * i) 4)
  (es.find? (fun e => bits e 10 5 == p && bits e 4 0 == ch % 32)).map (fun e => bits e 31 16)

/-- One key element decoded (R90). -/
def State.kvKey (s : State) (d : KvSpace) (frame oc p ch : Nat) : Nat :=
  match s.kvOutlier d frame oc p ch with
  | some v => (deliver (fmtOf 10) .rn false true (decodeF (fmtOf 9) v)).1
  | none =>
    let byte := s.hbm.num (frame + 192 + 3 * d.dh + p * (d.dh / 2) + ch / 2) 1
    let q := sgn 4 (if ch % 2 = 0 then byte % 16 else byte / 16)
    kvProduct (intNum q) (decodeF (fmtOf 9) (s.hbm.num (frame + 192 + 2 * ch) 2))

/-- One value element decoded (R91). -/
def State.kvValue (s : State) (d : KvSpace) (frame p ch : Nat) : Nat :=
  kvProduct (decodeF (fmtOf 11) (s.hbm.num (frame + 192 + 35 * d.dh + p * d.dh + ch) 1))
    (decodeF (fmtOf 9) (s.hbm.num (frame + 64 + 2 * p) 2))

/-- The row of a position in a page with FILL `fill` (R249). -/
def State.kvRow (s : State) (d : KvSpace) (key : Bool) (frame fill p : Nat) : List Byte :=
  let oc := s.hbm.num (frame + 4) 4
  ((List.range d.dh).map (fun ch =>
    toLe (if fill ≤ p then 0 else if key then s.kvKey d frame oc p ch else s.kvValue d frame p ch) 2)).flatten

/-! Encoding (R90, R91). -/

/-- The quotient of two finite numbers, the divisor not zero, as a sign, a numerator and a denominator. -/
def quotient (a b : Num) : Option (Bool × Nat × Nat) :=
  match a, b with
  | .fin n m e, .fin n' m' e' =>
    if m' = 0 then none
    else
      let d := e - e'
      some (n != n', if 0 ≤ d then m * 2 ^ d.toNat else m, if 0 ≤ d then m' else m' * 2 ^ (-d).toNat)
  | _, _ => none

/-- A quotient rounded to the nearest integer, ties to even. -/
def roundQuot (num den : Nat) : Nat :=
  let q := num / den
  let r := 2 * (num % den)
  if r < den then q else if den < r then q + 1 else q + q % 2

/-- A quotient delivered into a float format with one rounding: 80 more bits and a sticky bit below them. -/
def quotF (f : Fmt) (mode : RMode) (sat : Bool) (neg : Bool) (num den : Nat) : Nat × Nat :=
  if num = 0 then (signBit f neg, 0)
  else roundF f mode sat true neg (num * 2 ^ 80 / den) (-80) (decide (num * 2 ^ 80 % den ≠ 0))

/-- What an append has made of a page so far: OCNT, OVF, whether an element of this token saturated, and the bytes. -/
structure Append where
  oc : Nat
  ovf : Bool
  sat : Bool
  page : FMap Byte
  deriving DecidableEq, Repr, Inhabited

/-- A key element that a list of outliers takes, or that saturates (R90). -/
def outlier (dh p ch q : Nat) (x : Num) (acc : Append) : Append × Nat :=
  let g := ch / 32
  let n := bits acc.oc (4 * g + 3) (4 * g)
  if n < 8 then
    let v := (deliver (fmtOf 9) .rn false true x).1
    ({ acc with oc := acc.oc + 16 ^ g,
                page := acc.page.putNum (192 + 2 * dh + 32 * g + 4 * n) 4 (v * 2 ^ 16 + p * 2 ^ 5 + ch % 32) }, 0)
  else ({ acc with ovf := true, sat := true }, q)

/-- One key element quantised against its channel's scale (R90). DESIGN CHOICE (log 118): an infinite key against an infinite
scale, whose v R90 leaves undefined, takes the outlier branch, and stores 0 with OVF where the list is full. -/
def encodeKey (dh p ch : Nat) (x sc : Num) (acc : Append) : Append :=
  let (acc, q) : Append × Nat :=
    match x, sc with
    | .nan _, _ => outlier dh p ch 0 x acc
    | _, .nan _ => outlier dh p ch 0 x acc
    | .inf _, .inf _ => outlier dh p ch 0 x acc
    | .fin _ _ _, .inf _ => (acc, 0)
    | .inf n, .fin n' m _ => outlier dh p ch (if m = 0 then 0 else if n = n' then 7 else 8) x acc
    | .fin _ _ _, .fin _ _ _ =>
      match quotient x sc with
      | none => outlier dh p ch 0 x acc
      | some (neg, num, den) =>
        if 2 * num ≤ 15 * den then
          let r := roundQuot num den
          (acc, if neg then (16 - (if 8 < r then 8 else r)) % 16 else (if 7 < r then 7 else r))
        else outlier dh p ch (if neg then 8 else 7) x acc
  let a := 192 + 3 * dh + p * (dh / 2) + ch / 2
  let old := acc.page.num a 1
  { acc with page := acc.page.putNum a 1 (if ch % 2 = 0 then old / 16 * 16 + q else old % 16 + 16 * q) }

/-- The value row of a token (R91). -/
def encodeValues (dh p : Nat) (xs : List Num) (acc : Append) : Append :=
  let bad := xs.any (fun x => match x with
    | .fin _ _ _ => false
    | _ => true)
  let at' := 192 + 35 * dh + p * dh
  if bad then
    { acc with page := (acc.page.putNum (64 + 2 * p) 2 0x7E00).putBytes at' (List.replicate dh 0) }
  else
    let a := xs.foldl maxMag (.fin false 0 0)
    let sc : Nat := match a with
      | .fin _ 0 _ => 0x3C00
      | _ =>
        match quotient a (.fin false 448 0) with
        | some (_, num, den) => (quotF (fmtOf 9) .ru true false num den).1
        | none => 0x3C00
    let es := xs.map (fun x => match quotient x (decodeF (fmtOf 9) sc) with
      | some (neg, num, den) => quotF (fmtOf 11) .rn true neg num den
      | none => (0, 0))
    let sat := es.any (fun e => e.2 &&& (fSAT ||| fQSAT) != 0)
    { acc with ovf := acc.ovf || sat, sat := acc.sat || sat,
               page := (acc.page.putNum (64 + 2 * p) 2 sc).putBytes at' (es.map (fun e => BitVec.ofNat 8 e.1)) }

/-- One token appended to a page (R246): whether its lane reports OK_OVF, and the package. Its bytes come before its
FILL (R257). -/
def State.kvAppend (s : State) (d : KvSpace) (frame fill : Nat) (ovf0 : Bool) (oc : Nat) (keys vals : List Num) :
    Bool × State :=
  let size := kvPageSize d.dh
  let page : FMap Byte := (FMap.putBytes [] 0 (s.hbmBytes frame size))
  let scale (ch : Nat) : Num := decodeF (fmtOf 9) (page.num (192 + 2 * ch) 2)
  let r := (List.range d.dh).foldl (fun acc ch => encodeKey d.dh fill ch ((keys[ch]?).getD default) (scale ch) acc)
    { oc, ovf := ovf0, sat := false, page : Append }
  let r := encodeValues d.dh fill vals r
  let head := 2 ^ 24 + d.dh / 32 * 2 ^ 16 + (fill + 1) * 2 ^ 8 + (if r.ovf then 1 else 0)
  let page := (r.page.putNum 4 4 r.oc).putNum 0 4 head
  ((r.ovf && !ovf0) || r.sat, s.writeHbm frame (page.getBytes 0 (192 + 99 * d.dh)))

/-! Issue. -/

/-- KVS of a stream instance (R238). -/
def Env.kvs (e : Env) : Nat := if e.st = .access then e.wp.akvs.toNat else e.wp.kvs.toNat

/-- KV_SPACE (R242). -/
def Env.kvSpaceTrap (e : Env) : Option Trap :=
  if ((e.s.ctx e.blk.asid).kvSpace e.kvs).isNone then some (plain .kvSpace) else none

/-- The tag check of coordinates (R242). -/
def Env.coordTag (e : Env) : Option Trap := tagTrap 1 (tagOf 6) e.sourcesA

/-- KVSEL (R238). -/
def execKvsel (w : RWord) (s : State) : Host.Outcome State Fault Refusal :=
  runWord .kvsel (.r w) (whenActive (fun e s =>
    let v : BitVec 4 := if w.mb 4 then BitVec.ofNat 4 (w.fld 3 0) else BitVec.ofNat 4 (e.srcA false 0)
    .ok ((e.quick s).onWarp e.c e.w (fun x => if e.st = .access then { x with akvs := v } else { x with kvs := v })))) s

/-- The coordinate that a lane of a KV instruction names; in the access stream its A register. -/
def Env.coordinate (e : Env) (l : Nat) : Word64 :=
  if e.st = .access then BitVec.ofNat 64 (e.wp.areg e.rw.a.toNat) else BitVec.ofNat 64 (e.srcA true l)

/-- A per-lane KV instruction that acts at its completion. KV_SPACE stands directly after FORMAT_MISMATCH (R242). DEDUCED (log 99): the
backing page's virtual address, which KMAP reads from a V pair, is checked against I64, as the coordinates are. -/
def kvWord' (fn : Fn) (w : RWord) (check : Env → Option Trap) (f : Env → Op → Op) (s : State) :
    Host.Outcome State Fault Refusal :=
  runVariable fn (.r w) (fun e => firstTrap [e.coordTag, if fn = .kmap then tagTrap 2 (tagOf 6) e.sourcesB else none, e.kvSpaceTrap,
      e.badCheck, check e])
    (fun e o => f e { o with args := [BitVec.ofNat 64 e.kvs], dests := e.destRegs,
                             addr := e.active.map (fun l => (l, e.coordinate l)) }) s

/-- KPROBE (R245). -/
def execKprobe (w : RWord) (s : State) : Host.Outcome State Fault Refusal :=
  kvWord' .kprobe w (fun _ => none) (fun _ o => o) s

/-- KUNMAP (R244). -/
def execKunmap (w : RWord) (s : State) : Host.Outcome State Fault Refusal :=
  kvWord' .kunmap w (fun _ => none) (fun _ o => o) s

/-- The space of the word that issues. -/
def Env.space (e : Env) : KvSpace := e.s.spaceOf e.blk.asid e.kvs

/-- KMAP (R243): the checks of INIT's scale rows, which cover every active lane. -/
def execKmap (w : RWord) (s : State) : Host.Outcome State Fault Refusal :=
  kvWord' .kmap w (fun e =>
    if w.mb 21 then
      let a := (e.wp.s.get (w.fld 7 0) 0).toNat
      if a % 16 ≠ 0 then some (addrTrap .alignFault a)
      else if e.kernel.scratch < a + 2 * e.space.dh * e.active.length then some (addrTrap .scratchRange a)
      else none
    else none)
    (fun e o =>
      { o with args := o.args ++ [(e.wp.s.get (w.fld 7 0) 0).setWidth 64],
               data := (e.active.map (fun l =>
                 let b := e.srcB true l
                 [(2 * l, BitVec.ofNat 32 b), (2 * l + 1, BitVec.ofNat 32 (b / 2 ^ 32))])).flatten }) s

/-- KST (R246, R247): the checks at issue, and the hold of its split until every lane's walk has ended. -/
def execKst (w : RWord) (s : State) : Host.Outcome State Fault Refusal :=
  runWord .kst (.r w) (whenRetried (fun e s =>
    let rep := e.retry
    let act := match rep with
      | some r => e.act &&& ~~~r.done
      | none => e.act
    let lanes := e.lanes.filter (fun l => act.getLsbD l)
    let row (l : Nat) : Nat := e.srcB false l
    let bytes := 2 * e.space.dh * (if w.mb 21 then 2 else 4)
    let off := lanes.filter (fun l => row l % 16 != 0)
    let out := lanes.filter (fun l => decide (e.kernel.scratch < row l + bytes))
    let laneTrap (c : Cause) (xs : List Nat) : Option Trap := match xs with
      | [] => none
      | l :: _ => some { cause := c, addr := BitVec.ofNat 64 (row l), fmask := lanesOf xs }
    match firstTrap [e.coordTag, tagTrap 2 (tagOf 0) e.sourcesB, e.kvSpaceTrap, badTrap act 3 e.sourcesA,
        badTrap act 3 e.sourcesB, laneTrap .alignFault off, laneTrap .scratchRange out] with
    | some t => .error t
    | none =>
      if act = 0 then .ok ((e.retire s 1 []).onCore e.c e.retried)
      else
        .ok (e.launchHeld s (fun o =>
          { o with lanes := act, args := [BitVec.ofNat 64 e.kvs], dests := e.destRegs, again := rep.isSome,
                   done := match rep with
                     | some r => r.done
                     | none => 0,
                   addr := lanes.map (fun l => (l, match rep with
                     | some r => r.addr.get l (e.coordinate l)
                     | none => e.coordinate l)),
                   data := lanes.map (fun l => (l, BitVec.ofNat 32 (row l))) })))) s

/-- The three operands of a tile load (R248): coordinate, scratchpad address, layout word. -/
def Env.tileArgs (e : Env) : Word64 × Nat × Nat :=
  let i := e.rw.a.toNat
  if e.st = .access then
    (BitVec.ofNat 64 (e.wp.areg i), e.wp.areg (i + 1) % 2 ^ 32, e.wp.areg (i + 1) / 2 ^ 32)
  else (BitVec.ofNat 64 (e.wp.sreg true i), e.wp.sreg false (i + 2), e.wp.sreg false (i + 3))

/-- KLD.K and KLD.V (R248, R252): the checks at issue; a load that a return continues starts at its DONE. -/
def tileLoad (fn : Fn) (w : RWord) (s : State) : Host.Outcome State Fault Refusal :=
  runWord fn (.r w) (whenRetried (fun e s =>
    let (coord, sp, lay) := e.tileArgs
    let npos := bits lay 7 0 + 1
    let rs := 16 * bits lay 23 8
    let row := 2 * e.space.dh
    match e.kvSpaceTrap with
    | some t => .error t
    | none =>
      if bits lay 31 24 ≠ 0 ∨ rs < row ∨ (w.mb 21 ∧ w.fld 20 17 = 0) then .error (plain .kvForm)
      else if sp % 16 ≠ 0 then .error (addrTrap .alignFault sp)
      else if e.kernel.scratch < sp + (npos - 1) * rs + row then .error (addrTrap .scratchRange sp)
      else
        .ok (e.launchHeld s (fun o =>
          { o with args := [coord, BitVec.ofNat 64 sp, BitVec.ofNat 64 lay, BitVec.ofNat 64 e.kvs],
                   pos := match e.retry with
                     | some r => r.done.toNat
                     | none => 0 })))) s

def execKldK (w : RWord) (s : State) : Host.Outcome State Fault Refusal := tileLoad .kldK w s
def execKldV (w : RWord) (s : State) : Host.Outcome State Fault Refusal := tileLoad .kldV w s

/-! The walk and the completion of tile loads. -/

/-- NPOS, the row stride and the space of a tile load. -/
def tilePositions (o : Op) : Nat := bits (o.arg 2).toNat 7 0 + 1
def tileStride (o : Op) : Nat := 16 * bits (o.arg 2).toNat 23 8
def State.tileSpace (s : State) (c : Nat) (o : Op) : KvSpace := s.spaceOf (s.core c).asid (o.arg 3).toNat

/-- The coordinate of tile position `i`; none beyond the last position (R249). -/
def tileCoord (o : Op) (i : Nat) : Option Nat :=
  let x := (o.arg 0).toNat
  if coordPos x + i < 2 ^ 24 then some (x + i) else none

/-- The status of a tile position's page as the walk finds it. -/
def State.tileStatus (s : State) (c : Nat) (o : Op) (i : Nat) : Nat × Nat × Nat :=
  match tileCoord o i with
  | some x => s.kvWalk (s.tileSpace c o) x
  | none => (5, 0, 0)

/-- The positions that a tile load still has to process. -/
def tileTodo (o : Op) : List Nat := (List.range (tilePositions o)).filter (fun i => decide (o.pos ≤ i))

/-- The first position whose page is not RESIDENT, with the status found. -/
def State.tileBlock (s : State) (c : Nat) (o : Op) : Option (Nat × Nat) :=
  ((tileTodo o).find? (fun i => (s.tileStatus c o i).1 != 0)).map (fun i => (i, (s.tileStatus c o i).1))

/-- The cores whose scratchpads a tile load writes (R250). -/
def tileReceivers (s : State) (c : Nat) (o : Op) : List Nat := copyTargets s c o

/-- The rows of tile positions written in every receiver; `bad` are the positions whose data is lost (R254). -/
def State.writeRows (s : State) (c : Nat) (o : Op) (frames : Nat → Nat × Nat) (is : List Nat) : State :=
  let d := s.tileSpace c o
  let sp := (o.arg 1).toNat
  is.foldl (fun s i =>
    let (frame, fill) := frames i
    let bs := if (o.addr.find i).isSome then (List.replicate d.dh (toLe 0x7FC0 2)).flatten
      else s.kvRow d (o.fn == .kldK) frame fill ((coordPos (o.arg 0).toNat + i) % 64)
    (tileReceivers s c o).foldl (fun s r =>
      s.onCore r (fun k => { k with scratch := k.scratch.putBytes (sp + i * tileStride o) bs })) s) s

/-- KV_FAULT of a tile load (R251): the positions before the failing page are written first. -/
def tileFault (s : State) (c : Nat) (o : Op) (i st : Nat) : State :=
  if takesTrap s c o then
    let s := s.writeRows c o (fun j => (s.tileStatus c o j).2) ((tileTodo o).filter (fun j => decide (j < i)))
    let x := (o.arg 0).toNat
    let coord := x - coordPos x + (coordPos x + i) % 2 ^ 24
    trapOp s c o { cause := .kvFault, aux := BitVec.ofNat 32 st, addr := BitVec.ofNat 64 coord,
                   kvprog := BitVec.ofNat 128 (coord * 2 ^ 64 + 2 ^ 63 + st * 2 ^ 32 + i) }
  else dropOp s c o

/-- A request of a KV walk to the MMP (R253), each page once. -/
def State.askKv (s : State) (asid space coord : Nat) : State :=
  let r : KvReq := { asid, space, coord := BitVec.ofNat 64 (coord - coordPos coord % 64) }
  if s.kvq.contains r then s else { s with kvq := s.kvq ++ [r] }

/-- KLD_WALK_END (R251): the walk waits for an evicted or moving page (R253), ends with KV_FAULT at the first page that is not
RESIDENT, or releases the stream with the frames and FILLs that it has read. -/
def execKldWalkEnd (core op : Nat) (s : State) : Host.Outcome State Fault Refusal :=
  match (s.core core).findOp op with
  | some o =>
    if (o.fn = .kldK ∨ o.fn = .kldV) ∧ o.stage = .check then
      let asid := (s.core core).asid
      match s.tileBlock core o with
      | some (i, st) =>
        let x := (tileCoord o i).getD 0
        if (st = 2 ∨ st = 3) ∧ o.outs.get (coordPage x) 0 = 0 then
          let t := s.setOp core { o with kvw := [(coordPage x, o.kvw.get (coordPage x) s.ref)] }
          done (if st = 2 then t.askKv asid (o.arg 3).toNat x else t)
        else done (tileFault s core o i st)
      | none =>
        let fr := (tileTodo o).map (fun i => (i, (s.tileStatus core o i).2))
        let s := fr.foldl (fun s e => s.kvCache core asid (o.arg 3).toNat
          (coordPage ((tileCoord o e.1).getD 0)) e.2.1) s
        done ((releaseSite s core o).setOp core
          { o with stage := .go, outs := fr.map (fun e => (e.1, BitVec.ofNat 64 e.2.1)),
                   data := fr.map (fun e => (e.1, BitVec.ofNat 32 e.2.2)) })
    else .next s
  | none => .next s

/-- KLD_COMPLETION (R250): the rows are written and every receiver gets one arrival; a data error waits to be reported
(R254). -/
def execKldCompletion (core op : Nat) (s : State) : Host.Outcome State Fault Refusal :=
  match (s.core core).findOp op with
  | some o =>
    if (o.fn = .kldK ∨ o.fn = .kldV) ∧ o.stage = .go then
      let s := s.writeRows core o (fun i => ((o.outs.get i 0).toNat, (o.data.get i 0).toNat)) (tileTodo o)
      let s := match arrivals core o with
        | some (b, _) => (tileReceivers s core o).foldl (fun s r => s.onCore r (fun k => k.count b)) s
        | none => s
      let s := completeOp s core o []
      match o.addr with
      | [] => done s
      | (i, _) :: _ =>
        let p : Pending := { cause := .kvData, party := o.party, flag := o.flag, eng := some 1, pc := o.pc,
                             addr := BitVec.ofNat 64 ((tileCoord o i).getD 0), status := 0, op := o.id }
        done (s.onWarp core (partyWarp o.party) (fun x => { x with pendings := x.pendings ++ [p] }))
    else .next s
  | none => .next s

/-! KST. -/

/-- The row of a KST lane: keys and values (R246). -/
def State.kstRow (s : State) (c : Nat) (o : Op) (dh l : Nat) : List Num × List Num :=
  let bf := match o.body with
    | .r w => w.mb 21
    | _ => false
  let a := (o.data.get l 0).toNat
  let x (i : Nat) : Num :=
    if bf then decodeF (fmtOf 10) ((s.core c).scratch.num (a + 2 * i) 2)
    else decodeF (fmtOf 8) ((s.core c).scratch.num (a + 4 * i) 4)
  ((List.range dh).map x, (List.range dh).map (fun i => x (dh + i)))

/-- The space of a per-lane KV operation. -/
def State.opSpace (s : State) (c : Nat) (o : Op) : KvSpace := s.spaceOf (s.core c).asid (o.arg 0).toNat

/-- One lane of a KST performed: its code, or none where it faults on residency. -/
def State.kstLane (s : State) (c : Nat) (o : Op) (l : Nat) : Option Nat × State :=
  let d := s.opSpace c o
  let x := (o.addr.get l 0).toNat
  let (st, frame, _) := s.kvStatus d x
  match st with
  | 5 => (some 5, s)
  | 4 => (some 4, s)
  | 0 =>
    match s.kvHeader d frame with
    | none => (some 4, s)
    | some (fill, ovf, oc) =>
      if o.bad.getLsbD l then (some 4, s)
      else if coordPos x % 64 ≠ fill then (some 2, s)
      else
        let (ks, vs) := s.kstRow c o d.dh l
        let r := s.kvAppend d frame fill ovf oc ks vs
        (some (if r.1 then 1 else 0), r.2)
  | _ => (none, s)

/-- The lanes that wait for an evicted or a moving page (R253); lanes that the MMP refused stand in `outs`. -/
def State.kstWaits (s : State) (c : Nat) (o : Op) : List (Nat × Nat) :=
  (opLanes o).filterMap (fun l =>
    let st := (s.kvStatus (s.opSpace c o) (o.addr.get l 0).toNat).1
    if (st = 2 ∨ st = 3) ∧ o.outs.get l 0 = 0 then some (l, st) else none)

/-- The results of KST, KMAP and KUNMAP lanes. -/
def codeWrs (o : Op) (rs : List (Nat × Nat)) : List Wr :=
  [.v (partyWarp o.party) o.body.dIdx (rs.map (fun e => (e.1, BitVec.ofNat 32 e.2))) (tagOf 0)]

/-- The end of a KST's walks (R246, R247): every lane performed in order; with a lane that faults the others are performed,
their codes written, and KV_FAULT is raised. -/
def kstCheckEnd (s : State) (c : Nat) (o : Op) : State :=
  let asid := (s.core c).asid
  match s.kstWaits c o with
  | _ :: _ =>
    let waits := s.kstWaits c o
    (waits.filter (fun e => e.2 == 2)).foldl (fun s e => s.askKv asid (o.arg 0).toNat (o.addr.get e.1 0).toNat)
      (s.setOp c { o with kvw := waits.map (fun e => (e.1, o.kvw.get e.1 s.ref)) })
  | [] =>
    let d := s.opSpace c o
    let faults := (opLanes o).filter (fun l =>
      let st := (s.kvStatus d (o.addr.get l 0).toNat).1
      st == 1 || st == 2 || st == 3)
    let run (s : State) : List (Nat × Nat) × State := (opLanes o).foldl (fun acc l =>
      match acc.2.kstLane c o l with
      | (some code, s') => (acc.1 ++ [(l, code)], s')
      | (none, s') => (acc.1, s')) ([], s)
    match faults with
    | [] =>
      let r := run s
      (releaseSite r.2 c o).setOp c { o with stage := .go, outs := r.1.map (fun e => (e.1, BitVec.ofNat 64 e.2)) }
    | l :: _ =>
      if takesTrap s c o then
        let r := run s
        let s' := r.2.onCore c (fun k => (codeWrs o r.1).foldl Core.land k)
        let done := o.done ||| lanesOf (r.1.map (·.1))
        let x := o.addr.get l 0
        let st := (s.kvStatus d x.toNat).1
        let t : Trap := { cause := .kvFault, aux := BitVec.ofNat 32 st, addr := x, fmask := lanesOf faults, done := done,
                          kvprog := BitVec.ofNat 128 (x.toNat * 2 ^ 64 + st * 2 ^ 32) }
        trapOp s' c { o with again := true, done := done } t
      else dropOp s c o

/-! KPROBE, KMAP, KUNMAP performed. -/

/-- The status word of KPROBE (R245). -/
def State.probe (s : State) (d : KvSpace) (x : Nat) : Nat :=
  let (st, frame, _) := s.kvStatus d x
  if st = 0 then
    let h := s.hbm.num frame 4
    st + (if bit h 0 then 8 else 0) + bits h 15 8 * 2 ^ 8
  else st

/-- The frames of a level of `count` entries: one for each 64 KiB, or part of it (R243). -/
def levelFrames (count : Nat) : Nat := (8 * count + 0xFFFF) / 0x10000

/-- A directory level made by the MMP (R243): its place, or none when the quota or the memory is exhausted. `fill` is the word
of its entries. -/
def State.makeLevel (s : State) (asid entry count fill : Nat) : Option (Nat × State) :=
  match s.allocFor asid (levelFrames count) .directory with
  | some (pa, s) =>
    let s := if fill = 0 then s
      else { s with hbm := (List.range count).foldl (fun m i => m.putNum (pa + 8 * i) 8 fill) s.hbm }
    some (pa, s.writeEntry entry (pa + 1))
  | none => none

/-- The place of a coordinate's position-table entry, missing levels being made; none for NO_MEM. -/
def State.needEntry (s : State) (asid : Nat) (d : KvSpace) (x : Nat) : Option (Nat × State) :=
  let e0 := s.hbm.num (d.seqEntry x) 8
  let lh : Option (Nat × State) :=
    if bit e0 0 then some (bits e0 63 12 * 2 ^ 12, s)
    else s.makeLevel asid (d.seqEntry x) ((d.nlayer + 1) * (d.nhead + 1)) 0
  match lh with
  | none => none
  | some (base, s) =>
    let p := base + 8 * d.lhIndex x
    let e1 := s.hbm.num p 8
    if bit e1 0 then some (bits e1 63 12 * 2 ^ 12 + 8 * (coordPos x / 64), s)
    else
      match s.makeLevel asid p (d.npage + 1) 1 with
      | some (t, s) => some (t + 8 * (coordPos x / 64), s)
      | none => none

/-- Whether some mapped KV page is backed by the page of `va`. -/
def State.kvBacks (s : State) (asid va : Nat) : Bool :=
  match s.leafOf asid va with
  | some (_, size, _) =>
    s.kvBack.any (fun e => e.2.asid == asid && e.2.handle.isNone && decide (e.2.va / size = va / size))
  | none => false

/-- PN of the leaf of `va` written as the MMP's pins stand: it pins what a RESIDENT KV entry maps, and what the host asked
for (R243, R397). -/
def State.setPin (s : State) (asid va : Nat) : State :=
  match s.leafOf asid va with
  | some (e, size, x) =>
    let pin := s.kvBacks asid va || (s.ctx asid).hostPins.get (va - va % size) false
    s.writeEntry e (setBits x 13 13 (if pin then 1 else 0))
  | none => s

/-- The backing page's place if it suits KMAP (R243): its physical address. -/
def State.backing (s : State) (asid va size : Nat) (ho : Bool) : Option Nat :=
  match s.walk asid va with
  | .ok leaf base _ =>
    if leafTy leaf = 0 ∧ permits leaf .write ho ∧ va % size = 0 then some (leafFrame leaf + (va - base)) else none
  | _ => none

/-- The virtual address that a lane of a KMAP gives. -/
def kmapVa (o : Op) (l : Nat) : Nat := (o.data.get (2 * l) 0).toNat + 2 ^ 32 * (o.data.get (2 * l + 1) 0).toNat

/-- One lane of a KMAP performed (R243): its code. -/
def State.kmapLane (s : State) (c : Nat) (o : Op) (l : Nat) : Nat × State :=
  let asid := (s.core c).asid
  let d := s.opSpace c o
  let x := (o.addr.get l 0).toNat
  let size := kvPageSize d.dh
  if d.oob x then (5, s)
  else
    match s.needEntry asid d x with
    | none => (7, s)
    | some (e, s) =>
      let st := (s.kvStatus d x).1
      if st = 5 then (5, s)
      else if st ≠ 1 then (3, s)
      else
        match s.backing asid (kmapVa o l) size o.handler with
        | none => (6, s)
        | some pa =>
          let init := match o.body with
            | .r w => w.mb 21
            | _ => false
          let s := if init then
              let k := ((List.range l).filter (fun i => o.lanes.getLsbD i)).length
              let head := toLe (2 ^ 24 + d.dh / 32 * 2 ^ 16) 4 ++ List.replicate 60 (0 : Byte)
              let scales := (s.core c).scratch.getBytes ((o.arg 1).toNat + 2 * d.dh * k) (2 * d.dh)
              (s.writeHbm pa head).writeHbm (pa + 192) scales
            else s
          let s := s.writeEntry e (kvWord pa 0)
          let s := { s with kvBack := s.kvBack.set e { asid, va := kmapVa o l } }
          (0, s.setPin asid (kmapVa o l))

/-- The lanes of a KMAP whose backing page the KV path asks the MMP for, or waits for (R394, R395). -/
def State.kmapWaits (s : State) (c : Nat) (o : Op) : List (Nat × Bool) :=
  let asid := (s.core c).asid
  let d := s.opSpace c o
  (opLanes o).filterMap (fun l =>
    if (s.kvStatus d (o.addr.get l 0).toNat).1 ≠ 1 ∨ o.outs.get l 0 ≠ 0 then none
    else
      match s.walk asid (kmapVa o l) with
      | .notres _ => some (l, true)
      | .migrating _ => if o.status = 0 then some (l, false) else none
      | _ => none)

/-- One lane of a KUNMAP performed (R244). -/
def State.kunmapLane (s : State) (c : Nat) (o : Op) (l : Nat) : Nat × State :=
  let asid := (s.core c).asid
  let x := (o.addr.get l 0).toNat
  match s.kvStatus (s.opSpace c o) x with
  | (0, _, some e) | (2, _, some e) | (4, _, some e) =>
    let s := (s.kvDrop asid (o.arg 0).toNat (coordPage x)).writeEntry e (kvWord 0 1)
    let b := s.kvBack.get e default
    let s := { s with kvBack := s.kvBack.del e, kvBad := s.kvBad.filter (fun r =>
      !(r.asid == asid && r.space == (o.arg 0).toNat && coordPage r.coord.toNat == coordPage x)) }
    let s := match b.handle with
      | some h => { s with kvCopies := s.kvCopies.del h }
      | none => s
    (0, s.setPin b.asid b.va)
  | (5, _, _) => (5, s)
  | _ => (3, s)

/-- Every lane of KMAP or KUNMAP performed in ascending order, and the operation complete. -/
def kvLanes (s : State) (c : Nat) (o : Op) (f : State → Nat → Nat × State) : State :=
  let r := (opLanes o).foldl (fun acc l =>
    let x := f acc.2 l
    (acc.1 ++ [(l, x.1)], x.2)) (([] : List (Nat × Nat)), s)
  completeOp r.2 c o (codeWrs o r.1)

/-- The completion of a per-lane KV operation. -/
def kvComplete (s : State) (c : Nat) (o : Op) : State :=
  let asid := (s.core c).asid
  let d := s.opSpace c o
  match o.fn with
  | .kst => completeOp s c o (codeWrs o ((opLanes o).map (fun l => (l, (o.outs.get l 0).toNat))))
  | .kprobe =>
    let x (l : Nat) : Nat := s.probe d (o.addr.get l 0).toNat
    (match o.party with
     | .access w => completeOp s c o [.a w o.body.dIdx (BitVec.ofNat 64 (x 0))]
     | _ => completeOp s c o (codeWrs o ((opLanes o).map (fun l => (l, x l)))))
  | .kmap =>
    (match s.kmapWaits c o with
     | [] => kvLanes s c o (fun s l => s.kmapLane c o l)
     | ws => (ws.filter (·.2)).foldl (fun s e =>
         if s.waiting c o.id e.1 then s else s.post asid (kmapVa o e.1) (some .write) o.handler [⟨c, o.id, e.1⟩])
           (if ws.any (fun e => !e.2) then s.noteWait c o 0 else s))
  | .kunmap =>
    let busy := (opLanes o).any (fun l =>
      let (st, frame, _) := s.kvStatus d (o.addr.get l 0).toNat
      st == 3 || ((st == 0 || st == 4) && s.kvReading frame))
    if busy then s else kvLanes s c o (fun s l => s.kunmapLane c o l)
  | _ => s

/-! What the MMP and the hardware do to KV pages (R240, R243, R253, R254). -/

/-- KV_WALK_WAIT_TIMEOUT (R253): a wait of a walk for a page passes its bound, and the walk goes by the status then seen. -/
def execKvWalkWaitTimeout (core op : Nat) (s : State) : Host.Outcome State Fault Refusal :=
  match (s.core core).findOp op with
  | some o =>
    let late := o.kvw.filter (fun e => decide (e.2 + ticksOf 200 ≤ s.ref))
    if (o.fn = .kldK ∨ o.fn = .kldV ∨ o.fn = .kst) ∧ o.stage = .check ∧ late ≠ [] then
      done (s.setOp core { o with kvw := o.kvw.filter (fun e => !late.contains e), outs := late.foldl (fun m e => m.set e.1 1) o.outs })
    else .next s
  | none => .next s

/-- A RESIDENT entry of a coordinate set to another status, every walker's copy invalidated (R240, R241). -/
def State.kvAway (s : State) (asid space coord st : Nat) : State :=
  match s.kvStatus (s.spaceOf asid space) coord with
  | (0, frame, some e) => (s.kvDrop asid space (coordPage coord)).writeEntry e (kvWord frame st)
  | _ => s

/-- Whether the change of a coordinate's entry away from RESIDENT must wait: a read of the frame that a walker has begun is still to be
performed (R241). -/
def State.kvInUse (s : State) (asid space coord : Nat) : Bool :=
  match s.kvStatus (s.spaceOf asid space) coord with
  | (0, frame, _) => s.kvReading frame
  | _ => false

/-- Whether the MMP has still to set a page POISON. -/
def State.kvSpoilt (s : State) (asid space page : Nat) : Bool :=
  s.kvBad.any (fun r => r.asid == asid && r.space == space && coordPage r.coord.toNat == page)

/-- A page is found to hold an uncorrectable error: the MMP is to set it POISON (R240). -/
def State.kvSpoil (s : State) (asid space coord : Nat) : State :=
  if s.kvSpoilt asid space (coordPage coord) then s
  else { s with kvBad := s.kvBad ++ [{ asid, space, coord := BitVec.ofNat 64 coord }] }

/-- KV_DATA_ERROR (R254): a position of a tile load past its walk, or a lane of a KST. The entry becomes POISON once the reads of the
frame are performed (R241). -/
def execKvDataError (core op position : Nat) (s : State) : Host.Outcome State Fault Refusal :=
  match (s.core core).findOp op with
  | some o =>
    let asid := (s.core core).asid
    if (o.fn = .kldK ∨ o.fn = .kldV) ∧ o.stage = .go ∧ (o.outs.find position).isSome then
      done (((s.noteError 3 core (some o.pc.toNat)).kvSpoil asid (o.arg 3).toNat ((tileCoord o position).getD 0)).setOp core { o with addr := o.addr.set position 1 })
    else if o.fn = .kst ∧ o.stage = .check ∧ o.lanes.getLsbD position then
      done (((s.noteError 3 core (some o.pc.toNat)).kvSpoil asid (o.arg 0).toNat (o.addr.get position 0).toNat).setOp core { o with bad := putBit o.bad position true })
    else .next s
  | none => .next s

/-- KV_PAGE_POISON (R240, R241): RESIDENT becomes POISON, after every read of the frame that a walker has begun. -/
def execKvPagePoison (asid space : Nat) (coord : BitVec 64) (s : State) : Host.Outcome State Fault Refusal :=
  if ((s.ctx asid).kvSpace space).isNone || s.kvInUse asid space coord.toNat then .next s
  else
    let page := coordPage coord.toNat
    let t := s.kvAway asid space coord.toNat 4
    done { t with kvBad := t.kvBad.filter (fun r => !(r.asid == asid && r.space == space && coordPage r.coord.toNat == page)) }

/-- KV_PAGE_EVICTION (R240, R241, R243): first the entry goes IN_FLIGHT, once no read of the frame goes on; then the backing page is set
NOTRES by the steps of R398, and once every receiver has acknowledged, the page's bytes are kept elsewhere and the entry is EVICTED with a
handle. A backing page that other mapped KV pages pin stays. -/
def execKvPageEviction (asid space : Nat) (coord : BitVec 64) (finish : Bool) (s : State) :
    Host.Outcome State Fault Refusal :=
  if ((s.ctx asid).kvSpace space).isNone then .next s
  else
    match s.kvStatus (s.spaceOf asid space) coord.toNat with
    | (0, _, some e) =>
      let b := s.kvBack.get e default
      match s.leafOf asid b.va with
      | some (_, size, _) =>
        let alone := s.kvBack.all (fun x => x.1 == e || x.2.asid != asid || decide (x.2.va / size ≠ b.va / size))
        if finish ∨ ¬ alone ∨ (s.ctx asid).hostPins.get (b.va - b.va % size) false ∨ s.kvInUse asid space coord.toNat ∨
            s.kvSpoilt asid space (coordPage coord.toNat) then .next s
        else done (s.kvAway asid space coord.toNat 3)
      | none => .next s
    | (3, _, some e) =>
      let b := s.kvBack.get e default
      match b.handle, s.leafOf asid b.va with
      | none, some (le, size, x) =>
        if !finish || leafSt x != 0 || s.shooting asid b.va then .next s
        else
          done ((s.writeEntry le (setBits (setBits x 13 13 0) 10 9 1)).shoot asid (b.va - b.va % size) size
            (.evictKv e (leafFrame x / 2 ^ 16) size))
      | _, _ => .next s
    | _ => .next s

/-- The MMP refuses an evicted page to the walks that wait for it (R253). -/
def State.kvRefuse (s : State) (asid space coord : Nat) : State :=
  let page := coordPage coord
  { s with
    kvq := s.kvq.filter (fun r => !(r.asid == asid && r.space == space && coordPage r.coord.toNat == page)),
    cores := s.cores.map (fun e => (e.1,
      if e.2.asid ≠ asid then e.2
      else { e.2 with ops := e.2.ops.map (fun o =>
        if o.stage ≠ .check then o
        else if (o.fn = .kldK ∨ o.fn = .kldV) ∧ (o.arg 3).toNat = space ∧
            (tileTodo o).any (fun i => (tileCoord o i).any (fun x => coordPage x == page)) then { o with outs := o.outs.set page 1 }
        else if o.fn = .kst ∧ (o.arg 0).toNat = space then
          { o with outs := (o.addr.filter (fun a => coordPage a.2.toNat == page)).foldl (fun m a => m.set a.1 1) o.outs }
        else o) })) }

/-- Whether a restore may use a run of `n` frames from `frame` on for a page of a context. -/
def State.restoreOk (s : State) (asid frame n : Nat) : Bool :=
  frame % n == 0 && s.runOk asid frame n && decide (s.framesUsed asid + n ≤ (s.ctx asid).quota)

/-- The end of a restore: leaf `x` at `le` names the frames, then the entry is RESIDENT and pins them. -/
def State.kvRestored (s : State) (asid space coord e le pa x : Nat) (b : KvBack) (size : Nat) : State :=
  let s := (s.writeEntry le x).writeEntry e (kvWord (pa + b.va % size) 0)
  let s := { s with kvBack := s.kvBack.set e { b with handle := none, into := none }, kvCopies := s.kvCopies.del (b.handle.getD 0),
                    kvq := s.kvq.filter (fun r => !(r.asid == asid && r.space == space &&
                      coordPage r.coord.toNat == coordPage coord)) }
  s.setPin asid b.va

/-- KV_PAGE_RESTORE (R243, R253): EVICTED goes IN_FLIGHT, once the MMP has the frames, where the backing page is not there already; at
the end the bytes stand in them, the leaf and then the entry name them, and the page is pinned again. Where the frames cannot be used within
the quota the MMP refuses, and the entry stays EVICTED (R240). -/
def execKvPageRestore (asid space : Nat) (coord : BitVec 64) (frame : Nat) (finish : Bool) (s : State) :
    Host.Outcome State Fault Refusal :=
  if ((s.ctx asid).kvSpace space).isNone then .next s
  else
    match s.kvStatus (s.spaceOf asid space) coord.toNat with
    | (2, h, some e) =>
      let b := s.kvBack.get e default
      match finish, s.leafOf asid b.va with
      | false, some (_, size, x) =>
        let n := size / 2 ^ 16
        if leafSt x = 0 then done (s.writeEntry e (kvWord h 3))
        else if s.restoreOk asid frame n then
          let s := s.takeRun frame n .page (asid + 1)
          done ({ s with kvBack := s.kvBack.set e { b with into := some frame } }.writeEntry e (kvWord h 3))
        else done (s.kvRefuse asid space coord.toNat)
      | _, _ => .next s
    | (3, _, some e) =>
      let b := s.kvBack.get e default
      match b.handle, finish, s.leafOf asid b.va with
      | some hd, true, some (le, size, x) =>
        if s.shooting asid b.va then .next s
        else
          let n := size / 2 ^ 16
          let fill (s : State) (f : Nat) : State :=
            let s := { s with hbm := s.hbm.putBytes (f * 2 ^ 16) (s.kvCopies.get hd default).bytes }
            s.kvRestored asid space coord.toNat e le (f * 2 ^ 16) (setBits (setBits x 10 9 0) 51 16 f) b size
          match b.into with
          | some f =>
            if leafSt x = 0 then done ((s.giveRun f).kvRestored asid space coord.toNat e le (leafFrame x) x b size) else done (fill s f)
          | none =>
            if leafSt x = 0 then done (s.kvRestored asid space coord.toNat e le (leafFrame x) x b size)
            else if s.restoreOk asid frame n then done (fill (s.takeRun frame n .page (asid + 1)) frame)
            else .next s
      | _, _, _ => .next s
    | _ => .next s

end Sys2Proof.Machine
end

