-- ==== Sys2Proof/Machine/Sync.lean ====
section
/-! DEFINITION. Fences, acquire loads and release stores, scoped atomics and signals (R282 to R293, R298); barriers are in
Barriers. -/

namespace Sys2Proof.Machine

/-! FENCE (R291). -/

/-- Whether the accesses that a FENCE waits for have completed at its scope: every earlier load and atomic read of its stream for ACQ,
every earlier access for REL and AR; at WARP or BLOCK scope a store is complete once it is performed at the core. -/
def Env.fenceReady (e : Env) (kind scope : Nat) : Bool :=
  e.k.ops.all (fun o => o.stage == .done || o.party != e.party || (decide (scope < 2) && e.s.storePath e.c o) ||
    (match accessOf o with
     | some a => kind == 1 && !a.rd
     | none => true))

/-- The marks of a stream instance taken into a map of marks. -/
def takeMarks (m marks : FMap Nat) (p : Party) : FMap Nat :=
  (marks.filter (fun e => e.1 / 128 = partyRank p)).foldl (fun m e => m.put e.1 (max e.2 (m.get e.1 0)) 0) m

/-- The release effect of a fence (R286, R291): the stores that follow it in its stream come after what its barrier waits acquired, and
count as releases at its scope, that of PACKAGE for POD (R283). At WARP or BLOCK scope the stores before it are taken as performed at
the core. -/
def Env.fenceRelease (e : Env) (scope : Nat) (s : State) : State :=
  let id := s.opId
  let s := if scope < 2 then s.nearBefore e.c id e.party else s
  s.onCore e.c (fun k =>
    let k := { k with fenced := k.fenced.set (partyRank e.party) (min scope 4, id) }
    if scope < 2 then { k with nmarks := takeMarks k.nmarks k.marks e.party }
    else { k with fmarks := takeMarks k.fmarks k.marks e.party })

/-- FENCE (R291). In the stack profile its release effect makes the stack core's later DMA writes releases (R20, R286). -/
def execFence (w : RWord) (s : State) : Host.Outcome State Fault Refusal :=
  if onStack s then runStackWhen .fence (.r w) (fun e => e.sc.dmas.isEmpty) (fun e x =>
      .ok (e.s.setSc e.g e.k (if w.fld 18 17 = 1 then x else { x with fenced := some (min (w.fld 21 19) 4) }))) s
  else
    runWhen .fence (.r w) (fun e => e.act == 0 || e.fenceReady (w.fld 18 17) (w.fld 21 19)) (whenActive (fun e s =>
      match windowTrap e.wp.pendings e.party with
      | some t => .error t
      | none =>
        let s := e.quick s
        let s := if w.fld 18 17 = 1 then s else e.fenceRelease (w.fld 21 19) s
        .ok (if w.fld 18 17 ≠ 2 ∧ 2 ≤ w.fld 21 19 then s.l1Clear e.c else s))) s

/-! Acquire loads, release stores, scoped atomics (R292, R293). -/

def execLdAcq (w : RWord) (s : State) : Host.Outcome State Fault Refusal := mouldWord .ldAcq w false true s
def execStRel (w : RWord) (s : State) : Host.Outcome State Fault Refusal := mouldWord .stRel w true true s
def execAtomg (w : RWord) (s : State) : Host.Outcome State Fault Refusal := atomWord .atomg w true s

/-- An LD.ACQ performed: it reads at the point of coherence, and its acquire effect takes place before any later access of
the stream. -/
def acquireLoad (s : State) (c : Nat) (o : Op) (w : RWord) (lanes : Lanes) (err : AccessError) : State :=
  let errs := errLanes s c o lanes err
  let r := (opLanes o).foldl (fun acc l =>
    let x := loadLane acc.2 c o 1 (msize w) l
    (acc.1 ++ [(l, x.1.map (loadWords w))], x.2)) (([] : List (Nat × Option (List Word))), s)
  let s := (opLanes o).foldl (fun s l => match s.opPlace c o (o.addr.get l 0).toNat with
    | some (_, p) => s.acquiredAt c (agentOf c o.party) (w.fld 9 7) (msize w) p
    | none => s) r.2
  completeOp s c o (loadWrs w o (partyWarp o.party) errs (laneStatus s c o err) r.1)

/-- An ST.REL performed; the lanes of `fails` end with a status (R155). -/
def releaseStore (s : State) (c : Nat) (o : Op) (w : RWord) (fails : Lanes) (status : Nat → Nat) : State :=
  let s := ((opLanes o).filter (fun l => !fails.getLsbD l)).foldl (fun s l =>
    let s := storeLane s c o 0 (msize w) (fun _ => true) l
    match s.opPlace c o (o.addr.get l 0).toNat with
    | some (_, p) => s.releasedAt (agentOf c o.party) (w.fld 9 7) (msize w) p false
    | none => s) s
  match (opLanes o).find? (fun l => fails.getLsbD l) with
  | some l => pendWindow (completeOp s c o []) c o (o.addr.get l 0) (status l)
  | none => completeOp s c o []

/-! Signals (R298). -/

/-- A SIG instruction: its address in every active lane, its operand, and the checks that hold its split. -/
def sigWord (fn : Fn) (w : RWord) (s : State) : Host.Outcome State Fault Refusal :=
  runWord fn (.r w) (whenActive (fun e s =>
    let a := BitVec.ofNat 64 (e.srcA true 0)
    let b := if fn = .sigRd then 0 else e.srcB true 0
    let l := e.active.head?.getD 0
    .ok (e.launchHeld s (fun o =>
      { o with todo := putBit 0 l true, dests := e.destRegs, addr := e.active.map (fun i => (i, a)),
               data := [(4 * l, BitVec.ofNat 32 b), (4 * l + 1, BitVec.ofNat 32 (b / 2 ^ 32))],
               args := [BitVec.ofNat 64 b] })))) s

def execSigAdd (w : RWord) (s : State) : Host.Outcome State Fault Refusal := sigWord .sigAdd w s
def execSigWait (w : RWord) (s : State) : Host.Outcome State Fault Refusal := sigWord .sigWait w s
/-- SIG.SET (R358): its traps are those of SIG.ADD. -/
def execSigSet (w : RWord) (s : State) : Host.Outcome State Fault Refusal := sigWord .sigSet w s
def execSigRd (w : RWord) (s : State) : Host.Outcome State Fault Refusal := sigWord .sigRd w s

/-- The address of a signal that an operation names. -/
def sigAddr (o : Op) : Nat := (o.addr.get ((opLanes o).head?.getD 0) 0).toNat

/-- The value of a signal at its point of coherence, its place, and the package after the read. -/
def readSig (s : State) (c : Nat) (o : Op) : Word64 × Option Place × State :=
  match s.opPlace c o (sigAddr o) with
  | some (leaf, p) => let r := s.loadAt c 1 leaf p 8; (BitVec.ofNat 64 (leNat r.1), some p, r.2)
  | none => (0, none, s)

/-- The two S registers of a 64-bit result. -/
def pairWrs (warp d : Nat) (v : Word64) : List Wr := [.s warp d (v.setWidth 32), .s warp (d + 1) ((v >>> 32).setWidth 32)]

/-- The condition of a SIG.WAIT. -/
def sigCond (cond : Nat) (v b : Word64) : Bool :=
  match cond with
  | 0 => decide (v.toInt ≤ b.toInt)
  | 1 => v == b
  | 2 => decide (b.toInt ≤ v.toInt)
  | _ => v != b

/-- Whether an operation's address lies in a module window. -/
def inWindow (s : State) (c : Nat) (o : Op) : Bool := windowLanes s c o != 0

/-- The bound of a SIG.WAIT has passed: 2^TOUT microseconds; with TOUT 0 it has none for HBM, and for a window the fabric
timeout ends it (R155, R329). -/
def sigExpired (s : State) (c : Nat) (o : Op) (w : RWord) : Bool :=
  if w.fld 16 13 = 0 then inWindow s c o && decide (o.born + (s.group (s.core c).asid 0).bound ≤ s.ref)
  else decide (o.born + ticksOf (2 ^ w.fld 16 13) ≤ s.ref)

/-- The end of a SIG.WAIT with the value last read and its status. -/
def sigWaitDone (s : State) (c : Nat) (o : Op) (w : RWord) (v : Word64) (failed : Bool) : State :=
  let warp := partyWarp o.party
  let stp := if w.fld 12 9 = 15 then [] else [Wr.p warp (w.fld 12 9) o.lanes (if failed then o.lanes else 0)]
  completeOp (releaseSite s c o) c o (pairWrs warp w.d.toNat v ++ stp)

/-- A SIG.WAIT of which the read is lost ends with the value last read (R298); one that has read nothing yet leaves a value that the
spec does not state (log 6). -/
def sigWaitLost (s : State) (c : Nat) (o : Op) (w : RWord) : State :=
  match o.outs with
  | (_, v) :: _ => sigWaitDone s c o w v true
  | [] => sigWaitDone { s with fresh := s.fresh + 1 } c o w (Config.freeWord64 s.fresh) true

/-- One read of a SIG.WAIT (R298): `outs` keeps the value last read, and the acquire of that read stands. -/
def sigPoll (s : State) (c : Nat) (o : Op) (w : RWord) : State :=
  let r := readSig s c o
  match r.2.1 with
  | none => if sigExpired s c o w then sigWaitLost s c o w else s
  | some p =>
    let s := r.2.2.acquiredAt c (agentOf c o.party) (w.fld 21 19) 8 p
    if sigCond (w.fld 18 17) r.1 (o.arg 0) then sigWaitDone s c o w r.1 false
    else if sigExpired s c o w then sigWaitDone s c o w r.1 true
    else s.setOp c { o with outs := [(0, r.1)], port := none }

/-- A signal operation performed. A value that a failed window access or an uncorrectable error loses is open (log 6). -/
def sigComplete (s : State) (c : Nat) (o : Op) (w : RWord) (err : AccessError) : State :=
  let lost : Bool := match oneError s c o err with
    | .ok => false
    | .dataError => true
    | .fabric _ => inWindow s c o
  let scope := w.fld 21 19
  match o.fn with
  | .sigAdd =>
    let l := (opLanes o).head?.getD 0
    if lost then sigAddDone s c { o with bad := putBit 0 l true, todo := 0 }
    else
      (match s.opPlace c o (sigAddr o) with
       | some (_, .hbm _) => let r := atomDeliver s c o l; atomSettle r.1 c r.2
       | some (_, .window m off) =>
         let r := s.command m none ⟨1, off, (o.arg 0).toNat, 0, []⟩
         sigAddDone r.2 c { o with todo := 0, outs := o.outs.set l (BitVec.ofNat 64 r.1.old),
                                   bad := putBit 0 l (r.1.status != 0) }
       | some (leaf, p) =>
         let old := leNat (s.readPlace (s.heldBy c leaf) p 8)
         let s := s.writePlace (s.heldBy c leaf) p (toLe (old + (o.arg 0).toNat) 8)
         sigAddDone s c { o with todo := 0, outs := o.outs.set l (BitVec.ofNat 64 old) }
       | none => s)
  | .sigSet =>
    let bad : Bool := lost && inWindow s c o
    let s := match bad, s.opPlace c o (sigAddr o) with
      | false, some (leaf, p) =>
        ((s.writePlace (s.heldBy c leaf) p (toLe (o.arg 0).toNat 8)).l1Drop c (match p with
          | .hbm pa => [pa / 64]
          | _ => [])).releasedAt (agentOf c o.party) scope 8 p false
      | _, _ => s
    completeOp s c o (if w.fld 12 9 = 15 then []
      else [.p (partyWarp o.party) (w.fld 12 9) o.lanes (if bad then o.lanes else 0)])
  | .sigRd =>
    let r := readSig s c o
    let s := match r.2.1 with
      | some p => r.2.2.acquiredAt c (agentOf c o.party) scope 8 p
      | none => r.2.2
    let v := if lost then Config.freeWord64 s.fresh else r.1
    completeOp (releaseSite { s with fresh := s.fresh + 1 } c o) c o (pairWrs (partyWarp o.party) w.d.toNat v)
  | .sigWait =>
    if !lost then sigPoll s c o w
    else sigWaitLost s c (if err = .dataError then { o with outs := [] } else o) w
  | _ => s

end Sys2Proof.Machine
end

