-- ==== Sys2Proof/Machine/Region.lean ====
section
/-! DEFINITION. Region and cache control (R301 to R313): regions and their token, write-back and invalidation, pins, and the
events of the L2 slices. -/

namespace Sys2Proof.Machine

/-! Regions. -/

/-- What makes a region number name no region of the issuer (R309): none, or the entry. -/
def State.regionFor (s : State) (asid r : Nat) : Option Region :=
  let e := s.region r
  if r < 4096 ∧ e.valid ∧ e.asid = asid then some e else none

def State.setRegion (s : State) (r : Nat) (e : Region) : State := { s with regions := s.regions.put r e {} }

/-- The held sectors of a cluster for a region. -/
def heldOf (cl r : Nat) (k : Nat) (x : HeldSector) : Bool := decide (k / 2 ^ 61 = cl) && x.rgn == r

/-- Every M sector of a region in its holder's slice written back, and every copy there I (R311). -/
def State.flushRegion (s : State) (cl r : Nat) : State :=
  let xs := s.heldBytes.keep (heldOf cl r)
  let s := xs.foldl (fun s e => s.flushSector (e.1 % 2 ^ 61) e.2) s
  { s with heldBytes := s.heldBytes.keep (fun k x => !heldOf cl r k x) }

/-- A cluster's L1s, and the clean copies of its slice, dropped (R310, R311): an eviction of more than the region's sectors is
always allowed and shows nothing but time. -/
def State.clusterClear (s : State) (cl : Nat) : State :=
  let s := (s.l1Clear (2 * cl)).l1Clear (2 * cl + 1)
  { s with copies := s.copies.keep (fun k _ => decide (k / 2 ^ 61 ≠ cl)) }

/-- A region given to a cluster (R310). -/
def State.grantRegion (s : State) (cl r : Nat) : State :=
  (s.setRegion r { s.region r with state := 1, holder := cl }).clusterClear cl

/-- A region freed by its holder (R311). -/
def State.freeRegion (s : State) (cl r : Nat) : State :=
  let s := (s.flushRegion cl r).clusterClear cl
  s.setRegion r { s.region r with state := 0, holder := 0xFF, gen := ((s.region r).gen + 1) % 256 }

/-- The region word (R309). -/
def State.regionWord (s : State) (asid r : Nat) : Nat :=
  match s.regionFor asid r with
  | some e => 2 ^ 63 + e.state * 2 ^ 61 + e.gen * 2 ^ 48 + e.holder * 2 ^ 32 + e.len
  | none => 0

/-- ACQR (R310): its outcome is found at ACQR_TOKEN_GRANT or ACQR_TIMEOUT. -/
def execAcqr (w : RWord) (s : State) : Host.Outcome State Fault Refusal :=
  runVariable .acqr (.r w) (fun _ => none) (fun e o =>
    { o with args := [BitVec.ofNat 64 (e.srcA false 0)], dests := e.destRegs }) s

/-- RELR (R311): at issue the region leaves the held list and is PASSING; `pos` keeps the result. -/
def execRelr (w : RWord) (s : State) : Host.Outcome State Fault Refusal :=
  let code (e : Env) : Nat := match e.s.regionFor e.blk.asid (e.srcA false 0) with
    | none => 2
    | some _ => if e.s.holds (clusterOf e.c) (e.srcA false 0) then 0 else 4
  runVariableThen .relr (.r w) (fun _ => none)
    (fun e o => { o with args := [BitVec.ofNat 64 (e.srcA false 0)], dests := e.destRegs, pos := code e })
    (fun e _ s =>
      if code e = 0 then s.setRegion (e.srcA false 0) { s.region (e.srcA false 0) with state := 2 } else s) s

/-- RGNQ (R309): the word as it stands at issue. -/
def execRgnq (w : RWord) (s : State) : Host.Outcome State Fault Refusal :=
  runVariable .rgnq (.r w) (fun _ => none) (fun e o =>
    { o with args := [BitVec.ofNat 64 (e.s.regionWord e.blk.asid (e.srcA false 0))], dests := e.destRegs }) s

/-- The result of ACQR or RELR written. -/
def rgnResult (s : State) (c : Nat) (o : Op) (code : Nat) : State :=
  completeOp s c o [.s (partyWarp o.party) o.body.dIdx (BitVec.ofNat 32 code)]

/-- Whether an earlier ACQR of the same region waits (R310). -/
def State.earlierAcqr (s : State) (r id : Nat) : Bool :=
  s.cores.any (fun e => e.2.ops.any (fun o =>
    o.fn == .acqr && o.stage == .go && decide (o.id < id) && (o.arg 0).toNat == r))

/-- ACQR_TOKEN_GRANT (R310). -/
def execAcqrTokenGrant (core op : Nat) (s : State) : Host.Outcome State Fault Refusal :=
  match (s.core core).findOp op with
  | some o =>
    if o.fn = .acqr ∧ o.stage = .go then
      let r := (o.arg 0).toNat
      let cl := clusterOf core
      let tout := match o.body with
        | .r w => w.fld 3 0
        | _ => 0
      match s.regionFor (s.core core).asid r with
      | none => done (rgnResult s core o 2)
      | some e =>
        if e.state = 1 ∧ e.holder = cl then done (rgnResult s core o 3)
        else if 16 ≤ (s.heldList cl).length then done (rgnResult s core o 5)
        else if e.state = 0 ∧ ¬ s.earlierAcqr r op then done (rgnResult (s.grantRegion cl r) core o 0)
        else if tout = 0 then done (rgnResult s core o 1)
        else .next s
    else .next s
  | none => .next s

/-- ACQR_TIMEOUT (R310). -/
def execAcqrTimeout (core op : Nat) (s : State) : Host.Outcome State Fault Refusal :=
  match (s.core core).findOp op with
  | some o =>
    let tout := match o.body with
      | .r w => w.fld 3 0
      | _ => 0
    if o.fn = .acqr ∧ o.stage = .go ∧ tout ≠ 0 ∧ o.born + ticksOf (2 ^ tout) ≤ s.ref then done (rgnResult s core o 1)
    else .next s
  | none => .next s

/-- Whether a store or atomic of a core, issued before operation `id`, remains to be performed (R307, R311). -/
def Core.writesBefore (k : Core) (id : Nat) : Bool :=
  k.ops.any (fun e => decide (e.id < id) && e.stage != .done && spaceOf e.fn == .paged && (match accessOf e with
    | some a => a.wr
    | none => false))

/-- RELR_COMPLETION (R311): a release at PACKAGE scope, after every earlier access of its stream. -/
def execRelrCompletion (core op : Nat) (s : State) : Host.Outcome State Fault Refusal :=
  match (s.core core).findOp op with
  | some o =>
    if o.fn = .relr ∧ o.stage = .go then
      if o.pos ≠ 0 then done (rgnResult s core o o.pos)
      else
        let cl := clusterOf core
        if !s.mayPerform core o || (s.core (2 * cl)).writesBefore o.id || (s.core (2 * cl + 1)).writesBefore o.id then .next s
        else done (rgnResult (s.freeRegion cl (o.arg 0).toNat) core o 0)
    else .next s
  | none => .next s

/-! Write-back, invalidation, pins (R305 to R308). -/

/-- A range of the mould issued: its base and length. -/
def rangeWord (fn : Fn) (w : RWord) (s : State) : Host.Outcome State Fault Refusal :=
  runVariable fn (.r w) (fun _ => none) (fun e o =>
    { o with args := [BitVec.ofNat 64 (e.srcA true 0), BitVec.ofNat 64 (e.srcB false 0)], dests := e.destRegs }) s

def execWb (w : RWord) (s : State) : Host.Outcome State Fault Refusal := rangeWord .wb w s
def execInv (w : RWord) (s : State) : Host.Outcome State Fault Refusal := rangeWord .inv w s
def execWbinv (w : RWord) (s : State) : Host.Outcome State Fault Refusal := rangeWord .wbinv w s
def execPin (w : RWord) (s : State) : Host.Outcome State Fault Refusal := rangeWord .pin w s
def execUnpin (w : RWord) (s : State) : Host.Outcome State Fault Refusal := rangeWord .unpin w s

/-- A piece of a range within one page: its leaf, its place, its length. -/
structure Piece where
  leaf : Nat
  place : Place
  len : Nat
  deriving DecidableEq, Repr, Inhabited

/-- The pieces of a range, page by page, without the pages that R305 skips; `ho` tells that the handler asks (R392). -/
def State.rangePieces (s : State) (c : Nat) (ho : Bool) (a n : Nat) : List Piece :=
  let asid := (s.core c).asid
  (pageStarts a n).filterMap (fun p =>
    let len := min (a + n) (p / 2 ^ 16 * 2 ^ 16 + 2 ^ 16) - p
    let va := p % 2 ^ 64
    if n = 0 then none
    else
      match s.xlate (s.core c).tlb asid va with
      | .ok leaf base _ =>
        let place := placeOf leaf base va
        let near : Bool := match place with
          | .window m _ => s.attached m
          | _ => true
        if permits leaf .read ho && s.regionOk (clusterOf c) leaf && near then some ⟨leaf, place, len⟩ else none
      | _ => none)

/-- The numbers in the L2 map of a piece's sectors: from the first to the last. -/
def Piece.sectors (p : Piece) : Option (Nat × Nat) :=
  match p.place with
  | .hbm pa => some (pa / 64, (pa + p.len - 1) / 64)
  | .window m off => some (modSector m off, modSector m (off + p.len - 1))
  | .host _ => none

/-- One of WB, INV and WBINV at the L2 (R306), on sectors `lo` to `hi` of a piece. -/
def State.l2Range (s : State) (c : Nat) (fn : Fn) (leaf lo hi : Nat) : State :=
  let inR (k : Nat) : Bool := decide (lo ≤ k % 2 ^ 61) && decide (k % 2 ^ 61 ≤ hi)
  match s.heldBy c leaf with
  | some (cl, _) =>
    let mine (k : Nat) : Bool := decide (k / 2 ^ 61 = cl) && inR k
    let s' := if fn = .inv then s
      else (s.heldBytes.keep (fun k _ => mine k)).foldl (fun s e => s.flushSector (e.1 % 2 ^ 61) e.2) s
    let kept : FMap HeldSector := match fn with
      | .wb => s'.heldBytes.map (fun e => (e.1, if mine e.1 then { e.2 with m := false, bytes := [] } else e.2))
      | .inv => s'.heldBytes.keep (fun k x => !mine k || x.m)
      | _ => s'.heldBytes.keep (fun k _ => !mine k)
    { s' with heldBytes := kept, copies := if fn = .wb then s'.copies else s'.copies.keep (fun k _ => !inR k) }
  | none =>
    match fn with
    | .wb => { s with l2 := s.l2.map (fun e => (e.1, if inR e.1 then e.2.clean else e.2)) }
    | .inv => { s with copies := s.copies.keep (fun k _ => !inR k), l2 := s.l2.keep (fun k x => !inR k || x.st == .m) }
    | _ => { s with l2 := s.l2.keep (fun k _ => !inR k), copies := s.copies.keep (fun k _ => !inR k) }

/-- The pin of a line in a slice: the slice, then the line of HBM or of a module. -/
def pinKey (slice : Nat) (p : Place) : Nat :=
  lineKey slice (match p with
    | .hbm pa => pa / 256
    | .window m off => modSector m off / 4
    | .host a => 2 ^ 59 + a / 256)

/-- The lines of a piece. -/
def Piece.lines (p : Piece) (slice : Nat) : List Nat :=
  match p.place with
  | .host _ => []
  | _ =>
    let first := pinKey slice p.place
    let last := pinKey slice (match p.place with
      | .hbm pa => .hbm (pa + p.len - 1)
      | .window m off => .window m (off + p.len - 1)
      | x => x)
    (List.range (last - first + 1)).map (fun i => first + i)

/-- The pinned lines of a slice. -/
def State.pinCount (s : State) (slice : Nat) : Nat := (s.pins.filter (fun e => decide (e.1 / 2 ^ 62 = slice))).length

/-- A line of a piece fetched into a core's slice, in the states of R301 (R308). -/
def State.fetchLine (s : State) (c leaf : Nat) (place : Place) : State :=
  (List.range 4).foldl (fun s i => s.fetchL2 c leaf (match place with
    | .hbm pa => .hbm (pa / 256 * 256 + 64 * i)
    | .window m off => .window m (off / 256 * 256 + 64 * i)
    | p => p)) s

/-- The lines of a piece, with the place of each. -/
def Piece.places (p : Piece) (slice : Nat) : List (Nat × Place) :=
  (p.lines slice).zipIdx.map (fun x => (x.1, match p.place with
    | .hbm pa => .hbm (pa / 256 * 256 + 256 * x.2)
    | .window m off => .window m (off / 256 * 256 + 256 * x.2)
    | q => q))

/-- PIN and UNPIN of lines: how many were newly pinned, or unpinned. A line that is pinned is fetched, each by its leaf and place; PIN
stops at the limit of a slice. -/
def State.pinLines (s : State) (c launch : Nat) (xs : List (Nat × Nat × Place)) : Nat × State :=
  xs.foldl (fun acc x =>
    if 32768 ≤ acc.2.pinCount (clusterOf c) then acc
    else
      let s := acc.2.fetchLine c x.2.1 x.2.2
      if (s.pins.find x.1).isSome then (acc.1, s) else (acc.1 + 1, { s with pins := s.pins.set x.1 (launch + 1) })) (0, s)
def State.unpinLines (s : State) (xs : List Nat) : Nat × State :=
  xs.foldl (fun acc k =>
    if (acc.2.pins.find k).isSome then (acc.1 + 1, { acc.2 with pins := acc.2.pins.del k }) else acc) (0, s)

/-- The pins of a launch in a slice removed (R308). -/
def State.dropPins (s : State) (slice launch : Nat) : State :=
  { s with pins := s.pins.keep (fun k x => decide (k / 2 ^ 62 ≠ slice) || decide (x ≠ launch + 1)) }

/-- The completion of an instruction of class RGN other than ACQR and RELR (R307, R308). -/
def rgnComplete (s : State) (c : Nat) (o : Op) : State :=
  let warp := partyWarp o.party
  let d := o.body.dIdx
  match o.fn with
  | .rgnq => completeOp s c o (pairWrs warp d (o.arg 0))
  | .pin | .unpin =>
    let slice := clusterOf c
    let launch := match (s.core c).block with
      | some b => b.launch
      | none => 0
    let ps := s.rangePieces c o.handler (o.arg 0).toNat (o.arg 1).toNat
    if !(s.core c).writesDone o.party o.id then s
    else
      let r := if o.fn = .pin then
          s.pinLines c launch ((ps.map (fun p => (p.places slice).map (fun x => (x.1, p.leaf, x.2)))).flatten)
        else s.unpinLines ((ps.map (fun p => p.lines slice)).flatten)
      completeOp r.2 c o [.s warp d (BitVec.ofNat 32 r.1)]
  | .wb | .inv | .wbinv =>
    if !(s.core c).writesDone o.party o.id then s
    else
      let lvl := match o.body with
        | .r w => w.fld 21 20
        | _ => 0
      let s := (s.rangePieces c o.handler (o.arg 0).toNat (o.arg 1).toNat).foldl (fun s p =>
        let s := match p.place, lvl with
          | .hbm pa, 0 | .hbm pa, 2 =>
            if o.fn = .wb then s
            else s.onCore c (fun k => { k with l1 := k.l1.keep (fun j _ =>
              !(decide (pa / 64 ≤ j) && decide (j ≤ (pa + p.len - 1) / 64))) })
          | _, _ => s
        match p.sectors with
        | some (lo, hi) => if lvl = 0 then s else s.l2Range c o.fn p.leaf lo hi
        | none => s) s
      completeOp s c o []
  | _ => s

/-! Events of the slices and of the host's window. -/

/-- L2_EVICTION (R303): the line of a sector is replaced in a slice; a pinned line is never chosen (R308), and one marked by .STRM goes
before the others (R149, log 128). -/
def execL2Eviction (slice sector : Nat) (s : State) : Host.Outcome State Fault Refusal :=
  let line := sector / 4
  if (s.replaceable slice (line :: s.linesOf slice)).contains line then done (s.evictLine slice line) else .next s

/-- BISNP (R304, R424): every M sector of the line is written back and every copy invalidated; a snoop through a port that is
not up is held by the module. -/
def execBisnp (module line : Nat) (s : State) : Host.Outcome State Fault Refusal :=
  let up := match headOn s.order s.self module with
    | some j => (s.port j).state == 1
    | none => false
  if up then
    done ((List.range 4).foldl (fun s i => s.dropSector (modSector module (256 * line + 64 * i))) s)
  else .next s

/-- HBM as the host reads it through BAR2 (R403): a sector that is M in L2 gives what HBM holds beneath it. -/
def State.hostRead (s : State) (a n : Nat) : List Byte :=
  ((pieces a n).map (fun p =>
    let x := s.l2.get (p.1 / 64) {}
    if x.st = .m then (x.old.drop (p.1 % 64)).take p.2 else s.hbmBytes p.1 p.2)).flatten

/-- HOST_MEM_READ (R403): the host learns the bytes of `hostRead`; the package does not change. -/
def execHostMemRead (addr length : Nat) (s : State) : Host.Outcome State Fault Refusal := done (s.guardHbm addr length)

/-- HOST_MEM_WRITE (R403): HBM and the home's copy are overwritten, and every S copy of the sector is invalidated. -/
def execHostMemWrite (addr : Nat) (data : List (BitVec 8)) (s : State) : Host.Outcome State Fault Refusal :=
  let s := s.guardHbm addr data.length
  let s := (pieces addr data.length).foldl (fun s p =>
    let sec := p.1 / 64
    let x := s.l2.get sec {}
    let bs := (data.drop (p.1 - addr)).take p.2
    { s with hbm := s.hbm.putBytes p.1 bs,
             l2 := if x.st = .m then s.l2.put sec { x with old := patch x.old (p.1 % 64) bs } {} else s.l2,
             copies := s.copies.keep (fun k _ => k % 2 ^ 61 != sec) }) s
  done s

end Sys2Proof.Machine
end

