-- ==== Sys2Proof/Machine/Pod.lean ====
section
/-! DEFINITION. The window instructions of class POD (R330 to R332), the expert exchange (R341, R342), the courier (R338), link
status and the events of the ports (R318, R324, R343, R424). -/

namespace Sys2Proof.Machine

/-! Shared. -/

/-- A context changed. -/
def State.onCtx (s : State) (asid : Nat) (f : Context → Context) : State :=
  { s with ctxs := s.ctxs.put asid (f (s.ctx asid)) {} }

/-- GRPI of a POD word, and the group entry. -/
def grpOf (b : Body) : Nat := match b with
  | .r w => w.fld 21 18
  | _ => 0

/-- The status register of a window instruction. -/
def ssOf (b : Body) : Nat := match b with
  | .r w => w.fld 7 0
  | _ => 0

/-- The end of a POD instruction: its status, and what else it writes. -/
def podDone (s : State) (c : Nat) (o : Op) (status : Nat) (wrs : List Wr) : State :=
  completeOp s c o (wrs ++ [.s (partyWarp o.party) (ssOf o.body) (BitVec.ofNat 32 status)])

/-- A 32-bit result in D, or two in D and D + 1. -/
def podD1 (o : Op) (x : Nat) : List Wr := [.s (partyWarp o.party) o.body.dIdx (BitVec.ofNat 32 x)]
def podD2 (o : Op) (x y : Nat) : List Wr :=
  podD1 o x ++ [.s (partyWarp o.party) (o.body.dIdx + 1) (BitVec.ofNat 32 y)]

/-- Whether a function sends commands or writes to a module (R332). -/
def sendsTo (f : Fn) : Bool :=
  f == .matom || f == .mqPush || f == .mqPop || f == .mred || f == .xchPush || f == .replay || f == .mflagSet

/-- The module that an operation of class POD reaches (R316, R340). -/
def State.podModule (s : State) (c : Nat) (o : Op) : Option Nat :=
  match s.maddr (s.group (s.core c).asid (grpOf o.body)).dead (o.arg 0) with
  | .ok x => some x.1
  | .error _ => none

/-- Whether an earlier command of the warp to the same module remains (R332). -/
def State.podEarlier (s : State) (c : Nat) (o : Op) : Bool :=
  (s.core c).ops.any (fun e => decide (e.id < o.id) && e.party == o.party && sendsTo e.fn && (e.stage == .go || e.stage == .check) &&
    (s.podModule c e).isSome && s.podModule c e == s.podModule c o)

/-- Whether everything that a release must follow has been performed (R285, R286, R297). -/
def Core.releaseReady (k : Core) (p : Party) (id : Nat) : Bool :=
  k.ops.all (fun e => !decide (e.id < id) || e.stage == .done ||
    !((e.party == p || decide (e.id < k.seen p e.party)) && (accessOf e).isSome))

/-- The place in a module that an operation reaches, with the bytes it needs granted (R316, R317, R339): a status, nothing
yet while a port retrains, or the module, the offset and the relay of R340. -/
def State.podPlace (s : State) (asid grp : Nat) (x : Word64) (n : Nat) : Except Nat (Option (Nat × Nat × Option Nat)) :=
  match s.maddr (s.group asid grp).dead x with
  | .error st => .error st
  | .ok (m, off, via) =>
    match s.windowGate m via ((s.ctx asid).granted m off n) true with
    | .bad st => .error st
    | .wait => .ok none
    | .ok => .ok (some (m, off, via))

/-! Reading and writing a context's memory for an engine that serves a core. -/

/-- A range read as core `c`'s context reads it: none where a byte cannot be read. -/
def State.rangeBytes (s : State) (c asid a n : Nat) : Option (List Byte) :=
  (pieces a n).foldr (fun p acc => match acc, s.walk asid (p.1 % 2 ^ 64) with
    | some bs, .ok leaf base _ =>
      if permits leaf .read false && s.regionOk (clusterOf c) leaf then
        some (s.readPlace (s.heldBy c leaf) (placeOf leaf base (p.1 % 2 ^ 64)) p.2 ++ bs)
      else none
    | _, _ => none) (some [])

/-- A range written: none where a byte cannot be written. -/
def State.rangeWrite (s : State) (c asid a : Nat) (bs : List Byte) : Option State :=
  (pieces a bs.length).foldl (fun acc p => match acc with
    | some t => match s.walk asid (p.1 % 2 ^ 64) with
      | .ok leaf base _ =>
        if permits leaf .write false && s.regionOk (clusterOf c) leaf then
          some (t.storeAt c 0 leaf (placeOf leaf base (p.1 % 2 ^ 64)) ((bs.drop (p.1 - a)).take p.2))
        else none
      | _ => none
    | none => none) (some s)

/-- Requests posted for the pages of a range that are not resident (R394), and whether there were any. -/
def State.rangeAsk (s : State) (asid a n : Nat) (need : Need) : Bool × State :=
  (pageStarts a n).foldl (fun acc p => match s.walk asid (p % 2 ^ 64) with
    | .notres _ => (true, acc.2.post asid (p % 2 ^ 64) (some need) false [])
    | .migrating _ => (true, acc.2)
    | _ => acc) (false, s)

/-! Issue (R330). -/

/-- A window instruction issued: its checks, then what it captures. -/
def windowWord (fn : Fn) (w : RWord) (check : Env → Option Trap) (args : Env → List Word64) (s : State) :
    Host.Outcome State Fault Refusal :=
  runVariable fn (.r w) check (fun e o =>
    { o with args := BitVec.ofNat 64 (e.srcA true 0) :: args e,
             dests := e.destRegs ++ [⟨.s, e.w, w.fld 7 0⟩] }) s

/-- OFF of the MADDR that a word names. -/
def Env.maddrOff (e : Env) : Nat := bits (e.srcA true 0) 55 0

/-- The checks of a scratchpad range of a POD word. -/
def Env.podScratch (e : Env) (a n : Nat) : Option Trap :=
  if a % 64 ≠ 0 then some (addrTrap .alignFault a)
  else if e.kernel.scratch < a + n then some (addrTrap .scratchRange a)
  else none

/-- An even S pair of the word's B field, from register B + `i`. -/
def Env.bPair (e : Env) (i : Nat) : Word64 := BitVec.ofNat 64 (e.wp.sreg true (e.rw.b.toNat + i))
def Env.bReg (e : Env) (i : Nat) : Nat := e.wp.sreg false (e.rw.b.toNat + i)

/-- ALIGN_FAULT of an OFF that is not a multiple of `n`. -/
def Env.offTrap (e : Env) (n : Nat) : Option Trap :=
  if e.maddrOff % n ≠ 0 then some (addrTrap .alignFault e.maddrOff) else none

def execMatom (w : RWord) (s : State) : Host.Outcome State Fault Refusal :=
  windowWord .matom w (fun e => e.offTrap 8)
    (fun e => [e.bPair 0, if w.fld 17 14 = 4 then e.bPair 2 else 0]) s
def execMflagSet (w : RWord) (s : State) : Host.Outcome State Fault Refusal :=
  windowWord .mflagSet w (fun e => e.offTrap 8) (fun e => [e.bPair 0]) s
def execMflagWait (w : RWord) (s : State) : Host.Outcome State Fault Refusal :=
  windowWord .mflagWait w (fun e => e.offTrap 8) (fun e => [e.bPair 0]) s
def execMqPush (w : RWord) (s : State) : Host.Outcome State Fault Refusal :=
  windowWord .mqPush w (fun e => e.podScratch (e.srcB false 0) (64 * (w.fld 11 8 + 1)))
    (fun e => [BitVec.ofNat 64 (e.srcB false 0)]) s
def execMqPop (w : RWord) (s : State) : Host.Outcome State Fault Refusal :=
  windowWord .mqPop w (fun e => e.podScratch (e.srcB false 0) (64 * (w.fld 11 8 + 1)))
    (fun e => [BitVec.ofNat 64 (e.srcB false 0)]) s
def execMred (w : RWord) (s : State) : Host.Outcome State Fault Refusal :=
  windowWord .mred w (fun e => firstTrap [e.offTrap 64,
      if e.bReg 1 % 64 ≠ 0 then some (addrTrap .alignFault (e.bReg 1)) else none, e.podScratch (e.bReg 0) (e.bReg 1)])
    (fun e => [BitVec.ofNat 64 (e.bReg 0), BitVec.ofNat 64 (e.bReg 1)]) s

/-- LNK.STAT (R343): the word of a port. -/
def Port.word (p : Port) : Nat :=
  p.replays * 2 ^ 48 + p.retrains * 2 ^ 32 + p.failed.toNat * 2 ^ 16 + p.state * 2 ^ 8 + p.width * 2 ^ 4

def execLnkStat (w : RWord) (s : State) : Host.Outcome State Fault Refusal :=
  runVariable .lnkStat (.r w) (fun _ => none) (fun e o =>
    { o with args := [BitVec.ofNat 64 (e.s.port (w.fld 10 8)).word], dests := e.destRegs }) s

/-! The effects (R331). -/

/-- Records pushed in order until one is refused: how many, and the reply that stopped them. -/
def pushRecords (m : Nat) (via : Option Nat) (base : Nat) : List (List Byte) → Nat → State → Nat × Nat × State
  | [], n, s => (n, 0, s)
  | r :: rs, n, s =>
    match s.command m via ⟨0x10, base, 0, 0, r⟩ with
    | (⟨0, _, _⟩, s) => pushRecords m via base rs (n + 1) s
    | (x, s) => (n, x.status, s)

/-- Records popped in order, at most `k`. -/
def popRecords (m : Nat) (via : Option Nat) (base : Nat) : Nat → List (List Byte) → State → List (List Byte) × Nat × State
  | 0, rs, s => (rs, 0, s)
  | k + 1, rs, s =>
    match s.command m via ⟨0x11, base, 0, 0, []⟩ with
    | (⟨0, _, r⟩, s) => popRecords m via base k (rs ++ [r]) s
    | (x, s) => (rs, x.status, s)

/-- The module opcode of a MATOM (R331). -/
def matomOp (op : Nat) (sgn : Bool) : Nat := match op with
  | 0 => 1
  | 1 => if sgn then 2 else 3
  | 2 => if sgn then 4 else 5
  | 3 => 6
  | 4 => 7
  | 5 => 8
  | 6 => 9
  | _ => 10

/-- A list of 64-byte records in a scratchpad. -/
def Core.records (k : Core) (a n : Nat) : List (List Byte) := (List.range n).map (fun i => k.scratch.getBytes (a + 64 * i) 64)

/-- The 16 bytes of an arrival (R323). -/
def arrivalBytes (seq gen : Nat) (ovf : Bool) : List Byte := toLe seq 4 ++ toLe gen 4 ++ toLe (if ovf then 1 else 0) 8

/-- Contributions of 64 bytes each written to a reduction window from offset `off` on, and an arrival after them; through a relay the
arrival goes with the last of them (R323, R338). -/
def State.redSend (s : State) (m : Nat) (via : Option Nat) (base off : Nat) (xs : List (List Byte)) (arr : Option (List Byte)) : State :=
  match s.route m via with
  | .relay c =>
    xs.zipIdx.foldl (fun s x => match arr with
      | some a => if x.2 + 1 = xs.length then (s.hop c 4 m (off + 64 * x.2) (x.1 ++ a)).2 else (s.hop c 2 m (off + 64 * x.2) x.1).2
      | none => (s.hop c 2 m (off + 64 * x.2) x.1).2) s
  | _ =>
    let s := (s.moduleLines m (xs.zipIdx.map (fun x => (off + 64 * x.2, x.1)))).getD s
    match arr with
    | some a => (s.moduleStore m (base + 0x40) a).getD s
    | none => s

/-- GEN and SEQ of a window as the issuing warp last read them (R331); what it has not read is as it stands (log 146). -/
def State.redSeen (s : State) (c warp m base i : Nat) : Nat :=
  ((s.core c).redRead.get ((modKey m base + 4 * i) * 64 + warp) (BitVec.ofNat 32 (s.modNum m (base + 4 * i) 4))).toNat

/-- The value that an MFLAG.WAIT last read, kept in the operation. -/
def flagDone (s : State) (c : Nat) (o : Op) (status : Nat) (v : Word64) : State :=
  podDone s c o status (pairWrs (partyWarp o.party) o.body.dIdx v)

/-- An MRED performed at its place of a reduction window (R331): what passes the window is BAD_ADDR, and nothing is sent. -/
def mredPerform (s : State) (c : Nat) (o : Op) (w : RWord) (m off : Nat) (via : Option Nat) : State :=
  let n := (o.arg 2).toNat
  match s.modRegion m off 64 with
  | .reduction base x =>
    let a := base + 0x1000 + x
    if !(decide (0x1000 + x + n ≤ 0x100000) && s.mayReach (s.ctx (s.core c).asid) m a n (some [])) then podDone s c o 0x0D []
    else
      let seen := s.redSeen c (partyWarp o.party) m base
      podDone (s.redSend m via base a ((s.core c).records (o.arg 1).toNat (n / 64))
        (if w.mb 17 then some (arrivalBytes (seen 0) (seen 1) false) else none)) c o 0 []
  | _ => podDone s c o 0x0D []

/-- A window instruction performed at its module. -/
def windowPerform (s : State) (c : Nat) (o : Op) (w : RWord) : State :=
  let k := s.core c
  let asid := k.asid
  let rel := o.fn == .mqPush || o.fn == .mred || o.fn == .mflagSet
  if s.podEarlier c o || (rel && !k.releaseReady o.party o.id) then s
  else
    let need := match o.fn with
      | .mqPush | .mqPop => 0x10000
      | .mred => 1
      | _ => 8
    match s.podPlace asid (w.fld 21 18) (o.arg 0) need with
    | .error st => if o.fn = .mqPush ∨ o.fn = .mqPop then podDone s c o st (podD1 o 0) else podDone s c o st []
    | .ok none => s
    | .ok (some (m, off, via)) =>
      match o.fn with
      | .matom =>
        let r := s.command m via ⟨matomOp (w.fld 17 14) (w.mb 13), off, (o.arg 1).toNat, (o.arg 2).toNat, []⟩
        if r.1.status = 0 then
          podDone r.2 c o 0 (if w.mb 12 then pairWrs (partyWarp o.party) o.body.dIdx (BitVec.ofNat 64 r.1.old) else [])
        else podDone r.2 c o (replyStatus r.1.status) []
      | .mflagSet =>
        if s.modRegion m off 8 = .data then podDone (s.writeMod m off (toLe (o.arg 1).toNat 8) via) c o 0 []
        else podDone s c o 0x0D []
      | .mflagWait =>
        if s.modRegion m off 8 ≠ .data then podDone s c o 0x0D []
        else if s.modPoison m off 8 then podDone s c o 0x0C []
        else
          let v := BitVec.ofNat 64 (s.modNum m off 8)
          if sigCond (w.fld 17 16) v (o.arg 1) then flagDone ((s.reachRead m via off 8).l1Clear c) c o 0 v
          else s.setOp c { o with outs := o.outs.set 0 v }
      | .mqPush =>
        let r := pushRecords m via off (k.records (o.arg 1).toNat (w.fld 11 8 + 1)) 0 s
        podDone r.2.2 c o (replyStatus r.2.1) (podD1 o r.1)
      | .mqPop =>
        let r := popRecords m via off (w.fld 11 8 + 1) [] s
        let s := r.2.2.onCore c (fun k => { k with scratch := k.scratch.putBytes (o.arg 1).toNat r.1.flatten })
        podDone (s.l1Clear c) c o (replyStatus r.2.1) (podD1 o r.1.length)
      | .mred => mredPerform s c o w m off via
      | _ => s

/-! The expert exchange (R341, R342). -/

/-- XCH.PUSH and REPLAY issued: their checks, and the hold for the translation of the ring descriptor. -/
def exchangeWord (fn : Fn) (w : RWord) (s : State) : Host.Outcome State Fault Refusal :=
  runWord fn (.r w) (whenActive (fun e s =>
    let push := fn == .xchPush
    let n := if push then e.bReg 1 else e.bReg 0
    let ring := if push then e.bPair 2 else BitVec.ofNat 64 (e.srcA true 0)
    match (if push then e.podScratch (e.bReg 0) (64 * min n 64) else none) with
    | some t => .error t
    | none =>
      .ok (e.launchHeld s (fun o =>
        { o with dests := e.destRegs ++ [⟨.s, e.w, w.fld 7 0⟩], addr := e.active.map (fun l => (l, ring)),
                 args := [BitVec.ofNat 64 (e.srcA true 0), ring, BitVec.ofNat 64 n, BitVec.ofNat 64 (e.bReg 0)] })))) s

def execXchPush (w : RWord) (s : State) : Host.Outcome State Fault Refusal := exchangeWord .xchPush w s
def execReplay (w : RWord) (s : State) : Host.Outcome State Fault Refusal := exchangeWord .replay w s

/-- A replay-ring descriptor (R342). -/
structure Ring where
  base : Nat
  cap : Nat
  head : Nat
  tail : Nat
  rsv : Nat
  xgoff : Nat
  deriving DecidableEq, Repr, Inhabited

def parseRing (bs : List Byte) : Ring :=
  { base := recNum bs 0 8, cap := recNum bs 8 4, head := recNum bs 0xC 4, tail := recNum bs 0x10 4,
    rsv := recNum bs 0x14 4, xgoff := recNum bs 0x18 8 }

/-- Whether a ring and a count pass the checks of R342. -/
def Ring.ok (r : Ring) (n : Nat) : Bool :=
  decide (1 ≤ n) && decide (n ≤ 64) && (List.range 17).any (fun i => r.cap == 2 ^ i) && decide (r.head < r.cap) &&
    decide (r.tail < r.cap) && r.rsv == 0

/-- The entries that stand in a ring; it holds at most CAP − 1, so that HEAD = TAIL means empty. -/
def Ring.used (r : Ring) : Nat := (r.tail + r.cap - r.head) % r.cap

/-- One record to be pushed: where, for which group, and its bytes. -/
structure XRec where
  maddr : Word64
  grp : Nat
  bytes : List Byte
  deriving DecidableEq, Repr, Inhabited

/-- The record of a ring entry. -/
def XRec.ofEntry (bs : List Byte) : XRec :=
  { maddr := BitVec.ofNat 64 (recNum bs 0x40 8), grp := recNum bs 0x48 1 % 16, bytes := bs.take 64 }

/-- The ring entry of a record. -/
def XRec.entry (x : XRec) : List Byte :=
  x.bytes ++ toLe x.maddr.toNat 8 ++ [BitVec.ofNat 8 x.grp] ++ List.replicate 55 0

/-- The place of a record's reply word (R341). -/
def replyOff (xgoff self seq : Nat) : Nat := xgoff + 0x2000 * self + 0x1000 + 8 * (seq % 512)

/-- What a push of one record comes to: it waits for a port, or is pushed, or is left. -/
inductive Pushed where
  | wait
  | done
  | left
  deriving DecidableEq, Repr, Inhabited

/-- One record pushed with a new SEQ (R342): its reply word is written first; how it went, and the record as it now stands. -/
def pushOne (asid xgoff : Nat) (s : State) (x : XRec) : Pushed × XRec × State :=
  match s.podPlace asid x.grp x.maddr 0x10000 with
  | .ok none => (.wait, x, s)
  | .error _ => (.left, x, s)
  | .ok (some (m, off, via)) =>
    let key := modKey m off
    let seq := (s.ctx asid).xseq.get key 0 % 2 ^ 16
    let h := setBits (setBits (recNum x.bytes 0 8) 63 48 seq) 47 40 s.self
    let x := { x with bytes := toLe h 8 ++ x.bytes.drop 8 }
    let s := s.onCtx asid (fun c => { c with xseq := c.xseq.put key ((seq + 1) % 2 ^ 16) 0 })
    let s := s.writeMod m (replyOff xgoff s.self seq) (toLe ((seq + 0x8000) % 2 ^ 16 * 2 ^ 48 + 0xFF) 8) via
    let r := s.command m via ⟨0x10, off, 0, 0, x.bytes⟩
    (if r.1.status = 0 then .done else .left, x, r.2)

/-- Records pushed in order from the first that stands at 0; the first that is left leaves the rest; one that waits stops here. Each
stands at 0 until it is pushed, 1, or left, 2. -/
def pushAll (asid xgoff : Nat) : List (Nat × XRec) → State → List (Nat × XRec) × State
  | [], s => ([], s)
  | (0, x) :: xs, s =>
    match pushOne asid xgoff s x with
    | (.wait, _, _) => ((0, x) :: xs, s)
    | (.left, x, s) => ((2, x) :: xs.map (fun e => (2, e.2)), s)
    | (.done, x, s) => let r := pushAll asid xgoff xs s
                       ((1, x) :: r.1, r.2)
  | e :: xs, s => let r := pushAll asid xgoff xs s
                  (e :: r.1, r.2)

/-- The reply that a pushed record has received: its CODE, once the word carries its SEQ. -/
def State.replyFor (s : State) (asid xgoff : Nat) (x : XRec) : Option Nat :=
  match s.podPlace asid x.grp x.maddr 1 with
  | .ok (some (m, _)) =>
    let seq := bits (recNum x.bytes 0 8) 63 48
    let v := s.modNum m (replyOff xgoff s.self seq) 8
    if bits v 63 48 = seq then some (v % 256) else none
  | _ => none

/-- What stands against a record before anything is sent (log 147): the status of its way, its queue, and the grants of the queue and
of every reply word that it may use. -/
def State.recordBad (s : State) (asid xgoff : Nat) (x : XRec) : Option Nat :=
  match s.podPlace asid x.grp x.maddr 0x10000 with
  | .error st => some st
  | .ok none => none
  | .ok (some (m, off, _)) =>
    let area := xgoff + 0x2000 * s.self + 0x1000
    if (s.queueHead m off).isNone || s.modRegion m area 0x1000 != .data || !(s.ctx asid).granted m area 0x1000 then some 0x0D
    else if s.modPoison m off 12 then some 0x0C
    else none

/-- The ring as it stands in memory. -/
def State.ringAt (s : State) (asid : Nat) (a : Word64) : Option Ring :=
  (s.readVa asid a.toNat .read false 32).map parseRing

/-- The places of `n` ring entries from `i` on. -/
def Ring.entries (r : Ring) (i n : Nat) : List Nat := (List.range n).map (fun j => (r.base + 128 * ((i + j) % r.cap)) % 2 ^ 64)

/-- Places of memory as an exchange finds them before it reads or writes `n` bytes at each: none to wait for, or the package that has
asked for the pages; `bad` where a place cannot be reached. -/
inductive RingPages where
  | ready
  | asked (s : State)
  | bad

def State.ringPages (s : State) (c asid n : Nat) (need : Need) (xs : List Nat) : RingPages :=
  let r := xs.foldl (fun acc a => let y := acc.2.rangeAsk asid a n need
                                  (acc.1 || y.1, y.2)) (false, s)
  if r.1 then .asked r.2
  else if xs.all (fun a => match need with
      | .read => (s.rangeBytes c asid a n).isSome
      | _ => (s.rangeWrite c asid a (List.replicate n 0)).isSome) then .ready
  else .bad

/-- Records parked at the ring's TAIL, and HEAD moved past `taken` entries; the pages stand ready. -/
def State.park (s : State) (asid : Nat) (a : Word64) (r : Ring) (taken : Nat) (xs : List XRec) : State :=
  let s := ((r.entries r.tail xs.length).zip xs).foldl (fun s e => (s.writeVa asid e.1 false e.2.entry).getD s) s
  let s := (s.writeVa asid (a.toNat + 0xC) false (toLe ((r.head + taken) % r.cap) 4)).getD s
  (s.writeVa asid (a.toNat + 0x10) false (toLe ((r.tail + xs.length) % r.cap) 4)).getD s

/-- The records in flight of an exchange operation, kept in its bytes: 80 bytes each, the entry's 79 bytes and how it stands. -/
def packRecs (xs : List (Nat × XRec)) : List Byte :=
  (xs.map (fun e => e.2.entry.take 79 ++ [BitVec.ofNat 8 e.1])).flatten
def unpackRecs : Nat → List Byte → List (Nat × XRec)
  | 0, _ => []
  | n + 1, bs => (recNum bs 79 1, XRec.ofEntry (bs.take 79)) :: unpackRecs n (bs.drop 80)

/-- The end of an exchange: accepted records, and the others parked; it waits for the pages of the ring. A ring that can no longer be
reached ends it with BAD_ADDR (log 147). -/
def exchangeClose (s : State) (c : Nat) (o : Op) (xs : List (Nat × XRec)) (r : Ring) : State :=
  let asid := (s.core c).asid
  let ok (e : Nat × XRec) : Bool := e.1 == 1 && s.replyFor asid r.xgoff e.2 == some 0
  let parked := (xs.filter (fun e => !ok e)).map (·.2)
  match s.ringPages c asid 128 .write (r.entries r.tail parked.length), s.ringPages c asid 32 .write [(o.arg 1).toNat] with
  | .ready, .ready =>
    podDone (s.park asid (o.arg 1) r (if o.fn = .replay then xs.length else 0) parked) c o (if parked.isEmpty then 0 else 1)
      (podD2 o (xs.length - parked.length) parked.length)
  | .asked t, _ | _, .asked t => t
  | _, _ => podDone s c o 0x0D (podD2 o (xs.length - parked.length) 0)

/-- The records that an exchange sends: those that XCH.PUSH names in the scratchpad, or the entries that REPLAY finds from HEAD on. -/
def exchangeRecords (s : State) (c : Nat) (o : Op) (w : RWord) (r : Ring) : List XRec :=
  let n := (o.arg 2).toNat
  if o.fn = .xchPush then ((s.core c).records (o.arg 3).toNat n).map (fun b => ⟨o.arg 0, w.fld 21 18, b⟩)
  else (r.entries r.head (min n r.used)).map (fun a =>
    XRec.ofEntry ((s.readVa (s.core c).asid a .read false 128).getD []))

/-- An exchange that has not sent anything: the checks, the pages of the ring, then the first pushes. -/
def exchangeStart (s : State) (c : Nat) (o : Op) (w : RWord) (r : Ring) : State :=
  let asid := (s.core c).asid
  let n := (o.arg 2).toNat
  let none0 (st : Nat) : State := podDone s c o st (podD2 o 0 0)
  if !r.ok n then none0 0x0E
  else if o.fn = .xchPush ∧ r.cap ≤ r.used + n then none0 0x0B
  else
    let k := if o.fn = .xchPush then n else min n r.used
    match s.ringPages c asid 128 .write (r.entries r.tail k),
        (if o.fn = .replay then s.ringPages c asid 128 .read (r.entries r.head k) else .ready) with
    | .ready, .ready =>
      let xs := exchangeRecords s c o w r
      match (xs.map (s.recordBad asid r.xgoff)).find? Option.isSome with
      | some (some st) => none0 st
      | _ =>
        let y := pushAll asid r.xgoff (xs.map (fun x => (0, x))) s
        y.2.setOp c { o with stage := .held, bytes := packRecs y.1, pos := y.1.length }
    | .asked t, _ | _, .asked t => t
    | _, _ => none0 0x0D

/-- An exchange performed: the checks and the pushes, then the replies until all have come or TOUT has passed. One that has sent
nothing by then ends with TIMEOUT. -/
def exchangePerform (s : State) (c : Nat) (o : Op) (w : RWord) : State :=
  let k := s.core c
  let asid := k.asid
  let late := decide (o.born + (s.group asid (w.fld 21 18)).bound ≤ s.ref)
  match s.ringPages c asid 32 .read [(o.arg 1).toNat], s.ringAt asid (o.arg 1) with
  | .ready, some ring =>
    if o.stage = .go then
      (if s.podEarlier c o || !k.releaseReady o.party o.id then s
       else if late then podDone s c o 0x02 (podD2 o 0 0)
       else exchangeStart s c o w ring)
    else
      let y := pushAll asid ring.xgoff (unpackRecs o.pos o.bytes) s
      if y.1.all (fun e => e.1 == 2 || (e.1 == 1 && (y.2.replyFor asid ring.xgoff e.2).isSome)) then exchangeClose y.2 c o y.1 ring
      else if late then
        (if y.1.all (fun e => e.1 == 0) then podDone y.2 c o 0x02 (podD2 o 0 0) else exchangeClose y.2 c o y.1 ring)
      else y.2.setOp c { o with bytes := packRecs y.1 }
  | .asked t, _ => if late then podDone s c o 0x02 (podD2 o 0 0) else t
  | _, _ => podDone s c o 0x0D (podD2 o 0 0)

/-- FABRIC_TIMEOUT (R329): an operation whose wait passes the bound of its group ends with TIMEOUT; an MFLAG.WAIT writes the
value last read. A window access or a copy that waits for a port goes by GRP0. -/
def execFabricTimeout (core op : Nat) (s : State) : Host.Outcome State Fault Refusal :=
  match (s.core core).findOp op with
  | some o =>
    let g := s.group (s.core core).asid (grpOf o.body)
    if (o.fn = .matom ∨ o.fn = .mqPush ∨ o.fn = .mqPop ∨ o.fn = .mred ∨ o.fn = .mflagSet ∨ o.fn = .mflagWait) ∧
        o.stage = .go ∧ o.born + g.bound ≤ s.ref then
      match o.fn with
      | .mflagWait => done (flagDone s core o 0x02 (o.outs.get 0 0))
      | .mqPush | .mqPop => done (podDone s core o 0x02 (podD1 o 0))
      | _ => done (podDone s core o 0x02 [])
    else match o.port with
      | some t =>
        if t + (s.group (s.core core).asid 0).bound ≤ s.ref then done (s.setOp core { o with expired := true }) else .next s
      | none => .next s
  | none => .next s

/-! The courier (R338). -/

/-- The contexts for which a courier carries requests of package `a`: members of a FORMED group that includes it. -/
def State.carriers (s : State) (a : Nat) : List Context :=
  (s.ctxs.filter (fun e => e.2.live && e.2.groups.any (fun g => g.2.formed && g.2.mask.getLsbD a && g.2.mask.getLsbD s.self))).map (·.2)

/-- What a courier finds in a request record, beside its operation: the requester, where it is to be performed, the staged bytes. -/
structure CourierReq where
  op : Nat
  src : Nat
  dest : Word64
  stage : Nat
  deriving DecidableEq, Repr, Inhabited

def CourierReq.ofRecord (bs : List Byte) : CourierReq :=
  { op := recNum bs 0 1, src := recNum bs 1 1, dest := BitVec.ofNat 64 (recNum bs 8 8), stage := recNum bs 0x10 8 }

/-- Whether the staged bytes of a request lie in the staging area of its source. -/
def CourierReq.staged (x : CourierReq) (q sm : Nat) : Bool :=
  match headOn q x.src sm with
  | some h => decide (0x40000 + 0x10000 * h ≤ x.stage) &&
      decide (x.stage + (if x.op = 3 ∨ x.op = 4 then 128 else 64) ≤ 0x40000 + 0x10000 * (h + 1))
  | none => false

/-- The status with which a courier refuses a request for a place of a module, or none (R338, R339): what a command reaches is its own
target. -/
def State.carryBad (s : State) (x : CourierReq) (sm m off : Nat) : Option Nat :=
  let cmd := Command.ofSlots (s.modBytes sm x.stage 128)
  let may (y : Context) : Bool :=
    if x.op = 3 then y.granted m cmd.target (if cmd.queue then 0x10000 else 8)
    else s.mayReach y m off 64 (if x.op = 1 then none else some (s.modBytes sm x.stage 64))
  if (s.carriers x.src).isEmpty then some 0x07
  else if !x.staged s.order sm || !(s.carriers x.src).any may then some 0x0D
  else none

/-- The answer to a request that the courier of port `j` took from its queue: popped, and the reply pushed into the queue of the
source's head. -/
def State.answerRequest (s : State) (j sm : Nat) (req : List Byte) (src : Nat) (r : Nat × State) : State :=
  let t := (r.2.atPort sm j ⟨0x11, queueBase (56 + j), 0, 0, []⟩).2
  match headOn s.order src sm with
  | some h => { (t.atPort sm j ⟨0x10, queueBase (48 + h), 0, 0, courierReply req r.1⟩).2 with courierWait := t.courierWait.del j }
  | none => { t with courierWait := t.courierWait.del j }

/-- COURIER_REQUEST (R338): the courier on a port performs the oldest request of its queue and writes its reply. It waits for a port
that retrains within TOUT of GRP0. -/
def execCourierRequest (port : Nat) (s : State) : Host.Outcome State Fault Refusal :=
  if s.order = 0 ∨ s.order < port ∨ (s.port port).state ≠ 1 then .next s
  else
    let sm := moduleAt s.order s.self port
    match s.queueHead sm (queueBase (56 + port)) with
    | none => .next s
    | some (head, tail, cap) =>
      if queueUsed head tail cap = 0 then .next s
      else
        let req := s.modBytes sm (queueBase (56 + port) + 0x400 + 64 * (head % cap)) 64
        let x := CourierReq.ofRecord req
        let answer (r : Nat × State) : Host.Outcome State Fault Refusal := done (s.answerRequest port sm req x.src r)
        match s.maddr 0xFF x.dest with
        | .error e => answer (e, s)
        | .ok (m, off, _) =>
          match s.carryBad x sm m off, s.route m with
          | some e, _ => answer (e, s)
          | none, .direct _ => answer (s.courier s.self x.op sm x.stage m off)
          | none, .bad e => answer (e, s)
          | none, .relay _ => answer (0x08, s)
          | none, .wait =>
            let since := s.courierWait.get port s.ref
            let bound := (((s.carriers x.src).head?.map (fun y => (y.groups.get 0 {}).bound)).getD 0)
            if since + bound ≤ s.ref then answer (0x02, s)
            else done { s with courierWait := s.courierWait.set port since }

/-! The ports (R318, R324). -/

/-- The lanes of each width code, in the order in which a port tries them (R318). -/
def widthLanes : List Nat := [0xFFFF, 0x00FF, 0xFF00, 0x000F, 0x00F0, 0x0F00, 0xF000]

/-- The first width whose lanes have all survived. -/
def Port.usable (p : Port) : Option Nat :=
  (List.range 7).find? (fun i => ((widthLanes[i]?).getD 0) &&& p.failed.toNat == 0)

def State.setPort (s : State) (j : Nat) (p : Port) : State := { s with ports := s.ports.put j p {} }

/-- LINK_RETRAIN_COMPLETE (R318, R324). -/
def execLinkRetrainComplete (port replayed : Nat) (s : State) : Host.Outcome State Fault Refusal :=
  let p := s.port port
  if p.state = 2 then
    match p.usable with
    | some wd => done (s.setPort port { p with state := 1, width := wd, retrains := min (p.retrains + 1) 0xFFFF,
                                               replays := min (p.replays + replayed) 0xFFFF })
    | none => .next s
  else .next s

end Sys2Proof.Machine
end

