-- ==== Sys2Proof/Machine/Collective.lean ====
section
/-! DEFINITION. Groups and collectives: GRP.FORM and GRP.STAT (R325 to R327), COL.RS, COL.AG and COL.WAIT (R333 to R337), and
what they do under a severed pair (R340). -/

namespace Sys2Proof.Machine

/-! Groups. -/

/-- Members of a group. -/
def Group.members (g : Group) (q : Nat) : List Nat := (List.range (podN q)).filter (fun p => g.mask.getLsbD p)

/-- COORD: the lowest member (R325); 0 where there is none. -/
def Group.coord (g : Group) : Nat := ((List.range 64).find? (fun p => g.mask.getLsbD p)).getD 0

def State.setGroup (s : State) (asid g : Nat) (x : Group) : State := s.onCtx asid (fun c => { c with groups := c.groups.put g x {} })

/-- Collectives outstanding in a group (R327). -/
def Context.colsOf (x : Context) (g : Nat) : List (Nat × Collective) := x.cols.filter (fun e => e.2.grp == g)

/-- COL.RS and COL.AG operations of a context whose descriptor has not been read yet, on any core. -/
def State.colOps (s : State) (asid : Nat) : List Op :=
  (s.cores.map (fun e => if e.2.asid = asid then
    e.2.ops.filter (fun o => (o.fn == .colRs || o.fn == .colAg) && o.stage == .check) else [])).flatten

/-- Those of a group. -/
def State.colOpsOf (s : State) (asid g : Nat) : List Op := (s.colOps asid).filter (fun o => grpOf o.body == g)

/-- OUT (R327): the collectives of a group that have been issued and have no status. -/
def State.colOut (s : State) (asid g : Nat) : Nat := ((s.ctx asid).colsOf g).length + (s.colOpsOf asid g).length

/-- The second word of GRP.STAT (R327). -/
def State.groupWord (s : State) (asid g : Nat) : Nat :=
  let e := (s.ctx asid).groups.get g {}
  e.gen.toNat * 2 ^ 32 + (if e.formed then 2 ^ 30 else 0) + e.dead % 256 * 2 ^ 16 + e.coord * 2 ^ 8 + s.colOut asid g % 256

/-- GRP.STAT (R327): it reads the entry at issue. -/
def execGrpStat (w : RWord) (s : State) : Host.Outcome State Fault Refusal :=
  runVariable .grpStat (.r w) (fun _ => none) (fun e o =>
    let args := [((e.s.ctx e.blk.asid).groups.get (w.fld 21 18) {}).mask, BitVec.ofNat 64 (e.s.groupWord e.blk.asid (w.fld 21 18))]
    { o with dests := e.destRegs, args := args }) s

/-- GRP.STAT complete. -/
def grpStatDone (s : State) (c : Nat) (o : Op) : State :=
  let p := partyWarp o.party
  completeOp s c o (pairWrs p o.body.dIdx (o.arg 0) ++ pairWrs p (o.body.dIdx + 2) (o.arg 1))

/-- An instruction that reads a 64-byte descriptor at issue (R325, R333). -/
def descriptorWord (fn : Fn) (w : RWord) (cond : Env → Bool) (s : State) : Host.Outcome State Fault Refusal :=
  runWhen fn (.r w) (fun e => e.act == 0 || cond e) (whenActive (fun e s =>
    let a := BitVec.ofNat 64 (e.srcA true 0)
    .ok (e.launchHeld s (fun o => { o with dests := e.destRegs, addr := e.active.map (fun l => (l, a)), args := [a] })))) s

def execGrpForm (w : RWord) (s : State) : Host.Outcome State Fault Refusal := descriptorWord .grpForm w (fun _ => true) s

/-- A group descriptor as GRP.FORM accepts it (R325). -/
def parseGroup (self n : Nat) (bs : List Byte) : Option Group :=
  let mask := recNum bs 0 8
  let y := recNum bs 0xC 4
  let dead := bits y 15 8
  if mask.testBit self ∧ mask < 2 ^ n ∧ (dead < n ∨ dead = 0xFF) ∧ y % 256 = 0 ∧ (bs.drop 16).all (fun b => b == 0) then
    some { formed := true, mask := BitVec.ofNat 64 mask, gen := BitVec.ofNat 32 (recNum bs 8 4),
           tout := if bits y 31 16 = 0 then 200 else bits y 31 16, dead, seq := 0 }
  else none

/-- The signal of a collective decremented by 1, as a release at PACKAGE scope (R337); a signal that the context cannot write
is left alone, and one whose page is not there yet gives none, with the package that has asked for it. -/
def State.signalDown (s : State) (c asid a : Nat) : Except State State :=
  match s.walk asid a with
  | .ok leaf base _ =>
    if permits leaf .both false then
      let p := placeOf leaf base a
      let old := leNat (s.readPlace (s.heldBy c leaf) p 8)
      .ok (((s.writePlace (s.heldBy c leaf) p (toLe ((old + 2 ^ 64 - 1) % 2 ^ 64) 8)).l1Drop c
        (match p with
         | .hbm pa => [pa / 64]
         | _ => [])).releasedAt (agentOf c .matrix) 4 8 p true)
    else .ok s
  | .notres _ => .error (s.post asid a (some .both) false [])
  | .migrating _ => .error s
  | .invalid => .ok s

/-! The descriptor of a collective (R333). -/

def Collective.num (x : Collective) (o n : Nat) : Nat := recNum x.desc o n
def Collective.src (x : Collective) : Nat := x.num 0 8
def Collective.dst (x : Collective) : Nat := x.num 8 8
def Collective.shb (x : Collective) : Nat := x.num 0x10 4
def Collective.itype (x : Collective) : Nat := bits (x.num 0x14 4) 31 28
def Collective.otype (x : Collective) : Nat := bits (x.num 0x14 4) 27 24
def Collective.rwbase (x : Collective) : Nat := bits (x.num 0x14 4) 23 16
def Collective.scales (x : Collective) : Nat := x.num 0x18 8
def Collective.goff (x : Collective) : Nat := x.num 0x20 8
def Collective.sig (x : Collective) : Nat := x.num 0x28 8

/-- Whether the fields of a descriptor are valid and its reserved bits are 0. -/
def Collective.valid (x : Collective) (q : Nat) : Bool :=
  decide (x.shb % 64 = 0) && decide (x.shb ≤ 0xFF000) && decide (x.itype ≤ 3) && decide (x.otype ≤ 2) &&
    ((x.itype == 1) == (x.otype == 1)) && decide (x.rwbase + q ≤ 255) && decide (bits (x.num 0x14 4) 15 0 = 0) &&
    (x.desc.drop 0x30).all (fun b => b == 0)

/-! Geometry of a collective. -/

/-- Where package `a` meets package `b`: their shared module, or, when it is the lost one, the module that the relay shares
with `b`, with the head of `a` on the lost line and the relay (R340). -/
def meetOn (q dead a b : Nat) : Option (Nat × Option (Nat × Nat)) :=
  match sharedModule q a b with
  | none => none
  | some m =>
    if m ≠ dead then some (m, none)
    else match relayOf q dead with
      | some c => match sharedModule q c b, headOn q a dead with
        | some m', some j => some (m', some (j, c))
        | _, _ => none
      | none => none

/-- The module on which package `a` meets the coordinator or a peer, and the relay it takes. -/
def viaOf (x : Nat × Option (Nat × Nat)) : Option Nat := x.2.map (·.2)

/-- Whether the package can reach a module now, and whether it waits for a port or a courier on the way. -/
def State.reaches (s : State) (m : Nat) (via : Option Nat := none) : Bool := s.windowGate m via true true == .ok
def State.portWaits (s : State) (m : Nat) (via : Option Nat := none) : Bool := s.windowGate m via true true == .wait

/-- The base of a reduction window. -/
def windowBase (i : Nat) : Nat := 0x2000000 + 0x100000 * i

/-- The windows that a COL.RS arms (R334, R340): module, head, EXPECT. -/
def State.armList (s : State) (g : Group) : List (Nat × Nat × Nat) :=
  let q := s.order
  let p := s.self
  let others := (g.members q).filter (fun k => k != p)
  let relayed := if (headOn q p g.dead).isSome then (others.filter (fun k => (lineOf q g.dead).contains k)).length else 0
  let relayModule := match relayOf q g.dead with
    | some c => sharedModule q c p
    | none => none
  ((List.range (q + 1)).map (fun j =>
    let m := moduleAt q p j
    let here := (others.filter (fun k => (lineOf q m).contains k)).length
    (m, j, here + (if relayModule = some m then relayed else 0)))).filter (fun e =>
      e.1 != g.dead && (s.reaches e.1 || s.portWaits e.1) && decide (0 < e.2.2))

/-- The target buffer and the scale place of head `j` (R334): the scales stand behind the q + 1 target buffers. -/
def Collective.target (x : Collective) (j : Nat) : Nat := x.goff + j * 4 * x.shb / redSize x.itype
def Collective.scalePlace (x : Collective) (q j : Nat) : Nat := x.target (q + 1) + j * (x.shb / 32)

/-- The gather area of head `j` (R334). -/
def Collective.area (x : Collective) (j : Nat) : Nat := x.goff + j * (x.shb + 64)

/-- Whether the context's grants cover what a collective touches (R339). -/
def State.colGranted (s : State) (asid : Nat) (g : Group) (x : Collective) : Bool :=
  let q := s.order
  let ctx := s.ctx asid
  let peers := (g.members q).filter (fun k => k != s.self)
  if x.gather then
    (List.range (q + 1)).all (fun j =>
      let m := moduleAt q s.self j
      m == g.dead || ctx.granted m (x.area j) (x.shb + 64)) &&
    peers.all (fun k => match meetOn q g.dead s.self k with
      | some (m, _) => ctx.granted m (x.area ((headOn q k m).getD 0)) (x.shb + 64)
      | none => true)
  else
    (s.armList g).all (fun e => ctx.granted e.1 (windowBase (x.rwbase + e.2.1)) 0x100000 &&
      ctx.granted e.1 (x.target e.2.1) (4 * x.shb / redSize x.itype) &&
      (x.itype != 3 || ctx.granted e.1 (x.scalePlace q e.2.1) (x.shb / 32))) &&
    peers.all (fun k => match meetOn q g.dead s.self k with
      | some (m, _) => ctx.granted m (windowBase (x.rwbase + (headOn q k m).getD 0)) 0x100000
      | none => true)

/-! Control slots and records (R336). -/

def ctlSlot (g seq : Nat) : Nat := 0x100000 + 0x400 * (64 * g + seq % 64)

/-- A record of 16 bytes: GEN, SEQ, CODE. -/
def colRecord (gen : Word) (seq code : Nat) : List Byte := toLe gen.toNat 4 ++ toLe seq 4 ++ toLe code 8

/-- The CODE of a record that carries this GEN and SEQ. -/
def State.recordCode (s : State) (m off : Nat) (x : Collective) : Option Nat :=
  if s.modNum m off 4 = x.gen.toNat ∧ s.modNum m (off + 4) 4 = x.seq then some (s.modNum m (off + 8) 1) else none

/-- Where the vote of member `k` for coordinator `l` stands (R336, R340). -/
def voteAt (q : Nat) (g : Group) (grp seq k l : Nat) : Option (Nat × Nat) :=
  match meetOn q g.dead k l with
  | some (m, none) => (headOn q k m).map (fun h => (m, ctlSlot grp seq + 64 * h))
  | some (m, some (j, _)) => some (m, ctlSlot grp seq + 0x300 + 16 * j)
  | none => none

/-! Start and end. -/

def State.setCol (s : State) (asid id : Nat) (x : Collective) : State :=
  s.onCtx asid (fun c => { c with cols := c.cols.set id x })

/-- A collective that has its status ends once its signal is decremented (R337); a signal whose page does not come within the bound is
given up (log 148). -/
def State.settleCol (s : State) (asid id : Nat) (x : Collective) (status : Nat) : State :=
  let finish (s : State) : State :=
    s.onCtx asid (fun c => { c with cols := c.cols.del id, bkts := c.bkts.put (x.grp * 256 + x.bkt) status 0 })
  match s.signalDown x.core asid x.sig with
  | .ok t => finish t
  | .error t => if x.since + (s.group asid x.grp).bound ≤ s.ref then finish s else t

/-- The end of a collective on this member with a status (R337). -/
def State.finishCol (s : State) (asid id : Nat) (x : Collective) (status : Nat) : State :=
  let x := { x with stage := .ending status, since := s.ref }
  (s.setCol asid id x).settleCol asid id x status

/-- A member's vote (R336). -/
def State.vote (s : State) (asid col : Nat) (x : Collective) (code : Nat) : State :=
  let g := s.group asid x.grp
  let l := g.coord
  let s := s.setCol asid col { x with stage := .voted code, since := s.ref }
  if s.self = l then s
  else
    match voteAt s.order g x.grp x.seq s.self l with
    | some (m, off) =>
      let via := (meetOn s.order g.dead s.self l).bind viaOf
      if s.reaches m via then s.writeMod m off (colRecord x.gen x.seq code) via else s
    | none => s

/-- The windows of a collective disarmed. -/
def State.disarm (s : State) (x : Collective) : State :=
  x.armed.foldl (fun s e =>
    let base := windowBase e.2
    s.setModNum e.1 (base + 8) 4 (setBits (s.modNum e.1 (base + 8) 4) 26 26 0)) s

/-- GRP.FORM performed (R325), on the descriptor that it read at issue: it waits until every collective issued to the
group has its descriptor, and for the ports to the windows that it disarms, within the bound of the group. -/
def grpFormPerform (s : State) (c : Nat) (o : Op) (w : RWord) : State :=
  let asid := (s.core c).asid
  let g := w.fld 21 18
  let fin (s : State) (st : Nat) : State := completeOp s c o [.s (partyWarp o.party) o.body.dIdx (BitVec.ofNat 32 st)]
  let late := decide (o.born + (s.group asid g).bound ≤ s.ref)
  match parseGroup s.self (podN s.order) o.bytes with
  | none => fin s 0x0E
  | some e =>
    let live := ((s.ctx asid).colsOf g).filter (fun y => match y.2.stage with
      | .ending _ => false
      | _ => true)
    if !(s.colOpsOf asid g).isEmpty || (live.any (fun y => y.2.armed.any (fun b => s.portWaits b.1)) && !late) then s
    else
      let s := live.foldl (fun s y => (s.disarm y.2).finishCol asid y.1 y.2 0x05) s
      fin (s.setGroup asid g e) 0

/-- A collective is issuable while fewer than 64 of its group are outstanding (R333). -/
def Env.colRoom (e : Env) (g : Nat) : Bool :=
  decide (e.s.colOut e.blk.asid g < 64)

def execColRs (w : RWord) (s : State) : Host.Outcome State Fault Refusal :=
  descriptorWord .colRs w (fun e => e.colRoom (w.fld 21 18)) s
def execColAg (w : RWord) (s : State) : Host.Outcome State Fault Refusal :=
  descriptorWord .colAg w (fun e => e.colRoom (w.fld 21 18)) s

/-- The descriptor line that arms the window of head `j` for a COL.RS. -/
def Collective.armLine (x : Collective) (q j expect : Nat) : List Byte :=
  toLe x.seq 4 ++ toLe x.gen.toNat 4 ++ toLe (x.itype + expect * 2 ^ 8 + 2 ^ 26) 4 ++ toLe 0 4 ++
    toLe (x.target j) 8 ++ toLe x.shb 4 ++ toLe 0 4 ++ toLe (x.scalePlace q j) 8 ++ List.replicate 24 0

/-- The windows of a COL.RS armed (R334), `sc` being the scales of its own shard, placed first: none where a module refuses. -/
def State.armAll (s : State) (g : Group) (x : Collective) (sc : List Byte) : Option (State × List (Nat × Nat)) :=
  (s.armList g).foldl (fun acc e => match acc with
    | none => none
    | some (t, xs) =>
      let placed := if x.itype = 3 then t.moduleWrite e.1 (x.scalePlace s.order e.2.1) sc else some t
      match placed.bind (fun t => t.moduleStore e.1 (windowBase (x.rwbase + e.2.1)) (x.armLine s.order e.2.1 e.2.2)) with
      | some t => some (t, xs ++ [(e.1, x.rwbase + e.2.1)])
      | none => none) (some (s, []))

/-- The checks of a descriptor that was read at issue end (R325, R333). GRP.FORM keeps it. A COL.RS or COL.AG takes GEN and SEQ of its
group, in the order of issue, and becomes a collective; one that cannot run ends with its status. -/
def descriptorTaken (s : State) (c : Nat) (o : Op) (w : RWord) : State :=
  let asid := (s.core c).asid
  let bs := (s.rangeBytes c asid (o.arg 0).toNat 64).getD []
  if o.fn = .grpForm then s.setOp c { o with bytes := bs }
  else
    let grp := w.fld 21 18
    let g := s.group asid grp
    let id := (s.ctx asid).nextCol
    let x : Collective := { core := c, grp, bkt := w.fld 15 8, gather := o.fn == .colAg, gen := g.gen, seq := g.seq,
                            desc := bs, since := s.ref, party := o.party, op := o.id }
    let s := (s.setGroup asid grp { g with seq := (g.seq + 1) % 2 ^ 32 }).setOp c { o with pos := id }
    let s := s.onCtx asid (fun y => { y with nextCol := id + 1 })
    if !g.formed || !g.mask.getLsbD s.self then s.finishCol asid id x 0x07
    else if !x.valid s.order then s.finishCol asid id x 0x0E
    else if !s.colGranted asid g x then s.finishCol asid id x 0x0D
    else s.setCol asid id x

/-- The end of the checks of a word that reads a descriptor: the split is held until the read is performed, in the order of R285. -/
def descriptorCheckEnd (s : State) (c : Nat) (o : Op) (w : RWord) : State :=
  let t := memCheckEnd s c o
  match (t.core c).findOp o.id with
  | some o' =>
    if o'.stage ≠ .go then t
    else if !s.mayPerform c o || (o.fn != .grpForm && (s.colOps (s.core c).asid).any (fun e => decide (e.id < o.id))) then s
    else descriptorTaken t c o' w
  | none => t

/-- A COL.RS or COL.AG starts (R334): a COL.RS arms its windows, once their ports are up and the scales can be read; a wait past the
bound votes ABORT. The instruction completes when its collective has started or has ended. -/
def collectiveStart (s : State) (c : Nat) (o : Op) : State :=
  let asid := (s.core c).asid
  let s' := completeOp s c o []
  match (s.ctx asid).cols.find o.pos with
  | none => s'
  | some x =>
    let g := s.group asid x.grp
    let late := decide (x.since + g.bound ≤ s.ref)
    let run (s : State) (armed : List (Nat × Nat)) : State := s.setCol asid o.pos { x with stage := .run, armed, since := s.ref }
    if x.stage ≠ .start then s'
    else if x.gather then run s' []
    else if (s.armList g).any (fun e => s.portWaits e.1) then (if late then s'.vote asid o.pos x 3 else s)
    else
      let n := x.shb / 32
      let a := (x.scales + s.self * n) % 2 ^ 64
      let ask := if x.itype = 3 then s.rangeAsk asid a n .read else (false, s)
      if ask.1 then (if late then s'.vote asid o.pos x 3 else ask.2)
      else
        match (if x.itype = 3 then s.rangeBytes x.core asid a n else some []) with
        | none => s'.vote asid o.pos x 3
        | some sc =>
          match s'.armAll g x sc with
          | some r => run r.1 r.2
          | none => s'.finishCol asid o.pos x 0x0D

/-! The steps of a collective (R334). -/

/-- A shard as it goes to a window: E4M3 codes are quantised again under the agreed scales (R140); whether one saturated. -/
def quantShard (bs scales : List Byte) : List Byte × Bool :=
  bs.zipIdx.foldl (fun acc e =>
    let sc := ((scales[e.2 / 32]?).getD 0).toNat
    let r := convOne 11 0 false true (scaleDown (decodeF (fmtOf 11) e.1.toNat) sc) 0
    (acc.1 ++ [BitVec.ofNat 8 r.val], acc.2 || (r.fl &&& (fQSAT ||| fSAT)) != 0)) ([], false)

/-- Shard `k` of a COL.RS as its target gets it; none while its memory cannot be read. -/
def State.shard (s : State) (asid : Nat) (x : Collective) (k : Nat) : Option (List Byte × Bool) :=
  match s.rangeBytes x.core asid ((x.src + k * x.shb) % 2 ^ 64) x.shb with
  | none => none
  | some bs =>
    if x.itype = 3 then
      match s.rangeBytes x.core asid ((x.scales + k * (x.shb / 32)) % 2 ^ 64) (x.shb / 32) with
      | some sc => some (quantShard bs sc)
      | none => none
    else some (bs, false)

/-- Requests for the pages that a collective reads for shard `k`. -/
def State.shardAsk (s : State) (asid : Nat) (x : Collective) (k : Nat) : State :=
  let s := (s.rangeAsk asid ((x.src + (if x.gather then 0 else k * x.shb)) % 2 ^ 64) x.shb .read).2
  if x.itype = 3 ∧ !x.gather then (s.rangeAsk asid ((x.scales + k * (x.shb / 32)) % 2 ^ 64) (x.shb / 32) .read).2 else s

/-- Chunks of 64 bytes. -/
def chunks64 (bs : List Byte) : List (List Byte) := (List.range ((bs.length + 63) / 64)).map (fun i => (bs.drop (64 * i)).take 64)

/-- The modules of a member's line that a collective of its group uses. -/
def State.liveModules (s : State) (g : Group) : List (Nat × Nat) :=
  ((List.range (s.order + 1)).map (fun j => (j, moduleAt s.order s.self j))).filter (fun e => e.2 != g.dead)

/-- A member's own part of a COL.AG: its shard on each of its live modules, then the flag record (R334). -/
def State.spread (s : State) (g : Group) (x : Collective) (bs : List Byte) : State :=
  (s.liveModules g).foldl (fun s e =>
    if s.reaches e.2 then (s.writeMod e.2 (x.area e.1) bs).writeMod e.2 (x.area e.1 + x.shb) (colRecord x.gen x.seq 1) else s) s

/-- COLLECTIVE_CONTRIBUTE (R334): for a COL.RS, once the peer's window carries this collective's GEN and SEQ, its shard and an
arrival; for a COL.AG the peer is the member itself, and its flags, which are releases, come after what the issuing stream did before
it. -/
def execCollectiveContribute (asid col peer : Nat) (s : State) : Host.Outcome State Fault Refusal :=
  match (s.ctx asid).cols.find col with
  | none => .next s
  | some x =>
    let q := s.order
    let g := s.group asid x.grp
    if x.stage ≠ .run ∨ x.done.getLsbD peer ∨ !g.mask.getLsbD peer ∨ (x.gather ∧ peer ≠ s.self) ∨ (!x.gather ∧ peer = s.self) then
      .next s
    else if x.gather then
      if !(s.core x.core).releaseReady x.party x.op || (s.liveModules g).any (fun e => s.portWaits e.2) then .next s
      else
        match s.rangeBytes x.core asid x.src x.shb with
        | none => done (s.shardAsk asid x peer)
        | some bs => done ((s.spread g x bs).setCol asid col { x with done := putBit x.done peer true, since := s.ref })
    else
      match meetOn q g.dead s.self peer with
      | none => .next s
      | some y =>
        let m := y.1
        let base := windowBase (x.rwbase + (headOn q peer m).getD 0)
        if !s.reaches m (viaOf y) || s.modNum m base 4 != x.seq || s.modNum m (base + 4) 4 != x.gen.toNat ||
            !bit (s.modNum m (base + 8) 4) 26 then .next s
        else
          match s.shard asid x peer with
          | none => done (s.shardAsk asid x peer)
          | some (bs, ovf) =>
            let s := s.redSend m (viaOf y) base (base + 0x1000) (chunks64 bs) (some (arrivalBytes x.seq x.gen.toNat ovf))
            done (s.setCol asid col { x with done := putBit x.done peer true, since := s.ref })

/-- The sum of R334 for an element: the own one widened exactly, then each partial in the order in which its DONE was seen; in OTYPE. -/
def sumElem (ty oty x scale : Nat) (parts : List Nat) : List Byte :=
  if ty = 1 then toLe (parts.foldl (fun acc p => (acc + p) % 2 ^ 32) x) 4
  else
    let acc := parts.foldl (fun acc p => addRN acc (decodeF (fmtOf 8) p)) (redWiden ty x scale)
    if oty = 2 then toLe (convOne 10 0 false false acc 0).val 2 else toLe (enc32 acc) 4

/-- The reduced shard of a member. -/
def sumShard (s : State) (x : Collective) (own scales : List Byte) : List Byte :=
  let es := redSize x.itype
  ((List.range (x.shb / es)).map (fun i =>
    sumElem x.itype x.otype (leNat ((own.drop (es * i)).take es)) ((scales[i / 32]?).getD 0).toNat
      (x.seen.map (fun e => s.modNum e.1 (x.target (e.2 - x.rwbase) + 4 * i) 4)))).flatten

/-- A COL.RS once every window it armed is DONE: the sum, DST, the vote. -/
def State.reduceOut (s : State) (asid col : Nat) (x : Collective) : State :=
  match s.shard asid x s.self with
  | none => s.shardAsk asid x s.self
  | some (own, ovf) =>
    let scales := if x.itype = 3 then
        (s.rangeBytes x.core asid ((x.scales + s.self * (x.shb / 32)) % 2 ^ 64) (x.shb / 32)).getD []
      else []
    let out := sumShard s x own scales
    let ask := s.rangeAsk asid x.dst out.length .write
    if ask.1 then ask.2
    else
      match s.rangeWrite x.core asid x.dst out with
      | none => s.vote asid col x 3
      | some t =>
        let anyOvf := ovf || x.armed.any (fun e => bit (s.modNum e.1 (windowBase e.2 + 8) 4) 25)
        t.vote asid col { x with ovf := anyOvf } (if anyOvf then 2 else 1)

/-- The shard of member `k` in a COL.AG, once its flag record carries this GEN and SEQ (R334, R340). -/
def State.shardOf (s : State) (asid : Nat) (g : Group) (x : Collective) (k : Nat) : Option (List Byte) :=
  if k = s.self then s.rangeBytes x.core asid x.src x.shb
  else
    match meetOn s.order g.dead s.self k with
    | some y => match headOn s.order k y.1 with
      | some h =>
        if s.reaches y.1 (viaOf y) ∧ s.recordCode y.1 (x.area h + x.shb) x = some 1 then some (s.modBytes y.1 (x.area h) x.shb) else none
      | none => none
    | none => none

/-- A COL.AG once every flag has been seen: DST in member order, the vote. -/
def State.gatherOut (s : State) (asid col : Nat) (g : Group) (x : Collective) : Option State :=
  let ks := g.members s.order
  if ks.all (fun k => (s.shardOf asid g x k).isSome) then
    let asks := ks.foldl (fun acc k => let r := acc.2.rangeAsk asid ((x.dst + k * x.shb) % 2 ^ 64) x.shb .write
                                       (acc.1 || r.1, r.2)) (false, s)
    if asks.1 then some asks.2
    else
      let t := ks.foldl (fun acc k => match acc with
        | some t => t.rangeWrite x.core asid ((x.dst + k * x.shb) % 2 ^ 64) ((s.shardOf asid g x k).getD [])
        | none => none) (some s)
      match t with
      | some t => some ((t.l1Clear x.core).vote asid col x 1)
      | none => some (s.vote asid col x 3)
  else none

/-- COLLECTIVE_GATHER (R334): the windows found DONE are noted in order; when all are, the result is written and the member
votes. A wait that has passed TOUT votes ABORT. -/
def execCollectiveGather (asid col : Nat) (s : State) : Host.Outcome State Fault Refusal :=
  match (s.ctx asid).cols.find col with
  | none => .next s
  | some x =>
    let g := s.group asid x.grp
    if x.stage ≠ .run then .next s
    else
      let late := decide (x.since + g.bound ≤ s.ref)
      if x.gather then
        match (if x.done.getLsbD s.self then s.gatherOut asid col g x else none) with
        | some t => done t
        | none => if late then done (s.vote asid col x 3) else .next s
      else
        let fresh := x.armed.filter (fun e => !x.seen.contains e && s.reaches e.1 && bit (s.modNum e.1 (windowBase e.2 + 8) 4) 24)
        let x := { x with seen := x.seen ++ fresh }
        let all := (g.members s.order).all (fun k => k == s.self || x.done.getLsbD k) && decide (x.seen.length = x.armed.length)
        if all then done (s.reduceOut asid col x)
        else if late then done (s.vote asid col x 3)
        else done (s.setCol asid col x)

/-- The vote of a member as the coordinator finds it (R336): one severed from it has voted on the module that it shares with the
relay. -/
def State.voteOf (s : State) (asid : Nat) (x : Collective) (k : Nat) : Option Nat :=
  let g := s.group asid x.grp
  if k = s.self then (match x.stage with
    | .voted c => some c
    | _ => none)
  else
    match voteAt s.order g x.grp x.seq k s.self with
    | some (m, off) => if s.reaches m then (s.recordCode m off x).filter (fun c => c != 0) else none
    | none => none

/-- What the coordinator decides from the votes (R336), as a status. -/
def decide336 (votes : List (Option Nat)) : Nat :=
  if votes.all (fun v => v == some 1) then 0x00
  else if votes.all (fun v => v == some 1 || v == some 2) then 0x04
  else 0x03

/-- The CODE of a decision record (log 149): 1, 2 and 3 as the votes have them, so that an unwritten slot holds none. -/
def decisionCode (status : Nat) : Nat := if status = 0x00 then 1 else if status = 0x04 then 2 else 3
def decisionStatus (code : Nat) : Option Nat := match code with
  | 1 => some 0x00
  | 2 => some 0x04
  | 3 => some 0x03
  | _ => none

/-- COLLECTIVE_DECISION (R336); with `expired`, the coordinator has waited TOUT after its own vote. -/
def execCollectiveDecision (asid col : Nat) (expired : Bool) (s : State) : Host.Outcome State Fault Refusal :=
  match (s.ctx asid).cols.find col with
  | none => .next s
  | some x =>
    let g := s.group asid x.grp
    let late := decide (x.since + g.bound ≤ s.ref)
    match x.stage with
    | .run => if expired && late then done (s.vote asid col x 3) else .next s
    | .voted _ =>
      let votes := (g.members s.order).map (s.voteOf asid x)
      if s.self ≠ g.coord ∨ !(if expired then late else votes.all Option.isSome) then .next s
      else
        let code := decide336 votes
        let s := (s.liveModules g).foldl (fun s e =>
          if s.order = 0 ∨ !s.reaches e.2 then s
          else s.writeMod e.2 (ctlSlot x.grp x.seq + 0x200) (colRecord x.gen x.seq (decisionCode code))) s
        done (s.setCol asid col { x with stage := .decided code })
    | _ => .next s

/-- COLLECTIVE_STATUS (R336, R337); with `expired`, twice TOUT have passed since the vote and no decision has come. -/
def execCollectiveStatus (asid col : Nat) (expired : Bool) (s : State) : Host.Outcome State Fault Refusal :=
  match (s.ctx asid).cols.find col with
  | none => .next s
  | some x =>
    let g := s.group asid x.grp
    match x.stage with
    | .start => .next s
    | .run => if expired && decide (x.since + g.bound ≤ s.ref) then done (s.vote asid col x 3) else .next s
    | .decided code => done (s.finishCol asid col x code)
    | .ending code => done (s.settleCol asid col x code)
    | .voted _ =>
      if s.self = g.coord then .next s
      else
        let got := match meetOn s.order g.dead s.self g.coord with
          | some y => if s.reaches y.1 (viaOf y) then s.recordCode y.1 (ctlSlot x.grp x.seq + 0x200) x else none
          | none => none
        match got.bind decisionStatus with
        | some code => done (s.finishCol asid col x code)
        | none => if expired && decide (x.since + 2 * g.bound ≤ s.ref) then done (s.finishCol asid col x 0x06) else .next s

/-- COL.WAIT (R337): not issuable while a collective of its bucket has no status. -/
def execColWait (w : RWord) (s : State) : Host.Outcome State Fault Refusal :=
  let g := w.fld 21 18
  let b := w.fld 15 8
  runWhen .colWait (.r w) (fun e => e.act == 0 ||
      (((e.s.ctx e.blk.asid).colsOf g).all (fun y => y.2.bkt != b) &&
       (e.s.colOpsOf e.blk.asid g).all (fun o => match o.body with
          | .r v => v.fld 15 8 != b
          | _ => true)))
    (whenActive (fun e s => .ok (e.launchOp s .go (fun o =>
      { o with dests := e.destRegs,
               args := [BitVec.ofNat 64 ((e.s.ctx e.blk.asid).bkts.get (g * 256 + b) 0)] })))) s

/-- COL.WAIT complete, as an acquire at POD scope. -/
def colWaitDone (s : State) (c : Nat) (o : Op) : State :=
  completeOp (s.l1Clear c) c o [.s (partyWarp o.party) o.body.dIdx ((o.arg 0).setWidth 32)]

end Sys2Proof.Machine
end

