-- ==== Sys2Proof/Machine/Packed.lean ====
section
/-! DEFINITION. Packed integer instructions (R165 to R169): dot products, element-wise arithmetic, rounding and
saturating shifts. -/

namespace Sys2Proof.Machine

/-- An element read as signed or natural (R167). -/
def extElem (w : Nat) (sg : Bool) (x : Nat) : Int := if sg then sgn w x else ((x % 2 ^ w : Nat) : Int)

/-- The exact sum of products of `n` elements of width `w` (R167). -/
def dotSum (w : Nat) (sga sgb : Bool) (a b n : Nat) : Int :=
  (List.range n).foldl (fun acc i => acc + extElem w sga (elem w a i) * extElem w sgb (elem w b i)) 0

/-- A packed dot product (R167). -/
def dotWord (fn : Fn) (w : RWord) (s : State) : Host.Outcome State Fault Refusal :=
  let ew := tyWidth w.ty
  runFixed fn (.r w) (fun _ => 6)
    (fun e => firstTrap [tagTrap 0 1 e.sourcesD, tagTrap 1 (tagOf w.ty) e.sourcesA, tagTrap 2 (tagOf w.ty) e.sourcesB,
      e.badCheck])
    (fun e =>
      let r (l : Nat) : Nat × Nat := deliverSat 0 32 (w.mb 14)
        (sgn 32 (e.srcD false l) + dotSum ew (w.mb 1) (w.mb 0) (e.srcA false l) (e.srcB false l) (32 / ew))
      e.vecWr false w.d.toNat 1 (fun l => (r l).1) ++ e.flagWr (e.lanesFlags (fun l => (r l).2))) s

def execDot4 (w : RWord) (s : State) : Host.Outcome State Fault Refusal := dotWord .dot4 w s
def execDot8 (w : RWord) (s : State) : Host.Outcome State Fault Refusal := dotWord .dot8 w s
def execDot2 (w : RWord) (s : State) : Host.Outcome State Fault Refusal := dotWord .dot2 w s

/-- An element-wise packed integer word (R168). -/
def packedInt (fn : Fn) (w : RWord) (f : Int → Int → Int) (s : State) : Host.Outcome State Fault Refusal :=
  let ew := tyWidth w.ty
  fltR fn w 4 (fun a b _ => deliverSat w.ty ew (w.mb 14) (f (intVal w.ty ew a) (intVal w.ty ew b))) s

def execPadd (w : RWord) (s : State) : Host.Outcome State Fault Refusal := packedInt .padd w (fun a b => a + b) s
def execPsub (w : RWord) (s : State) : Host.Outcome State Fault Refusal := packedInt .psub w (fun a b => a - b) s
def execPmin (w : RWord) (s : State) : Host.Outcome State Fault Refusal :=
  packedInt .pmin w (fun a b => if a ≤ b then a else b) s
def execPmax (w : RWord) (s : State) : Host.Outcome State Fault Refusal :=
  packedInt .pmax w (fun a b => if a ≤ b then b else a) s

/-- x / 2^n rounded once to an integer (R169); a count above 33 acts as 33. -/
def shiftRound (mode : RMode) (x : Int) (n : Nat) : Int :=
  let n := if n < 33 then n else 33
  signed (decide (x < 0)) (roundInt mode (decide (x < 0)) x.natAbs (-(n : Int))).1

/-- SHR.RND (R169): the count is a tagged source too, read as N32 (R82). -/
def execShrRnd (w : RWord) (s : State) : Host.Outcome State Fault Refusal :=
  runFixed .shrRnd (.r w) (fun _ => 6) (fun e => firstTrap [tagTrap 1 1 e.sourcesA, tagTrap 2 1 e.sourcesB, e.badCheck])
    (fun e => e.vecWr false w.d.toNat (tagOf w.ty)
      (fun l => wrapInt 32 (shiftRound (rndOf w) (intVal w.ty 32 (e.srcA false l)) (e.srcB false l)))) s

/-- SHR.RND# (R169): RN. -/
def execShrRndImm (w : IWord) (s : State) : Host.Outcome State Fault Refusal :=
  let ty := w.modi.toNat
  runFixed .shrRndImm (.i w) (fun _ => 6) (fun e => firstTrap [tagTrap 1 1 e.sourcesA, e.badCheck])
    (fun e => e.vecWr false w.d.toNat (tagOf ty)
      (fun l => wrapInt 32 (shiftRound .rn (intVal ty 32 (e.wp.lane false w.a.toNat l)) w.imm.toNat))) s

/-- SHR.SAT (R169): clamped to TYPE, in element DSEL. -/
def execShrSat (w : RWord) (s : State) : Host.Outcome State Fault Refusal :=
  let ew := tyWidth w.ty
  runFixed .shrSat (.r w) (fun _ => 6) (fun e => firstTrap [tagTrap 1 1 e.sourcesA, tagTrap 2 1 e.sourcesB, e.badCheck])
    (fun e =>
      let r (l : Nat) : Nat × Nat :=
        deliverSat w.ty ew true (shiftRound (rndOf w) (intVal w.ty 32 (e.srcA false l)) (e.srcB false l))
      e.vecWr false w.d.toNat (tagOf w.ty) (fun l => (r l).1 * 2 ^ (ew * w.fld 9 7)) ++
        e.flagWr (e.lanesFlags (fun l => (r l).2))) s

end Sys2Proof.Machine
end

