-- ==== Sys2Proof/Machine/CrossLane.lean ====
section
/-! DEFINITION. Cross-lane instructions (R170 to R175): slides, shuffles and broadcasts, reductions and scans, and top-k
lists. Source lanes are read whatever their mask bits (R174). -/

namespace Sys2Proof.Machine

/-- The poison check of a source of which the lanes `xs` are read (R375). -/
def badLanes (xs : List Nat) (rs : List VReg) : Option Trap := badTrap (lanesOf xs) 3 rs

/-- The poison check of a source viewed as one vector of elements of width `ew`, of which the elements `ks` are read: only the
halves in which they stand count (R375). -/
def badElems (ew : Nat) (ks : List Nat) (rs : List VReg) : Option Trap :=
  let per := 32 / ew
  let half (h : Nat) : Lanes := lanesOf ((ks.filter (fun k => (halvesUsed ew (k % per) 1).testBit h)).map (· / per))
  firstTrap [badTrap (half 0) 1 rs, badTrap (half 1) 2 rs]

/-! SLIDE (R170). -/

/-- Element `k` of the vector that SLIDE reads, by FILL; `a` and `c` give an element of A and of C. -/
def slideSrc (tn fill : Nat) (a c : Nat → Nat) (k : Int) : Nat :=
  if 0 ≤ k ∧ k < tn then a k.toNat
  else if fill = 0 then 0
  else if fill = 1 then (if k < 0 then a 0 else a (tn - 1))
  else if 0 ≤ k - tn ∧ k - tn < tn then c (k - tn).toNat
  else if 0 ≤ k + tn ∧ k + tn < tn then c (k + tn).toNat
  else 0

/-- What SLIDE writes in lane `l` for a count `n` (R170). -/
def slideLane (ew tn fill : Nat) (a c : Nat → Nat) (n : Int) (l : Nat) : Nat :=
  let per := 32 / ew
  (eachElem ew (fun i => (slideSrc tn fill a c ((l * per + i : Nat) + n), 0)) per).1

/-- The elements of A, or of C, that SLIDE reads for the active lanes. -/
def slideElems (ew tn fill : Nat) (ofC : Bool) (n : Int) (act : List Nat) : List Nat :=
  let per := 32 / ew
  (act.map (fun l => (List.range per).filterMap (fun i =>
    let k : Int := ((l * per + i : Nat) : Int) + n
    let inA := decide (0 ≤ k ∧ k < tn)
    if ofC then
      (if inA || fill != 2 then none
       else if 0 ≤ k - tn ∧ k - tn < tn then some (k - tn).toNat
       else if 0 ≤ k + tn ∧ k + tn < tn then some (k + tn).toNat else none)
    else if inA then some k.toNat
    else if fill = 1 then some (if k < 0 then 0 else tn - 1) else none))).flatten

/-- A slide of the lanes that `src` reads of A. -/
def slideWord (fn : Fn) (body : Body) (ty fill c d : Nat) (count : Env → Int) (src : Env → Nat → Nat) (s : State) :
    Host.Outcome State Fault Refusal :=
  let ew := tyWidth ty
  let per := 32 / ew
  runFixed fn body (fun _ => 8)
    (fun e =>
      let tn := e.width * per
      let cs := if fill = 2 then [e.wp.vreg c] else []
      firstTrap [tagTrap 1 (tagOf ty) e.sourcesA, tagTrap 3 (tagOf ty) cs,
        badElems ew (slideElems ew tn fill false (count e) e.active) e.sourcesA,
        badElems ew (slideElems ew tn fill true (count e) e.active) cs])
    (fun e =>
      let a (j : Nat) : Nat := elem ew (src e (j / per)) (j % per)
      let f (j : Nat) : Nat := elem ew (e.wp.lane false c (j / per)) (j % per)
      e.vecWr false d (tagOf ty) (slideLane ew (e.width * per) fill a f (count e))) s

def execSlide (w : RWord) (s : State) : Host.Outcome State Fault Refusal :=
  slideWord .slide (.r w) w.ty (w.fld 13 12) (w.fld 9 0) w.d.toNat (fun e => sgn 32 (e.srcB false 0))
    (fun e l => e.srcA false l) s

def execSlideImm (w : IWord) (s : State) : Host.Outcome State Fault Refusal :=
  slideWord .slideImm (.i w) w.modi.toNat 0 0 w.d.toNat (fun _ => w.imm.toInt) (fun e l => e.wp.lane false w.a.toNat l) s

/-! SHFL and BCAST (R171). -/

/-- The lane that lane `l` of a SHFL reads under control word `b`. -/
def shflLane (width b l : Nat) : Nat :=
  let k := bits b 5 0
  match bits b 9 8 with
  | 0 => k % width
  | 1 => if k ≤ l then l - k else l
  | 2 => if l + k < width then l + k else l
  | _ => let x := l ^^^ (k % width); if x < width then x else l

/-- A SHFL with its control word by lane, of which bits 9 to 0 are read (R171). -/
def shflWord (fn : Fn) (body : Body) (ty d : Nat) (ctl : Env → Nat → Nat) (src : Env → Nat → Nat) (s : State) :
    Host.Outcome State Fault Refusal :=
  runFixed fn body (fun _ => 8)
    (fun e => firstTrap [tagTrap 1 (tagOf ty) e.sourcesA,
      badLanes (e.active.map (fun l => shflLane e.width (ctl e l) l)) e.sourcesA, badTrap e.act 1 e.sourcesB])
    (fun e => e.vecWr false d (tagOf ty) (fun l => src e (shflLane e.width (ctl e l) l))) s

def execShfl (w : RWord) (s : State) : Host.Outcome State Fault Refusal :=
  shflWord .shfl (.r w) w.ty w.d.toNat (fun e l => e.srcB false l) (fun e l => e.srcA false l) s

def execShflImm (w : IWord) (s : State) : Host.Outcome State Fault Refusal :=
  shflWord .shflImm (.i w) w.modi.toNat w.d.toNat (fun _ _ => w.imm.toNat) (fun e l => e.wp.lane false w.a.toNat l) s

/-- BCAST (R171): the lane B mod W of A, or one element of it. -/
def execBcast (w : RWord) (s : State) : Host.Outcome State Fault Refusal :=
  let ew := tyWidth w.ty
  runFixed .bcast (.r w) (fun _ => 8)
    (fun e =>
      let l := e.srcB false 0 % e.width
      firstTrap [tagTrap 1 (tagOf w.ty) e.sourcesA,
        if w.mb 3 then badElems ew [l * (32 / ew) + w.fld 2 0] e.sourcesA else badLanes [l] e.sourcesA])
    (fun e =>
      let x := e.srcA false (e.srcB false 0 % e.width)
      let y := if w.mb 3 then (eachElem ew (fun _ => (elem ew x (w.fld 2 0), 0)) (32 / ew)).1 else x
      e.vecWr false w.d.toNat (tagOf w.ty) (fun _ => y)) s

/-! Reductions and scans (R172, R173). -/

/-- A value with the flags raised on the way to it. -/
abbrev Node := Nat × Nat

/-- The node of two values under OP; integer ADD is not formed by nodes. -/
def combNode (ty op : Nat) (mode : RMode) (sat : Bool) (x y : Node) : Node :=
  let w := tyWidth ty
  let f := fmtOf ty
  let lt := decide (intVal ty w x.1 < intVal ty w y.1)
  let r : Nat × Nat := match op with
    | 0 => addF f mode sat x.1 y.1
    | 1 => if tyFloat ty then minMaxF f false false x.1 y.1 else (if lt then x.1 else y.1, 0)
    | 2 => if tyFloat ty then minMaxF f true false x.1 y.1 else (if lt then y.1 else x.1, 0)
    | 3 => (x.1 &&& y.1, 0)
    | 4 => (x.1 ||| y.1, 0)
    | _ => (x.1 ^^^ y.1, 0)
  (r.1, x.2 ||| y.2 ||| r.2)

/-- A node with a side that may be EMPTY. -/
def combEmpty (f : Node → Node → Node) (x y : Option Node) : Option Node :=
  match x, y with
  | none, y => y
  | x, none => x
  | some a, some b => some (f a b)

/-- One level of the tree over adjacent lanes. -/
def treeLevel (f : Node → Node → Node) : List (Option Node) → List (Option Node)
  | a :: b :: xs => combEmpty f a b :: treeLevel f xs
  | xs => xs

/-- The root of the tree over `2^n` leaves. -/
def treeRoot (f : Node → Node → Node) : Nat → List (Option Node) → Option Node
  | 0, xs => (xs.head?).join
  | n + 1, xs => treeRoot f n (treeLevel f xs)

/-- RED of one element position: `leaves` has every lane's element, none where it is not active. -/
def redElem (ty op : Nat) (mode : RMode) (sat : Bool) (leaves : List (Option Nat)) : Node :=
  let w := tyWidth ty
  if op = 0 ∧ ¬ tyFloat ty then
    deliverSat ty w sat (leaves.foldl (fun acc x => match x with
      | some v => acc + intVal ty w v
      | none => acc) 0)
  else
    (treeRoot (combNode ty op mode sat) (leaves.length.log2) (leaves.map (fun x => x.map (fun v => (v, 0))))).getD (0, 0)

/-- RED (R172). -/
def execRed (w : RWord) (s : State) : Host.Outcome State Fault Refusal :=
  let ew := tyWidth w.ty
  runFixed .red (.r w) xredLat (fun e => firstTrap [tagTrap 1 (tagOf w.ty) e.sourcesA, e.badCheck]) (fun e =>
    let r := eachElem ew (fun i => redElem w.ty (w.fld 2 0) (rndOf w) (w.mb 14) (e.lanes.map (fun l =>
      if e.act.getLsbD l then some (elem ew (e.srcA false l) i) else none))) (32 / ew)
    e.vecWr false w.d.toNat (tagOf w.ty) (fun _ => r.1) ++ e.flagWr r.2) s

/-- The running values of a chain. -/
def chain {α : Type} (f : α → α → α) : Option α → List α → List α
  | _, [] => []
  | none, x :: xs => x :: chain f (some x) xs
  | some a, x :: xs => f a x :: chain f (some (f a x)) xs

/-- The identity of an exclusive scan (R173). -/
def scanIdentity (ty op : Nat) : Nat :=
  let w := tyWidth ty
  let inf (neg : Bool) : Nat := signBit (fmtOf ty) neg + infCode (fmtOf ty)
  match op with
  | 1 => if tyFloat ty then inf false else wrapInt w (rangeHi ty w)
  | 2 => if tyFloat ty then inf true else wrapInt w (rangeLo ty w)
  | 3 => 2 ^ w - 1
  | _ => 0

/-- SCAN of one element position over the active lanes' elements: the outputs, in order, and the flags. -/
def scanElem (ty op : Nat) (mode : RMode) (sat excl : Bool) (xs : List Nat) : List Nat × Nat :=
  let w := tyWidth ty
  let shift (ys : List Nat) : List Nat := if excl then (scanIdentity ty op :: ys).take xs.length else ys
  if op = 0 ∧ ¬ tyFloat ty then
    let sums := chain (· + ·) none (xs.map (intVal ty w))
    let sums := if excl then ((0 : Int) :: sums).take xs.length else sums
    let rs := sums.map (deliverSat ty w sat)
    (rs.map (·.1), rs.foldl (fun acc r => acc ||| r.2) 0)
  else
    let ns := chain (combNode ty op mode sat) none (xs.map (fun v => (v, 0)))
    (shift (ns.map (·.1)), ns.foldl (fun acc r => acc ||| r.2) 0)

/-- SCAN (R173). -/
def execScan (w : RWord) (s : State) : Host.Outcome State Fault Refusal :=
  let ew := tyWidth w.ty
  runFixed .scan (.r w) xredLat (fun e => firstTrap [tagTrap 1 (tagOf w.ty) e.sourcesA, e.badCheck]) (fun e =>
    let cols := (List.range (32 / ew)).map (fun i => scanElem w.ty (w.fld 2 0) (rndOf w) (w.mb 14) (w.mb 3)
      (e.active.map (fun l => elem ew (e.srcA false l) i)))
    let out (j : Nat) : Nat := (eachElem ew (fun i => ((((cols[i]?).getD ([], 0)).1[j]?).getD 0, 0)) (32 / ew)).1
    let fl := cols.foldl (fun acc c => acc ||| c.2) 0
    [.v e.w w.d.toNat (e.active.zipIdx.map (fun x => (x.1, BitVec.ofNat 32 (out x.2)))) (tagOf w.ty)] ++ e.flagWr fl) s

/-! Top-k lists (R175). -/

/-- The worst value that TOPK.CLR writes. -/
def topkWorst (ty : Nat) (min : Bool) : Nat :=
  match ty with
  | 8 => if min then 0x7F800000 else 0xFF800000
  | 0 => if min then 0x7FFFFFFF else 0x80000000
  | _ => if min then 0xFFFFFFFF else 0

/-- Whether candidate `c` goes before value `v`. -/
def topkBetter (ty : Nat) (min : Bool) (c v : Nat) : Bool :=
  if ty = 8 then
    let x := decodeF (fmtOf 8) c
    let y := decodeF (fmtOf 8) v
    isNaN y || (if min then below x y else below y x)
  else
    let x := intVal ty 32 c
    let y := intVal ty 32 v
    if min then decide (x < y) else decide (y < x)

/-- The list with the candidate inserted at its place, and no longer than it was. -/
def topkInsert (ty : Nat) (min : Bool) (c x : Nat) (xs : List (Nat × Nat)) : List (Nat × Nat) :=
  let p := (xs.takeWhile (fun e => !topkBetter ty min c e.1)).length
  (xs.take p ++ (c, x) :: xs.drop p).take xs.length

/-- The results of a top-k list: entry i in registers D + 2i and D + 2i + 1. -/
def topkWr (e : Env) (d k : Nat) (tag : BitVec 4) (f : Nat → List (Nat × Nat)) : List Wr :=
  ((List.range k).map (fun i =>
    let at' (l : Nat) : Nat × Nat := ((f l)[i]?).getD (0, 0)
    e.vecWr false (d + 2 * i) tag (fun l => (at' l).1) ++ e.vecWr false (d + 2 * i + 1) 1 (fun l => (at' l).2))).flatten

/-- TOPK.CLR (R175). -/
def execTopkClr (w : RWord) (s : State) : Host.Outcome State Fault Refusal :=
  let k := w.fld 2 0 + 1
  runFixed .topkClr (.r w) (fun _ => 8) (fun _ => none)
    (fun e => topkWr e w.d.toNat k (tagOf w.ty) (fun _ => List.replicate k (topkWorst w.ty (w.mb 3), 0xFFFFFFFF))) s

/-- TOPK.INS (R175). -/
def execTopkIns (w : RWord) (s : State) : Host.Outcome State Fault Refusal :=
  let k := w.fld 2 0 + 1
  let d := w.d.toNat
  let nan (c : Nat) : Bool := w.ty == 8 && isNaN (decodeF (fmtOf 8) c)
  runFixed .topkIns (.r w) (fun _ => 8)
    (fun e => firstTrap ([tagTrap 1 (tagOf w.ty) e.sourcesA, tagTrap 2 1 e.sourcesB] ++
      (List.range k).map (fun i => firstTrap [tagTrap 3 (tagOf w.ty) [e.wp.vreg (d + 2 * i)],
        tagTrap 3 1 [e.wp.vreg (d + 2 * i + 1)]]) ++ [e.badCheck]))
    (fun e =>
      let old (l : Nat) : List (Nat × Nat) :=
        (List.range k).map (fun i => (e.wp.lane false (d + 2 * i) l, e.wp.lane false (d + 2 * i + 1) l))
      topkWr e d k (tagOf w.ty) (fun l =>
        let c := e.srcA false l
        if nan c then old l else topkInsert w.ty (w.mb 3) c (e.srcB false l) (old l)) ++
      e.flagWr (e.lanesFlags (fun l => if w.ty = 8 then sigFlag (decodeF (fmtOf 8) (e.srcA false l)) else 0))) s

end Sys2Proof.Machine
end

