-- ==== Sys2Proof/Machine/Matrix.lean ====
section
/-! DEFINITION. The matrix stream, the matrix array and the accumulator tiles (R211 to R235): scalar instructions, batches,
MMA and MMA.V in the order of sums of R95, the codebook and the weight buffer, the tile sequencer, and the tile
instructions of the warps. -/

namespace Sys2Proof.Machine

/-! Scalar instructions (R214, R215). -/

/-- A scalar word of latency class MSEQ. -/
def mseq (fn : Fn) (body : Body) (wrs : Env → List Wr) (s : State) : Host.Outcome State Fault Refusal :=
  runFixed fn body (fun _ => 2) (fun _ => none) wrs s

def execMmov (w : RWord) (s : State) : Host.Outcome State Fault Refusal :=
  mseq .mmov (.r w) (fun e => [.m w.d.toNat (BitVec.ofNat 32 (e.srcA false 0))]) s
def execMmovImm (w : IWord) (s : State) : Host.Outcome State Fault Refusal :=
  mseq .mmovImm (.i w) (fun _ => [.m w.d.toNat w.imm]) s
def execMadd (w : RWord) (s : State) : Host.Outcome State Fault Refusal :=
  mseq .madd (.r w) (fun e => [.m w.d.toNat (BitVec.ofNat 32 (e.srcA false 0 + e.srcB false 0))]) s
def execMaddImm (w : IWord) (s : State) : Host.Outcome State Fault Refusal :=
  mseq .maddImm (.i w) (fun e => [.m w.d.toNat (BitVec.ofNat 32 (e.k.mreg false w.a.toNat) + w.imm)]) s
def execMcmp (w : RWord) (s : State) : Host.Outcome State Fault Refusal :=
  mseq .mcmp (.r w) (fun e =>
    [.mc w.d.toNat (intCond (w.fld 2 0) (intVal w.ty 32 (e.srcA false 0)) (intVal w.ty 32 (e.srcB false 0)))]) s

/-- MBR (R215). -/
def execMbr (w : IWord) (s : State) : Host.Outcome State Fault Refusal :=
  runWord .mbr (.i w) (whenActive (fun e s => .ok (e.jump (e.quick s) (branchTarget e.pc w.imm)))) s

/-! Barriers (R225). -/

def execMbarArv (w : RWord) (s : State) : Host.Outcome State Fault Refusal :=
  runWord .mbarArv (.r w) (whenActive (fun e s => .ok (e.barArrive (e.quick s) w.a.toNat))) s
def execMbarWait (w : RWord) (s : State) : Host.Outcome State Fault Refusal :=
  runWord .mbarWait (.r w) (whenActive (fun e s => .ok (e.barWait (e.quick s) w.a.toNat))) s
def execMbarSync (w : RWord) (s : State) : Host.Outcome State Fault Refusal :=
  runWord .mbarSync (.r w) (whenActive (fun e s =>
    .ok (e.barWait (e.barArrive (e.quick s) w.a.toNat) w.a.toNat))) s

/-! Batches (R223, R224). -/

/-- DONE moved past every closed batch that no array operation of the block keeps open. -/
def Core.advanceDone (k : Core) : Nat → Core
  | 0 => k
  | n + 1 =>
    if k.mst.done ≠ k.mst.bseq ∧ ¬ k.array.any (fun o => o.batch == k.mst.done) then
      ({ k with mst := { k.mst with done := (k.mst.done + 1) % 2 ^ 32 } }).advanceDone n
    else k

/-- The number of batches closed and not complete. -/
def MStream.open (m : MStream) : Nat := (m.bseq + 2 ^ 32 - m.done) % 2 ^ 32

/-- MFENCE (R223). -/
def execMfence (w : RWord) (s : State) : Host.Outcome State Fault Refusal :=
  runWord .mfence (.r w) (whenActive (fun e s =>
    let s := e.retire s 2 (if w.mb 0 then [.m w.d.toNat (BitVec.ofNat 32 e.k.mst.bseq)] else [])
    .ok (s.onCore e.c (fun k =>
      let k := { k with mst := { k.mst with bseq := (k.mst.bseq + 1) % 2 ^ 32 } }
      k.advanceDone k.mst.open)))) s

/-- A 32-bit difference read as I32. -/
def diff32 (a b : Nat) : Int := (BitVec.ofNat 32 a - BitVec.ofNat 32 b).toInt

/-- The MTX_DATA report of a batch up to `k`, or of any batch (R234). -/
def Core.mtxTrap (k : Core) (upto : Option Nat) : Option Trap :=
  (k.mst.pendings.find? (fun x => x.cause == .mtxData && (match upto with
    | some b => decide (0 ≤ diff32 b x.status)
    | none => true))).map (fun x => { cause := .mtxData, taux := x.pc })

/-- MWAIT (R224, R234). -/
def execMwait (w : RWord) (s : State) : Host.Outcome State Fault Refusal :=
  let isOpen (e : Env) : Bool := decide (diff32 (e.k.mst.bseq + 2 ^ 32 - 1) (e.srcA false 0) < 0)
  runWhen .mwait (.r w)
    (fun e => e.act == 0 || isOpen e || decide (0 < diff32 e.k.mst.done (e.srcA false 0))) (whenActive (fun e s =>
    if isOpen e then .error (plain .batchOpen)
    else
      match e.k.mtxTrap (some (e.srcA false 0)) with
      | some t => .error t
      | none => .ok (e.quick s))) s

/-- MEXIT (R233, R234). -/
def execMexit (w : RWord) (s : State) : Host.Outcome State Fault Refusal :=
  runWord .mexit (.r w) (fun e s =>
    match e.k.mtxTrap none with
    | some t => .error t
    | none => .ok ((e.quick s).onCore e.c (fun k => { k with mst := { k.mst with mend := true } }))) s

/-! Array operations (R213). -/

/-- The array takes one more operation: fewer than four stand in the queue with their fetch not started. -/
def Env.arrayRoom (e : Env) : Bool := decide ((e.k.array.filter (fun o => decide (e.clk < o.start))).length < 4)

/-- The clocks that refresh windows add to a fetch of `n` clocks from the weight store that starts at clock `t` (R161, R221). -/
def fetchHold (die t n : Nat) : Nat :=
  let ph := refreshPhase t die
  if ph < 320 then 320 - ph else if 9750 - ph < n then 320 else 0

/-- An array operation enters the queue (R213, R223); its stages follow those of the one before it (R221): `fetch` and `compute`
are their clocks, and `ws` tells that it reads the weight store. -/
def Env.queueArray (e : Env) (s : State) (args : List Word64) (bytes : List Byte) (latch : Latches) (fetch compute : Nat)
    (ws : Bool) : State :=
  let start := max (e.clk + 1) e.k.arrayFetch
  let fetched := start + fetch + (if ws then fetchHold (dieOf e.c) start fetch else 0)
  let computed := max fetched e.k.arrayCompute + compute
  let o : ArrayOp := { id := s.opId, fn := e.fn, body := e.body, pc := e.pc, flag := e.ctl.setf.toNat,
                       batch := e.k.mst.bseq, args, bytes, start, due := computed + 8 }
  ({ s with opId := s.opId + 1 }).onCore e.c (fun k =>
    { k with array := k.array ++ [o], arrayFetch := fetched, arrayCompute := computed, lastOp := o.id + 1, latch })

/-! MMA (R216 to R220, R95). -/

/-- The fields of an MMA or MMA.V, with what it captured. -/
structure MmaArgs where
  aTy : Nat
  bTy : Nat
  k : Nat
  la : Nat
  ws : Bool
  sck : Bool
  acc : Bool
  sp : Nat
  rows : Nat
  sa : Nat
  wb : Nat
  swz : Nat
  deriving DecidableEq, Repr, Inhabited

/-- The fields from a word, its captured values and its record. -/
def mmaArgs (w : RWord) (vals : List Word64) (rec : List Byte) : MmaArgs :=
  let kl := (mmaPair (w.fld 17 15) (w.fld 14 12) (w.fld 11 10) (w.mb 9)).getD (0, 0)
  let v (i : Nat) : Nat := ((vals[i]?).getD 0).toNat
  { aTy := mmaTy (w.fld 17 15), bTy := mmaTy (w.fld 14 12), k := kl.1, la := kl.2, ws := w.fld 11 10 == 1, sck := w.mb 9,
    acc := w.mb 8, sp := v 0, rows := v 1, sa := v 2, wb := v 3, swz := bits (recNum rec 8 4) 10 8 }

/-- The bytes that a B block takes (R218). -/
def MmaArgs.blockBytes (m : MmaArgs) : Nat :=
  24576 + (if m.bTy = 99 then 1536 else if m.sck then 128 * (m.k / 32) else 0)

/-- The checks of R220 on captured operands. -/
def mmaTrap (k : Core) (grant : Bool) (w : RWord) (vals : List Word64) (rec : List Byte) : Option Trap :=
  let m := mmaArgs w vals rec
  let fmt := bits (recNum rec 8 4) 3 0
  let want := tagOf m.aTy
  let tile := (k.tiles.get w.d.toNat {}).tag
  let mismatch (pos : Nat) (want found : BitVec 4) : Trap :=
    { cause := .formatMismatch, aux := BitVec.ofNat 32 (pos + 16 * want.toNat + 256 * found.toNat) }
  let top := 0x20000000
  if fmt ≠ 0 ∧ fmt ≠ want.toNat then some (mismatch 1 want (BitVec.ofNat 4 fmt))
  else if m.acc ∧ tile ≠ 0 ∧ tile ≠ 6 then some (mismatch 0 6 tile)
  else if (parseShape rec).isNone ∨ 128 < m.rows ∨ (m.swz ≠ 0 ∧ m.la % (16 * 2 ^ m.swz) ≠ 0) then some (plain .shapeForm)
  else if m.sp % 16 ≠ 0 then some (addrTrap .alignFault m.sp)
  else if m.sck ∧ m.sa % 16 ≠ 0 then some (addrTrap .alignFault m.sa)
  else if m.wb % 16 ≠ 0 then some (addrTrap .alignFault m.wb)
  else if m.rows ≠ 0 ∧ k.kernel.scratch < m.sp + m.rows * m.la then some (addrTrap .scratchRange m.sp)
  else if m.sck ∧ m.rows ≠ 0 ∧ k.kernel.scratch < m.sa + m.rows * (m.k / 32) then some (addrTrap .scratchRange m.sa)
  else if ¬ m.ws ∧ 0x80000 < m.wb + m.blockBytes then some (addrTrap .wbRange m.wb)
  else if m.ws ∧ (top < m.wb + m.blockBytes ∨ ¬ grant) then some (addrTrap .wsRange m.wb)
  else none

/-- Element `i` of width `w` bits in a row of bytes, 4-bit pairs by R71; `at'` gives the byte at an offset. -/
def rowElem (w : Nat) (at' : Nat → Byte) (i : Nat) : Nat :=
  match w with
  | 16 => (at' (2 * i)).toNat + 256 * (at' (2 * i + 1)).toNat
  | 8 => (at' i).toNat
  | _ => (at' (i / 2)).toNat / (if i % 2 = 0 then 1 else 16) % 16

/-- Row `r` of the A panel (R217). -/
def panelRow (m : MmaArgs) (scratch : FMap Byte) (r : Nat) : List Num :=
  (List.range m.k).map (fun i => decodeF (fmtOf m.aTy)
    (rowElem (tyWidth m.aTy) (fun o => scratch.get (m.sp + r * m.la + swizzle m.swz r o) 0) i))

/-- The eight weights of a codebook index, without their scale (R84). -/
def cbWeight (entry : BitVec 16) (x j : Nat) : Num :=
  let code := bits entry.toNat (2 * j + 1) (2 * j)
  let neg := if j < 7 then x.testBit (8 + j)
    else decide (((List.range 7).filter (fun i => x.testBit (8 + i))).length % 2 = 1)
  .fin neg (2 + 4 * code + (if x.testBit 15 then 1 else 0)) (-2)

/-- Column `n` of a B block (R218), CB2 delivered in the format of A (R86). -/
def blockColumn (m : MmaArgs) (book : FMap (BitVec 16)) (at' : Nat → Byte) (n : Nat) : List Num :=
  let base := m.wb + 192 * n
  if m.bTy = 99 then
    (List.range m.k).map (fun i =>
      let x := rowElem 16 (fun o => at' (base + o)) (i / 8)
      let sc := decodeF (fmtOf 11) (at' (m.wb + 24576 + 12 * n + i / 64)).toNat
      let v := (mulNum (cbWeight (book.get (x % 256) 0) x (i % 8)) sc).1
      decodeF (fmtOf m.aTy) (deliver (fmtOf m.aTy) .rn true true v).1)
  else (List.range m.k).map (fun i => decodeF (fmtOf m.bTy) (rowElem (tyWidth m.bTy) (fun o => at' (base + o)) i))

/-- One level of the tree of R95. -/
def mmaLevel : List Num → List Num
  | a :: b :: xs => addRN a b :: mmaLevel xs
  | xs => xs

/-- The sum of a block of 32 exact products in the order of R95. -/
def treeSum (xs : List Num) : Num :=
  ((mmaLevel (mmaLevel (mmaLevel (mmaLevel (mmaLevel xs))))).head?).getD (.fin false 0 0)

/-- The dot product of R95: blocks of 32 in ascending K, each scaled when `sc` lists its factor. -/
def dotR95 : Nat → List Num → List Num → List Num → Bool → Num → Num
  | 0, _, _, _, _, acc => acc
  | n + 1, a, b, sc, scaled, acc =>
    let s := treeSum ((a.take 32).zipWith (fun x y => (mulNum x y).1) (b.take 32))
    let s := if scaled then rn32 (mulNum s ((sc.head?).getD (.fin false 1 0))).1 else s
    dotR95 n (a.drop 32) (b.drop 32) (sc.drop 1) scaled (addRN acc s)

/-- The product of the two E8M0 scales of each block of row `r` and column `n`. -/
def blockScales (m : MmaArgs) (scratch : FMap Byte) (at' : Nat → Byte) (r n : Nat) : List Num :=
  let c := m.k / 32
  (List.range c).map (fun i =>
    (mulNum (e8m0 (scratch.get (m.sa + r * c + i) 0).toNat) (e8m0 (at' (m.wb + 24576 + c * n + i)).toNat)).1)

/-- The columns `cols` of a tile after an MMA (R219) that accumulates onto the elements `acc0`: rows below ROWS are written, the
others kept. -/
def mmaTile (m : MmaArgs) (k : Core) (at' : Nat → Byte) (cols : List Nat) (acc0 : FMap Word) (t : Tile) : Tile :=
  if m.rows = 0 ∨ cols.isEmpty then t
  else
    let el := cols.foldl (fun el n =>
      let b := blockColumn m k.codebook at' n
      (List.range m.rows).foldl (fun el r =>
        let acc := if m.acc then decodeF (fmtOf 8) (acc0.get (128 * r + n) 0).toNat else .fin false 0 0
        let x := dotR95 (m.k / 32) (panelRow m k.scratch r) b
          (if m.sck then blockScales m k.scratch at' r n else []) m.sck acc
        el.put (128 * r + n) (BitVec.ofNat 32 (enc32 x)) 0) el) t.el
    let hit (i : Nat) : Bool := decide (i / 128 < m.rows) && cols.contains (i % 128)
    { el, tag := 6, bad := t.bad.keep (fun i _ => !hit i) }

/-- Where B's bytes come from. -/
def State.blockByte (s : State) (c : Nat) (m : MmaArgs) : Nat → Byte :=
  let k := s.core c
  if m.ws then fun i => s.ws.get (wsKey (dieOf c) i) 0 else fun i => k.wbuf.get i 0

/-- Whether the die's weight store is granted to the block's context (R32). -/
def State.wsGranted (s : State) (c : Nat) : Bool := (s.ctx (s.core c).asid).wsgrant.testBit (dieOf c)

/-- The M registers that an MMA captures: panel address, ROWS, the scale address, the B offset. -/
def mmaVals (k : Core) (w : RWord) : List Word64 :=
  let m (i : Nat) : Word64 := BitVec.ofNat 64 (k.mreg false i)
  [m w.a.toNat, m (w.a.toNat + 1), if w.mb 9 then m (w.a.toNat + 2) else 0, m w.b.toNat]

/-- The operand fields by which the array knows an A panel and a B block (R222). -/
def MmaArgs.keyA (m : MmaArgs) : List Word64 :=
  [m.sp, m.rows, m.aTy, m.swz, (if m.sck then 1 else 0), m.sa].map (BitVec.ofNat 64)
def MmaArgs.keyB (m : MmaArgs) : List Word64 := [m.wb, m.bTy, (if m.ws then 1 else 0), (if m.sck then 1 else 0)].map (BitVec.ofNat 64)

/-- What an MMA asks the array to keep (R222): REUSE[3] is bit 1 of the field, REUSE[2] bit 0, REUSE[4] bit 2. -/
def mmaLatch (w : RWord) (m : MmaArgs) : Latches :=
  { a := if w.ctl.reuse.getLsbD 1 then some m.keyA else none,
    b := if w.ctl.reuse.getLsbD 0 then some m.keyB else none,
    tile := if w.ctl.reuse.getLsbD 2 then some w.d.toNat else none }

/-- The clocks of an MMA's fetch (R221); a latched operand costs none (R222). -/
def mmaFetch (m : MmaArgs) (l : Latches) : Nat :=
  let part (n per : Nat) : Nat := (n + per - 1) / per
  let a := if l.a = some m.keyA then 0 else max (part (m.rows * m.la) 1024) (if m.sck then part (m.rows * (m.k / 32)) 64 else 0)
  let b := if l.b = some m.keyB then 0 else max 24 (part (m.blockBytes - 24576) 64)
  max 24 (max a b)

/-- MMA (R216 to R220). -/
def execMma (w : RWord) (s : State) : Host.Outcome State Fault Refusal :=
  let sha := w.fld 21 18
  runWhen .mma (.r w) (fun e => e.act == 0 || (e.arrayRoom && e.k.shapeFree sha)) (whenActive (fun e s =>
    let vals := mmaVals e.k w
    let rec' := e.k.shapeBytes sha
    let m := mmaArgs w vals rec'
    match mmaTrap e.k (e.s.wsGranted e.c) w vals rec' with
    | some t => .error t
    | none =>
      .ok (e.queueArray s vals rec' (mmaLatch w m) (mmaFetch m e.k.latch) 24 (m.ws && decide (e.k.latch.b ≠ some m.keyB))))) s

/-- The S registers that an MMA.V captures, and COL0. -/
def mmaVVals (x : Warp) (w : RWord) : List Word64 :=
  let r (i : Nat) : Word64 := BitVec.ofNat 64 (x.sreg false i)
  [r w.a.toNat, r (w.a.toNat + 1), if w.mb 9 then r (w.a.toNat + 2) else 0, r w.b.toNat, r (w.b.toNat + 1)]

/-- The columns of the active lanes of an MMA.V (R232). -/
def mmaCols (o : Op) : List Nat := ((opLanes o).map (fun l => (o.arg 4).toNat + l)).filter (fun n => n < 128)

/-- MMA.V (R232). The tile that it accumulates onto is a register source, read at issue (R49); a poisoned accumulator that it would
read raises DATA_ERROR (R375). -/
def execMmaV (w : RWord) (s : State) : Host.Outcome State Fault Refusal :=
  let sha := w.fld 21 18
  runWhen .mmaV (.r w) (fun e => e.act == 0 || e.k.shapeFree sha) (whenActive (fun e s =>
    let vals := mmaVVals e.wp w
    let rec' := e.k.shapeBytes sha
    let m := mmaArgs w vals rec'
    let cols := (e.active.map (fun l => ((vals[4]?).getD 0).toNat + l)).filter (fun n => n < 128)
    match mmaTrap e.k (e.s.wsGranted e.c) w vals rec' with
    | some t => .error t
    | none =>
      if m.acc && (e.k.tiles.get w.d.toNat {}).bad.any (fun x =>
          decide (x.1 / 128 < m.rows) && cols.contains (x.1 % 128)) then .error (plain .dataError)
      else .ok (e.launchOp s .go (fun o =>
        { o with
          args := vals, bytes := rec', dests := e.destRegs,
          spans := [(m.sp, m.rows * m.la), (m.sa, if m.sck then m.rows * (m.k / 32) else 0)],
          data := if m.acc then (e.k.tiles.get w.d.toNat {}).el else [] })))) s

/-! Codebook and weight buffer (R227, R228). -/

/-- CBLD (R227). -/
def execCbld (w : RWord) (s : State) : Host.Outcome State Fault Refusal :=
  runWhen .cbld (.r w) (fun e => e.act == 0 || e.arrayRoom) (whenActive (fun e s =>
    let a := e.srcA false 0
    if a % 16 ≠ 0 then .error (addrTrap .alignFault a)
    else if e.kernel.scratch < a + 512 then .error (addrTrap .scratchRange a)
    else .ok (e.queueArray s [BitVec.ofNat 64 a] [] {} 1 1 false))) s

/-- WBLD (R228). -/
def execWbld (w : RWord) (s : State) : Host.Outcome State Fault Refusal :=
  runWhen .wbld (.r w) (fun e => e.tagFree (w.fld 21 16)) (whenActive (fun e s =>
    let src := e.k.mreg true w.a.toNat
    let len := e.k.mreg false (w.a.toNat + 2)
    let off := e.k.mreg false w.b.toNat
    let ws := w.mb 15
    if src % 16 ≠ 0 then .error (addrTrap .alignFault src)
    else if off % 16 ≠ 0 ∨ len % 16 ≠ 0 then .error (addrTrap .alignFault off)
    else if 0x80000 < off + len then .error (addrTrap .wbRange off)
    else if ws ∧ (0x20000000 < src + len ∨ ¬ e.s.wsGranted e.c) then .error (addrTrap .wsRange src)
    else .ok (e.startCopy s (w.fld 21 16) [BitVec.ofNat 64 off, BitVec.ofNat 64 src, BitVec.ofNat 64 len] []))) s

/-! The tile sequencer (R229, R230). -/

/-- TSEQ.INIT (R229). -/
def execTseqInit (w : RWord) (s : State) : Host.Outcome State Fault Refusal :=
  runWord .tseqInit (.r w) (whenActive (fun e s =>
    let tbl := e.k.mreg false w.a.toNat
    let g := e.k.mreg false (w.a.toNat + 1)
    let lst := e.k.mreg false (w.a.toNat + 2)
    if tbl % 4 ≠ 0 then .error (addrTrap .alignFault tbl)
    else if lst % 16 ≠ 0 then .error (addrTrap .alignFault lst)
    else if 65535 < g then .error (plain .tseqTable)
    else if e.kernel.scratch < tbl + 4 * (g + 1) then .error (addrTrap .scratchRange tbl)
    else .ok ((e.quick s).onCore e.c (fun k =>
      { k with mst := { k.mst with seq := { tbl, g, lst, init := true } } })))) s

/-- What a TSEQ.NEXT gives: row0, rows and group, the condition bit, the sequencer after it, and the records it writes. -/
structure SeqNext where
  row0 : Nat
  rows : Nat
  group : Nat
  c : Bool
  seq : TileSeq
  recs : List Byte
  deriving DecidableEq, Repr, Inhabited

/-- The walk of R230 over at most `n` groups; `limit` is SCRATCH. -/
def seqWalk (scratch : FMap Byte) (limit thr : Nat) (recs : List Byte) : Nat → TileSeq → Except Trap SeqNext
  | 0, q => .ok ⟨0, q.n, q.g, false, q, recs⟩
  | n + 1, q =>
    if q.g ≤ q.gi then .ok ⟨0, q.n, q.g, false, q, recs⟩
    else
      let a := scratch.num (q.tbl + 4 * q.gi) 4
      let b := scratch.num (q.tbl + 4 * (q.gi + 1)) 4
      if b < a then .error (plain .tseqTable)
      else
        let len := b - a
        if len = 0 then seqWalk scratch limit thr recs n { q with gi := q.gi + 1, j := 0 }
        else if len < thr then
          (if limit < q.lst + 16 * q.n + 16 then .error (addrTrap .scratchRange (q.lst + 16 * q.n))
           else seqWalk scratch limit thr (recs ++ toLe a 4 ++ toLe len 4 ++ toLe q.gi 4 ++ toLe 0 4) n
             { q with n := q.n + 1, gi := q.gi + 1, j := 0 })
        else
          let rows := min 128 (len - 128 * q.j)
          let j := q.j + 1
          let q' := if len ≤ 128 * j then { q with gi := q.gi + 1, j := 0 } else { q with j := j }
          .ok ⟨a + 128 * q.j, rows, q.gi, true, q', recs⟩

/-- TSEQ.NEXT (R230): the table is read at issue, after the writes that the matrix stream's barrier waits acquired (R226);
registers and records are written at its completion. -/
def execTseqNext (w : RWord) (s : State) : Host.Outcome State Fault Refusal :=
  runWhen .tseqNext (.r w) (fun e => e.act == 0 || e.k.writesDone .matrix e.s.opId) (whenActive (fun e s =>
    let q := e.k.mst.seq
    let r : Except Trap SeqNext :=
      if q.init then seqWalk e.k.scratch e.kernel.scratch e.kernel.smallg [] (q.g + 1) q else .ok ⟨0, 0, q.g, false, q, []⟩
    match r with
    | .error t => .error t
    | .ok x =>
      let s := s.onCore e.c (fun k => { k with mst := { k.mst with seq := x.seq } })
      .ok (e.launchOp s .go (fun o =>
        { o with args := [BitVec.ofNat 64 x.row0, BitVec.ofNat 64 x.rows, BitVec.ofNat 64 x.group, if x.c then 1 else 0,
                          BitVec.ofNat 64 (q.lst + 16 * q.n)],
                 bytes := x.recs, dests := [⟨.m, 0, w.d.toNat⟩, ⟨.m, 0, w.d.toNat + 1⟩, ⟨.m, 0, w.d.toNat + 2⟩] })))) s

/-- The completion of a TSEQ.NEXT. -/
def seqComplete (s : State) (c : Nat) (o : Op) (w : RWord) : State :=
  let d := w.d.toNat
  let s := s.onCore c (fun k => { k with scratch := k.scratch.putBytes (o.arg 4).toNat o.bytes })
  completeOp s c o [.m d ((o.arg 0).setWidth 32), .m (d + 1) ((o.arg 1).setWidth 32), .m (d + 2) ((o.arg 2).setWidth 32),
    .mc (w.fld 2 1) (o.arg 3 != 0)]

/-! Tiles from the warps (R231). -/

/-- The element type of a tile's image: F32, or TYPE of TCVT. -/
def tileTy (fn : Fn) (w : RWord) : Nat := if fn = .tcvt then w.ty else 8

/-- TZERO (R231, R213): an array operation in the matrix stream. -/
def execTzero (w : RWord) (s : State) : Host.Outcome State Fault Refusal :=
  runWhen .tzero (.r w) (fun e => e.act == 0 || e.st != .matrix || e.arrayRoom) (whenActive (fun e s =>
    if e.st = .matrix then .ok (e.queueArray s [] [] {} 0 4 false)
    else .ok (e.launchOp s .go (fun o => { o with dests := e.destRegs })))) s

/-- TCVT's conversion of a tile: the image bytes and the flags it sets. -/
def convertTile (ty rnd : Nat) (sat : Bool) (t : Tile) : List Byte × Nat :=
  (List.range 16384).foldl (fun acc i =>
    let r := convertNum ty (rmode rnd) sat (decodeF (fmtOf 8) (t.el.get i 0).toNat)
    (acc.1 ++ toLe r.1 (tyWidth ty / 8), acc.2 ||| r.2)) ([], 0)

/-- The image that a TST or TCVT writes, captured with the tile at issue (R49), and the flags that it sets (R79). -/
def tileImage (fn : Fn) (w : RWord) (t : Tile) : List Byte × Nat :=
  match fn with
  | .tst => (((List.range 16384).map (fun i => toLe (t.el.get i 0).toNat 4)).flatten, 0)
  | .tcvt => convertTile w.ty (w.fld 17 16) (w.mb 14) t
  | _ => ([], 0)

/-- TLD, TST and TCVT (R231): `out` tells that the tile is the source. -/
def tileMove (fn : Fn) (w : RWord) (out : Bool) (s : State) : Host.Outcome State Fault Refusal :=
  runWord fn (.r w) (whenActive (fun e s =>
    let a := e.srcA false 0
    let t := e.k.tiles.get w.d.toNat {}
    if out ∧ t.tag ≠ 0 ∧ t.tag ≠ 6 then
      .error { cause := .formatMismatch, aux := BitVec.ofNat 32 (16 * 6 + 256 * t.tag.toNat) }
    else if out ∧ ¬ t.bad.isEmpty then .error (plain .dataError)
    else if a % 16 ≠ 0 then .error (addrTrap .alignFault a)
    else if e.kernel.scratch < a + 16384 * tyWidth (tileTy fn w) / 8 then .error (addrTrap .scratchRange a)
    else .ok (e.launchOp s .go (fun o =>
      let image := tileImage fn w t
      { o with
        args := [BitVec.ofNat 64 a, BitVec.ofNat 64 image.2], bytes := image.1, dests := if out then [] else e.destRegs,
        spans := [(a, 16384 * tyWidth (tileTy fn w) / 8)] })))) s

def execTld (w : RWord) (s : State) : Host.Outcome State Fault Refusal := tileMove .tld w false s
def execTst (w : RWord) (s : State) : Host.Outcome State Fault Refusal := tileMove .tst w true s
def execTcvt (w : RWord) (s : State) : Host.Outcome State Fault Refusal := tileMove .tcvt w true s

/-- A tile replaced. -/
def Core.setTile (k : Core) (i : Nat) (t : Tile) : Core := { k with tiles := k.tiles.put i t {} }

/-- The elements of a tile from an image of F32 words. -/
def loadTile (scratch : FMap Byte) (a : Nat) : FMap Word :=
  (List.range 16384).foldl (fun m i => m.put i (BitVec.ofNat 32 (scratch.num (a + 4 * i) 4)) 0) []

/-- The completion of a tile instruction of a warp, of MMA.V among them. -/
def warpTileComplete (s : State) (c : Nat) (o : Op) (w : RWord) : State :=
  let d := w.d.toNat
  let a := (o.arg 0).toNat
  let t := (s.core c).tiles.get d {}
  match o.fn with
  | .tzero => completeOp (s.onCore c (fun k => k.setTile d { tag := 6 })) c o []
  | .tld => completeOp (s.onCore c (fun k => k.setTile d { el := loadTile k.scratch a, tag := 6 })) c o []
  | .tst | .tcvt =>
    let fl := (o.arg 1).setWidth 32
    completeOp (s.onCore c (fun k => { k with scratch := k.scratch.putBytes a o.bytes })) c o
      (if fl = 0 then [] else [.flagsOr (partyWarp o.party) fl])
  | .mmaV =>
    let m := mmaArgs w o.args o.bytes
    if m.ws ∧ s.refreshing (dieOf c) then s
    else completeOp (s.onCore c (fun k => k.setTile d (mmaTile m k (s.blockByte c m) (mmaCols o) o.data t))) c o []
  | _ => s

/-! The array at work (R219, R221, R227, R234). -/

/-- An MMA performed. A lost B read gives canonical NaNs in the rows below ROWS and a report; an accumulator element that was
poisoned and read gives a value that the spec does not state, and a report (R375, log 6). -/
def performMma (s : State) (c : Nat) (o : ArrayOp) (w : RWord) (readError : Bool) : State :=
  let m := mmaArgs w o.args o.bytes
  let k := s.core c
  let d := w.d.toNat
  let t := k.tiles.get d {}
  let cols := List.range 128
  let poisoned := if m.acc then t.bad.keys.filter (fun i => decide (i / 128 < m.rows)) else []
  let report := (readError || !poisoned.isEmpty) && m.rows != 0
  let new := mmaTile m k (s.blockByte c m) cols t.el t
  let new : Tile :=
    if readError ∧ m.rows ≠ 0 then
      { new with el := (List.range (128 * m.rows)).foldl (fun el i => el.put i 0x7FC00000 0) new.el }
    else { new with el := poisoned.foldl (fun el i => el.put i (Config.freeWord (s.fresh + i)) 0) new.el }
  let s := { s with fresh := s.fresh + 16384 }
  let s := if report then s.noteError 3 c (some o.pc.toNat) else s
  s.onCore c (fun k =>
    let k := k.setTile d new
    if report then
      { k with mst := { k.mst with pendings := k.mst.pendings ++
        [{ cause := .mtxData, party := .matrix, flag := 0, eng := none, pc := o.pc, addr := 0, status := o.batch }] } }
    else k)

/-- ARRAY_OPERATION_PERFORM (R219): the oldest operation not performed. Its operands wait for the warps' writes that the
matrix stream's barrier waits acquired (R226), and it completes no earlier than R221 gives. -/
def execArrayOperationPerform (core : Nat) (readError : Bool) (s : State) : Host.Outcome State Fault Refusal :=
  let k := s.core core
  match k.array.find? (fun o => !o.performed) with
  | some o =>
    let mark (s : State) : State := s.onCore core (fun k =>
      { k with array := k.array.map (fun (x : ArrayOp) => if x.id = o.id then { x with performed := true } else x) })
    if !k.writesDone .matrix o.id || decide (s.clk + 1 < o.due) then .next s
    else
      match o.fn, o.body with
      | .mma, .r w => done (mark (performMma s core o w readError))
      | .tzero, .r w => done (mark (s.onCore core (fun k => k.setTile w.d.toNat { tag := 6 })))
      | .cbld, _ =>
        let a := ((o.args[0]?).getD 0).toNat
        done (mark (s.onCore core (fun k => { k with codebook := (List.range 256).foldl (fun m i =>
          m.put i (BitVec.ofNat 16 (k.scratch.num (a + 2 * i) 2)) 0) k.codebook })))
      | _, _ => .next s
  | none => .next s

/-- ARRAY_OPERATION_COMPLETION (R221, R223): the oldest operation, performed, leaves; its counter falls and batches may be
complete. -/
def execArrayOperationCompletion (core : Nat) (s : State) : Host.Outcome State Fault Refusal :=
  match (s.core core).array with
  | o :: rest =>
    if o.performed then
      done (s.onCore core (fun k =>
        let k := { k with array := rest }.flagDown .matrix o.flag
        k.advanceDone k.mst.open))
    else .next s
  | [] => .next s

/-- The functions at which the matrix stream is orphaned when they cannot issue (R233). -/
def orphanFn (word : BitVec 96) : Option Fn :=
  [Fn.tseqNext, .mma, .tzero, .cbld].find? (fun f => opcOf word == f.opc)

/-- The condition that the entry of an array operation or a TSEQ.NEXT adds to R360 (R213, R230). -/
def Env.arrayReady (e : Env) (w : RWord) : Bool :=
  match e.fn with
  | .mma => e.arrayRoom && e.k.shapeFree (w.fld 21 18)
  | .tseqNext => e.k.writesDone .matrix e.s.opId
  | _ => e.arrayRoom

/-- Whether the matrix stream of a core stands at a TSEQ.NEXT or an array operation that is not issuable, its distance apart
(log 84). -/
def State.matrixStuck (s : State) (c : Nat) : Bool :=
  let k := s.core c
  match s.fetchWord k.tlb k.asid k.mst.mpc.toNat false with
  | none => false
  | some bs =>
    let w := rOf (wordOfBytes bs)
    match orphanFn (wordOfBytes bs) with
    | none => false
    | some f => match envOf { s with actor := .matrix c } f (.r w) with
      | some e => decide (e.ready ≤ e.clk) && e.formTrap.isNone && e.act != 0 && (!e.issuable || !e.arrayReady w)
      | none => false

/-- MSTREAM_ORPHAN (R233): every warp has ended and the matrix stream stands in a barrier hold, TPC naming its MBAR, or at a
TSEQ.NEXT or an array operation that is not issuable. -/
def execMstreamOrphan (core : Nat) (s : State) : Host.Outcome State Fault Refusal :=
  let k := s.core core
  if k.halt.isNone && k.kernel.matrix && !k.mst.mend && (k.mst.bar.isSome || s.matrixStuck core) &&
      k.mayIssue s.clk .matrix 0 false && (List.range k.kernel.nwarps).all (fun w => (k.warp w).ended) then
    done (raiseAt s core .matrix 0 (if k.mst.bar.isSome then k.mst.mpc - 12 else k.mst.mpc) false 7 (plain .mstreamOrphan))
  else .next s

end Sys2Proof.Machine
end

