-- ==== Sys2Proof/Machine/Log.lean ====
section
/-! DEFINITION. The error log and the snapshot trigger (R413, R415), and how the launch controller reads and writes the memory of a
context (R344, R346, R392 to R395). -/

namespace Sys2Proof.Machine

/-! The snapshot trigger (R386, R413). -/

/-- A trigger fires: whether it fired or found the trigger disarmed. Triggers within 64 clocks of a firing belong to it. -/
def State.fireSnap (s : State) : Bool × State :=
  let h := s.host0
  if h.armed then
    (true, { s with host0 := { h with armed := false, snaps := h.snaps + 1, snapclk := s.clk } })
  else if 0 < h.snaps ∧ s.clk < h.snapclk + 64 then (true, s)
  else (false, { s with host0 := { h with missed := min (h.missed + 1) 3 } })

/-! Error records (R415). -/

/-- What an error record tells: `code` is CAUSE with its CKIND. What the spec does not state for a record is `none`. -/
structure LogRec where
  cls : Nat
  asid : Nat := 0xFF
  unit : Option Nat := none
  code : Option (Nat × Nat) := none
  launch : Nat := 0
  addr : Option Nat := none
  deriving DecidableEq, Repr, Inhabited

/-- The 32 bytes of a record; UNIT, CAUSE with CKIND, and ADDR are free values where the spec states none (log 39). -/
def State.logBytes (s : State) (r : LogRec) : List Byte :=
  let free (i : Nat) : Nat := (Config.freeWord64 (s.fresh + i)).toNat
  let code := r.code.getD (free 1 % 256, free 2 % 4)
  toLe s.todns 8 ++ toLe r.cls 1 ++ toLe r.asid 1 ++ toLe (r.unit.getD (free 0)) 2 ++ toLe code.1 1 ++ toLe code.2 3 ++
    toLe r.launch 8 ++ toLe (r.addr.getD (free 3)) 8

/-- A record written at TAIL of the package ring, or dropped when the ring has no room, and to the ring of its context; a class
3 or 4 record fires the snapshot trigger where ENERR enables it. -/
def State.log (s : State) (r : LogRec) : State :=
  let bs := s.logBytes r
  let h := s.host0
  let s := { s with fresh := s.fresh + 4 }
  let s : State :=
    if h.elogsize = 0 ∨ (h.elogtail + 1) % h.elogsize = h.eloghead % h.elogsize then
      { s with host0 := { h with elogdrop := min (h.elogdrop + 1) (2 ^ 64 - 1) } }
    else
      { s.writeHbm (h.elogbase / 4096 * 4096 + 32 * h.elogtail) bs with host0 := { h with elogtail := (h.elogtail + 1) % h.elogsize } }
  let s : State :=
    if r.asid < 0xFF ∧ (s.ctx r.asid).live ∧ (s.ctx r.asid).clog ≠ 0 then
      let x := s.ctx r.asid
      (s.writeHbm (x.clog + 32 * (x.clogTail % 128)) bs).onCtx r.asid (fun c => { c with clogTail := c.clogTail + 1 })
    else s
  if (r.cls = 3 ∨ r.cls = 4) ∧ s.host0.enerr then s.fireSnap.2 else s

/-! The launch controller's accesses. -/

/-- What the launch controller finds at a page. -/
inductive LcPage where
  | ok
  | wait
  | bad (cause : Cause)
  | fabric (status : Nat)
  deriving DecidableEq, Repr, Inhabited

/-- The name under which the launch controller keeps a page that it waits for. -/
def lcKey (asid va : Nat) : Nat := asid * 2 ^ 48 + va / 2 ^ 16

/-- The page of an address as the launch controller finds it (R392 to R395); pages that the MMP has refused to it are bad, and so is one
that it has waited for as MIGRATING for 200 µs. -/
def State.lcPage (s : State) (asid va : Nat) (need : Need) : LcPage :=
  match s.xlate s.ltlb asid va with
  | .invalid => .bad .pageFault
  | .notres _ => if s.denied.contains (asid, va / 2 ^ 16 * 2 ^ 16) then .bad .pageFault else .wait
  | .migrating _ => if (s.moving.find (lcKey asid va)).any (fun t => decide (t + ticksOf 200 ≤ s.ref)) then .bad .pageFault else .wait
  | .ok leaf base _ =>
    if !permits leaf need true then .bad .protFault
    else match placeOf leaf base va with
      | .window m _ => match s.route m with
        | .bad st => .fabric st
        | .wait => .wait
        | _ => .ok
      | _ => .ok

/-- The launch controller's request for a page that is not resident, and its note of since when it waits for a MIGRATING one. -/
def State.lcAsk (s : State) (asid va : Nat) (need : Need) : State :=
  match s.xlate s.ltlb asid va with
  | .notres _ => s.post asid va (some need) true [⟨96, 0, 0⟩]
  | .migrating _ => { s with moving := s.moving.set (lcKey asid va) (s.moving.get (lcKey asid va) s.ref) }
  | _ => s

/-- A range as the launch controller finds it: the first page that is not ready decides; absent pages are asked for, refusals
are taken note of, and translations are kept. -/
def State.lcRange (s : State) (asid a n : Nat) (need : Need) : LcPage × State :=
  let pages := (pageStarts a n).map (fun p => p % 2 ^ 64)
  match (pages.map (fun p => (p, s.lcPage asid p need))).find? (fun e => e.2 != .ok) with
  | none => (.ok, { s with ltlb := pages.foldl (fun t p => tlbAdd t 256 asid (s.walk asid p)) s.ltlb })
  | some (p, .wait) => (.wait, s.lcAsk asid p need)
  | some (p, r) => (r, { s with denied := s.denied.filter (fun e => e != (asid, p / 2 ^ 16 * 2 ^ 16)), moving := s.moving.del (lcKey asid p) })

/-- The bytes of a range that is ready. -/
def State.lcBytes (s : State) (asid a n : Nat) : List Byte :=
  ((pieces a n).map (fun p => match s.xlate s.ltlb asid (p.1 % 2 ^ 64) with
    | .ok leaf base _ => s.readPlace none (placeOf leaf base (p.1 % 2 ^ 64)) p.2
    | _ => List.replicate p.2 0)).flatten

/-- A range that is ready, written. -/
def State.lcPut (s : State) (asid a : Nat) (bs : List Byte) : State :=
  (pieces a bs.length).foldl (fun s p => match s.xlate s.ltlb asid (p.1 % 2 ^ 64) with
    | .ok leaf base _ => s.writePlace none (placeOf leaf base (p.1 % 2 ^ 64)) ((bs.drop (p.1 - a)).take p.2)
    | _ => s) s

/-- A range read. -/
def State.lcRead (s : State) (asid a n : Nat) : LcPage × List Byte × State :=
  match s.lcRange asid a n .read with
  | (.ok, s) => (.ok, s.lcBytes asid a n, s)
  | (r, s) => (r, [], s)

end Sys2Proof.Machine
end

