-- ==== Sys2Proof/Machine/Launch.lean ====
section
/-! DEFINITION. The launch controller (R344 to R358): descriptors, kernel records and graph tables, the submission of launches,
gates, graph nodes and their batches, and the end of a launch. -/

namespace Sys2Proof.Machine

/-! The launch descriptor (R344). -/

def dKind (d : List Byte) : Nat := bits (recNum d 8 4) 31 28
def dPre (d : List Byte) : Bool := bit (recNum d 8 4) 27
def dPrio (d : List Byte) : Nat := bits (recNum d 8 4) 26 24
def dMask (d : List Byte) : Nat := bits (recNum d 8 4) 23 0
def dCode (d : List Byte) : Nat := recNum d 0 8
def dGrid (d : List Byte) : Nat × Nat × Nat := (recNum d 0xC 4, recNum d 0x12 2, recNum d 0x10 2)
def dScMask (d : List Byte) : Nat := recNum d 0xC 4 + recNum d 0x10 2 * 2 ^ 32 + recNum d 0x12 2 * 2 ^ 48
def dCores (d : List Byte) : Nat := recNum d 0x14 4
def dEntry (d : List Byte) : Nat := bits (recNum d 0x14 4) 31 16
def dWords (d : List Byte) : Nat := bits (recNum d 0x14 4) 15 0
def dParam (d : List Byte) : Nat := recNum d 0x18 8
def dArg (d : List Byte) : Nat := recNum d 0x20 8
def dGate (d : List Byte) : Nat := recNum d 0x28 8
def dSig0 (d : List Byte) : Nat := recNum d 0x30 8
def dSig1 (d : List Byte) : Nat := recNum d 0x38 8
def dDies (d : List Byte) : List Nat := (List.range 6).filter (fun i => (recNum d 0xC 4).testBit i)

/-- Blocks of a grid. -/
def dBlocks (d : List Byte) : Nat := let g := dGrid d; g.1 * g.2.1 * g.2.2

/-- The stack groups that a context may use now (R344, R406): granted, with its die and its stack ready, and not being taken away. -/
def State.groupsOf (s : State) (asid : Nat) : List Nat :=
  (List.range 24).filter (fun g =>
    (s.ctx asid).sgrant.testBit g && s.ready.getLsbD (24 + g) && s.ready.getLsbD (10 + g / 4) &&
      (match s.change with
       | some x => x.asid != asid || (!x.destroy && x.sgrant.testBit g)
       | none => true))

/-- The stack groups of a launch (R344). -/
def State.launchGroups (s : State) (l : Launch) : List Nat :=
  (s.groupsOf l.asid).filter (fun g => dMask l.desc == 0 || (dMask l.desc).testBit g)

/-! The kernel record (R65, R22). -/

/-- A kernel record as R65 accepts it. -/
def parseKernel (addr : Nat) (bs : List Byte) : Option Kernel :=
  let h := recNum bs 4 4
  let p := recNum bs 0x30 4
  let n := bits h 6 2 + 1
  let k : Kernel :=
    { addr, w := 16 * 2 ^ bits h 1 0, nwarps := n, n := 32 * (bits h 11 7 + 1), matrix := bit h 12, check := bit h 13,
      idemp := bit h 14, ntiles := bits h 20 15, accmask := BitVec.ofNat 32 (recNum bs 8 4), scratch := recNum bs 0xC 4,
      centry := BitVec.ofNat 64 (recNum bs 0x10 8), aentry := BitVec.ofNat 64 (recNum bs 0x18 8),
      mentry := BitVec.ofNat 64 (recNum bs 0x20 8), k0base := BitVec.ofNat 64 (recNum bs 0x28 8),
      slip := bits p 31 24, smallg := bits p 23 16, paramsz := bits p 15 0, k1base := BitVec.ofNat 64 (recNum bs 0x38 8) }
  let ok :=
    recNum bs 0 4 == 64 * 2 ^ 16 + 1 && bits h 31 21 == 0 && decide (k.ntiles ≤ 32) && bits h 1 0 != 3 &&
      decide (k.accmask.toNat < 2 ^ n) && decide (k.scratch % 256 = 0) && decide (k.scratch ≤ 0x100000) &&
      decide (k.centry.toNat % 4 = 0) && decide (k.aentry.toNat % 4 = 0) && ((k.aentry == 0) == (k.accmask == 0)) &&
      decide (k.mentry.toNat % 4 = 0) && ((k.mentry == 0) == !k.matrix) && (k.paramsz == 0 || decide (k.k0base.toNat % 4 = 0)) &&
      decide (8 ≤ k.slip) && decide (k.slip ≤ 96) && decide (1 ≤ k.smallg) && decide (k.smallg ≤ 128) &&
      decide (k.paramsz ≤ 256) && recNum bs 0x34 4 == 0 && decide (k.k1base.toNat % 4 = 0)
  if ok then some k else none

/-- The residency check of R22. -/
def Kernel.resident (k : Kernel) : Bool :=
  decide (k.nwarps ≤ 32) && (List.range 4).all (fun j =>
    let ws := (List.range k.nwarps).filter (fun w => w % 4 == j)
    let a := (ws.filter (fun w => k.hasAccess w)).length
    decide (ws.length ≤ 8) && decide (ws.length * k.w * k.n ≤ 65536) && decide (a * 128 * k.w ≤ 32768))

/-- EXPECT of every barrier from the barrier table (R294). -/
def expectsOf (k : Kernel) (tbl : List Byte) : List Nat :=
  (List.range 32).map (fun b =>
    let x := recNum tbl b 1
    if x = 0 then k.nwarps + (if k.matrix then 1 else 0) else x)

/-! The graph table (R353). -/

def tNodes (t : List Byte) : Nat := recNum t 0 2
def tMaddr (t : List Byte) (e : Nat) : Word64 := BitVec.ofNat 64 (recNum t (0x40 + 32 * e) 8)
def tXgoff (t : List Byte) (e : Nat) : Nat := recNum t (0x48 + 32 * e) 8
def tGrp (t : List Byte) (e : Nat) : Nat := recNum t (0x50 + 32 * e) 1 % 16
def tField (t : List Byte) (n o sz : Nat) : Nat := recNum t (0x200 + 128 * n + o) sz
def tBase (t : List Byte) (n : Nat) : Nat := tField t n 0 8
def tCap (t : List Byte) (n : Nat) : Nat := tField t n 8 4
def tTile (t : List Byte) (n : Nat) : Nat := let x := bits (tField t n 0xC 4) 31 16; if x = 0 then 128 else x
def tSmall (t : List Byte) (n : Nat) : Nat := bits (tField t n 0xC 4) 15 8
def tMaxb (t : List Byte) (n : Nat) : Nat := let x := bits (tField t n 0xC 4) 7 0; if x = 0 then 16 else x
def tFlush (t : List Byte) (n : Nat) : Nat := tField t n 0x10 4
def tFull (t : List Byte) (n : Nat) : Nat := tField t n 0x18 8
def tSmallk (t : List Byte) (n : Nat) : Nat := tField t n 0x20 8
def tBatcha (t : List Byte) (n : Nat) : Nat := tField t n 0x28 8

/-- Whether bytes of a table are 0. -/
def zeroBytes (t : List Byte) (o n : Nat) : Bool := ((t.drop o).take n).all (fun b => b == 0)

/-- Whether a node of a table is in order; FULL names a descriptor, so it is not 0 (R353, log 41). -/
def nodeOk (t : List Byte) (n : Nat) : Bool :=
  let cap := tCap t n
  decide (tBase t n % 64 = 0) && (List.range 10).any (fun i => cap == 128 * 2 ^ i) && decide (tTile t n ≤ cap / 2) &&
    decide (tMaxb t n ≤ 64) && decide (tFull t n % 64 = 0) && decide (tFull t n ≠ 0) && decide (tSmallk t n % 64 = 0) && decide (tBatcha t n % 64 = 0) &&
    zeroBytes t (0x200 + 128 * n + 0x14) 4 && zeroBytes t (0x200 + 128 * n + 0x30) 0x50

/-- The module and queue-window base that a drain entry names, whatever can be reached now; none for a MADDR that is malformed
or outside the context's grants. -/
def State.drainPlace (s : State) (asid : Nat) (x : Word64) : Option (Nat × Nat) :=
  let num := bits x.toNat 62 56
  let off := bits x.toNat 55 0
  let m := if bit x.toNat 63 then sharedModule s.order s.self num else some num
  match m with
  | some m =>
    if s.order ≠ 0 ∧ num < podN s.order ∧ off % 0x10000 = 0 ∧ 0x1000000 ≤ off ∧ off < 0x2000000 ∧
        ¬ (48 ≤ (off - 0x1000000) / 0x10000 ∧ (off - 0x1000000) / 0x10000 ≤ 63) ∧ (s.ctx asid).granted m off 0x10000 then
      some (m, off)
    else none
  | none => none

/-- Whether a drain entry is unused or in order. -/
def State.drainOk (s : State) (asid : Nat) (t : List Byte) (e : Nat) : Bool :=
  zeroBytes t (0x51 + 32 * e) 15 && decide (recNum t (0x50 + 32 * e) 1 < 16) &&
    (tMaddr t e == 0 || (s.drainPlace asid (tMaddr t e)).isSome)

/-- Whether a whole table is in order (R353). -/
def State.tableOk (s : State) (asid : Nat) (t : List Byte) : Bool :=
  recNum t 2 2 == 1 && zeroBytes t 4 0x3C && zeroBytes t 0x140 0xC0 && (List.range 8).all (s.drainOk asid t) &&
    (List.range (tNodes t)).all (nodeOk t)

/-! Acceptance (R344, R356). -/

/-- What the checks of a descriptor give: a page must be awaited, a status of R356, or the launch. -/
inductive Checked where
  | wait
  | status (st : Nat)
  | ok (l : Launch)
  deriving DecidableEq, Repr, Inhabited

/-- The checks of R344 that the descriptor alone decides. -/
def State.formOk344 (s : State) (asid : Nat) (d : List Byte) : Bool :=
  let code := dCode d
  let mask := dMask d
  decide (dGate d % 8 = 0) && decide (dSig0 d % 8 = 0) && decide (dSig1 d % 8 = 0) &&
    (List.range 24).all (fun g => !mask.testBit g || (s.groupsOf asid).contains g) &&
    (match dKind d with
     | 0 => decide (code % 64 = 0)
     | 1 => decide (code % 4 = 0) && decide (dEntry d % 4 = 0) && decide (dEntry d ≤ 32756) &&
        decide (4 * dWords d + dEntry d ≤ 32768)
     | 2 =>
       let off := dArg d % 2 ^ 32
       decide (code % 16 = 0) && decide (off % 16 = 0) && decide (dCores d % 16 = 0) && decide (off + dCores d ≤ 0x20000000) &&
         (dDies d).all (fun i => (s.ctx asid).wsgrant.testBit i)
     | 3 => decide (code % 256 = 0) && decide (recNum d 0xC 4 < 4)
     | _ => false)

/-- The kernel record and the barrier table of a grid. -/
def State.checkGrid (s : State) (asid : Nat) (l : Launch) : Checked × State :=
  match s.lcRead asid (dCode l.desc) 64 with
  | (.wait, _, s) => (.wait, s)
  | (.ok, bs, s) =>
    match parseKernel (dCode l.desc) bs with
    | none => (.status 2, s)
    | some k =>
      let p := dParam l.desc
      if p ≠ 0 ∧ k.paramsz ≠ 0 ∧ p % 4 ≠ 0 then (.status 2, s)
      else
        match s.lcRead asid ((dCode l.desc + 64) % 2 ^ 64) 32 with
        | (.wait, _, s) => (.wait, s)
        | (.ok, tbl, s) =>
          if k.resident then
            (.ok { l with kernel := if p = 0 then k else { k with k0base := BitVec.ofNat 64 p }, expects := expectsOf k tbl }, s)
          else (.status 3, s)
        | (_, _, s) => (.status 2, s)
  | (_, _, s) => (.status 4, s)

/-- The graph table of a KIND 3 launch. -/
def State.checkGraph (s : State) (asid : Nat) (l : Launch) : Checked × State :=
  if dCode l.desc = 0 then (.ok l, s)
  else if ((s.ctx asid).graphs.find (recNum l.desc 0xC 4)).isSome then (.status 2, s)
  else
    match s.lcRead asid (dCode l.desc) 0x200 with
    | (.wait, _, s) => (.wait, s)
    | (.ok, hd, s) =>
      if tNodes hd = 0 ∨ 256 < tNodes hd then (.status 2, s)
      else
        match s.lcRead asid ((dCode l.desc + 0x200) % 2 ^ 64) (128 * tNodes hd) with
        | (.wait, _, s) => (.wait, s)
        | (.ok, tl, s) => if s.tableOk asid (hd ++ tl) then (.ok { l with table := hd ++ tl }, s) else (.status 2, s)
        | (_, _, s) => (.status 4, s)
    | (_, _, s) => (.status 4, s)

/-- A descriptor checked, as its bytes stand. -/
def State.checkDesc (s : State) (asid : Nat) (d : List Byte) (src : LaunchSource) : Checked × State :=
  let l : Launch := { asid, desc := d, src, prio := min (dPrio d) (s.ctx asid).priocap }
  if !s.formOk344 asid d then (.status 2, s)
  else match dKind d with
    | 0 => s.checkGrid asid l
    | 3 => s.checkGraph asid l
    | _ => (.ok l, s)

/-- A descriptor read and checked. -/
def State.checkLaunch (s : State) (asid a : Nat) (src : LaunchSource) : Checked × State :=
  match s.lcRead asid a 64 with
  | (.wait, _, s) => (.wait, s)
  | (.ok, d, s) => s.checkDesc asid d src
  | (_, _, s) => (.status 4, s)

/-- Whether `n` more launches can be held (R345). -/
def State.launchRoom (s : State) (n : Nat) : Bool := decide (s.launches.length + n ≤ 1024)

/-- A launch accepted: it takes the next LNCHID and is PENDING. -/
def State.accept (s : State) (l : Launch) : Nat × State :=
  (s.nextLaunch, { s with launches := s.launches.set s.nextLaunch l, nextLaunch := s.nextLaunch + 1 })

def State.setLaunch (s : State) (id : Nat) (l : Launch) : State := { s with launches := s.launches.set id l }

/-- One unit of a launch has ended; its first failure is kept. -/
def State.unitEnded (s : State) (id : Nat) (fail : Option LaunchFail) : State :=
  match s.launches.find id with
  | some l => s.setLaunch id { l with left := l.left - 1, fail := match l.fail with
      | some f => some f
      | none => fail }
  | none => s

/-! Graph nodes and batches (R354). -/

def State.setSlot (s : State) (asid slot : Nat) (g : GraphSlot) : State :=
  s.onCtx asid (fun c => { c with graphs := c.graphs.set slot g })

/-- An active slot changed. -/
def State.onSlot (s : State) (asid slot : Nat) (f : GraphSlot → GraphSlot) : State :=
  match (s.ctx asid).graphs.find slot with
  | some g => s.setSlot asid slot (f g)
  | none => s

def GraphSlot.node (g : GraphSlot) (n : Nat) : GraphNode := g.nodes.get n {}
def GraphSlot.setNode (g : GraphSlot) (n : Nat) (x : GraphNode) : GraphSlot := { g with nodes := g.nodes.put n x {} }

/-- Batches outstanding, and the records of batches whose ring slots are not free. -/
def GraphNode.outstanding (x : GraphNode) : Nat := (x.batches.filter (fun b => !b.isOver)).length
def GraphNode.heldRecords (x : GraphNode) : Nat := x.batches.foldl (fun a b => a + b.count) 0

/-- A batch of `n` records formed; the flush timer restarts while records remain. -/
def GraphNode.form (x : GraphNode) (cap n now : Nat) : GraphNode :=
  let first := (x.tail + cap - x.pend % cap) % cap
  { x with pend := x.pend - n, formed := (x.formed + 1) % 2 ^ 32, batches := x.batches ++ [{ seq := x.formed, first, count := n }],
           timer := if x.pend = n then none else some now }

/-- Every batch that a node can form now. -/
def GraphNode.formAll (t : List Byte) (n now : Nat) : Nat → GraphNode → GraphNode
  | 0, x => x
  | fuel + 1, x =>
    if tMaxb t n ≤ x.outstanding then x
    else if tTile t n ≤ x.pend then formAll t n now fuel (x.form (tCap t n) (tTile t n) now)
    else if x.flush then
      (if 0 < x.pend then { x.form (tCap t n) x.pend now with flush := false } else { x with flush := false })
    else x

/-- Batches that have ended leave from the front, so that their ring slots are freed in order. -/
def GraphNode.retire (x : GraphNode) : GraphNode := { x with batches := x.batches.dropWhile (·.isOver) }

/-- The class 1 record of a graph's failure: the activating LNCHID, the node number. -/
def State.nodeLog (s : State) (asid : Nat) (g : GraphSlot) (n cause ckind : Nat) : State :=
  s.log { cls := 1, asid, code := some (cause, ckind), launch := g.launch, addr := some n }

/-- The K0 block of a batch (R354). -/
def k0Block (t : List Byte) (n : Nat) (b : Batch) (own : List Byte) : List Byte :=
  toLe (tBase t n) 8 ++ toLe b.first 4 ++ toLe b.count 4 ++ toLe (tCap t n) 4 ++ toLe n 4 ++ toLe b.seq 4 ++ toLe 0 4 ++ own

/-- What happens to a batch's submission: it waits, it fails with a status, or its launch is ready. -/
def State.batchLaunch (s : State) (asid slot n : Nat) (g : GraphSlot) (b : Batch) : Checked × State :=
  let t := g.table
  let src : LaunchSource := .batch slot n b.seq
  -- the threshold: SMALL, or SMALLG of FULL's record
  let small : Checked × Nat × State :=
    if tSmall t n ≠ 0 then (.ok default, tSmall t n, s)
    else if tSmallk t n = 0 then (.ok default, 0, s)
    else match s.lcRead asid (tFull t n) 64 with
      | (.wait, _, s) => (.wait, 0, s)
      | (.ok, d, s) => (match s.lcRead asid (dCode d) 64 with
        | (.wait, _, s) => (.wait, 0, s)
        | (.ok, k, s) => (.ok default, bits (recNum k 0x30 4) 23 16, s)
        | (_, _, s) => (.status 4, 0, s))
      | (_, _, s) => (.status 4, 0, s)
  match small with
  | (.ok _, th, s) =>
    let a := if b.count < th ∧ tSmallk t n ≠ 0 then tSmallk t n else tFull t n
    match s.lcRead asid a 64 with
    | (.wait, _, s) => (.wait, s)
    | (.ok, d, s) =>
      if dKind d ≠ 0 then (.status 2, s)
      else
        let ka := (tBatcha t n + 64 * (b.seq % tMaxb t n)) % 2 ^ 64
        let own : LcPage × List Byte × State :=
          if dParam d = 0 then (.ok, List.replicate 32 0, s) else s.lcRead asid ((dParam d + 32) % 2 ^ 64) 32
        match own with
        | (.wait, _, s) => (.wait, s)
        | (.ok, w, s) =>
          match s.lcRange asid ka 64 .write with
          | (.wait, s) => (.wait, s)
          | (.ok, s) =>
            let d := patch (patch d 0xC (toLe 1 4 ++ toLe 1 2 ++ toLe 1 2)) 0x18 (toLe ka 8)
            match s.checkDesc asid d src with
            | (.ok l, s) => if s.launchRoom 1 then (.ok l, s.lcPut asid ka (k0Block t n b w)) else (.wait, s)
            | r => r
          | (_, s) => (.status 4, s)
        | (_, _, s) => (.status 4, s)
    | (_, _, s) => (.status 4, s)
  | (r, _, s) => (r, s)

/-- A batch of a node changed. -/
def GraphNode.onBatch (x : GraphNode) (seq : Nat) (f : Batch → Batch) : GraphNode :=
  { x with batches := x.batches.map (fun b => if b.seq = seq then f b else b) }

/-- The batches of a node that have no launch yet are submitted in order, until one must wait; those that fail are retired as if
DONE, and further batches may then be formed. -/
def State.submitBatches (s : State) (asid slot n : Nat) : Nat → State
  | 0 => s
  | fuel + 1 =>
    match (s.ctx asid).graphs.find slot with
    | none => s
    | some g =>
      let x := (g.node n).formAll g.table n s.ref 70000
      let s := s.setSlot asid slot (g.setNode n x)
      match x.batches.find? (fun b => b.launch.isNone && !b.isOver) with
      | none => s
      | some b =>
        match s.batchLaunch asid slot n g b with
        | (.wait, s) => s
        | (.status st, s) =>
          let x := (x.onBatch b.seq (fun b => { b with isOver := true })).retire
          ((s.setSlot asid slot (g.setNode n x)).nodeLog asid g n st 1).submitBatches asid slot n fuel
        | (.ok l, s) =>
          let r := s.accept l
          (r.2.setSlot asid slot (g.setNode n (x.onBatch b.seq (fun b => { b with launch := some r.1 })))).submitBatches
            asid slot n fuel

/-- A node's batches formed and submitted. -/
def State.kickNode (s : State) (asid slot n : Nat) : State := s.submitBatches asid slot n 70000

/-- What becomes of an append: taken, refused, or held up by a page that is MIGRATING (R395). -/
inductive Appended where
  | taken
  | refused
  | waits
  deriving DecidableEq, Repr, Inhabited

/-- One record appended to a node (R354, R357). A page that is not resident is asked for; one that grants no write is logged. -/
def State.appendRecord (s : State) (asid slot n : Nat) (rec : List Byte) : Appended × State :=
  match (s.ctx asid).graphs.find slot with
  | none => (.refused, s)
  | some g =>
    let x := g.node n
    let cap := tCap g.table n
    if tNodes g.table ≤ n ∨ g.enders ≠ [] ∨ cap ≤ x.pend + x.heldRecords then (.refused, s)
    else
      let a := (tBase g.table n + 64 * x.tail) % 2 ^ 64
      match s.lcRange asid a 64 .write with
      | (.ok, s) =>
        let s := s.lcPut asid a (rec.take 64)
        let x := { x with pend := x.pend + 1, tail := (x.tail + 1) % cap, timer := if x.pend = 0 then some s.ref else x.timer }
        (.taken, (s.setSlot asid slot (g.setNode n x)).kickNode asid slot n)
      | (.bad .protFault, s) => (.refused, s.nodeLog asid g n (Cause.protFault).code 0)
      | (.wait, t) => (match s.xlate s.ltlb asid a with
        | .notres _ => (.refused, t)
        | _ => (.waits, t))
      | (_, s) => (.refused, s)

/-- A graph whose ending has been asked for, and whose records and batches are all gone, is drained: its launches are over. -/
def State.drained (s : State) (asid slot : Nat) : State :=
  match (s.ctx asid).graphs.find slot with
  | some g =>
    if g.enders ≠ [] ∧ (List.range (tNodes g.table)).all (fun n => (g.node n).pend == 0 && (g.node n).batches.isEmpty) then
      let s := s.onCtx asid (fun c => { c with graphs := c.graphs.del slot })
      (g.launch :: g.enders).foldl (fun s id => s.unitEnded id none) s
    else s
  | none => s

/-- A batch's launch is DONE (R354). -/
def State.batchOver (s : State) (asid slot n seq : Nat) : State :=
  match (s.ctx asid).graphs.find slot with
  | some g =>
    let x := ((g.node n).onBatch seq (fun b => { b with isOver := true })).retire
    ((s.setSlot asid slot (g.setNode n x)).kickNode asid slot n).drained asid slot
  | none => s

/-! Drain entries whose module cannot be reached (R353). -/

/-- The status that keeps a drain entry from its module. -/
def State.drainBad (s : State) (asid : Nat) (t : List Byte) (e : Nat) : Option Nat :=
  match s.maddr (s.group asid (tGrp t e)).dead (tMaddr t e) with
  | .error st => some st
  | .ok (m, _, via) => match s.windowGate m via true true with
    | .bad st => some st
    | _ => none

/-- The drain entries of a slot looked at again: a class 5 record for each that stops and each that resumes. -/
def State.drainWatch (s : State) (asid slot : Nat) : State :=
  (List.range 8).foldl (fun s e =>
    match (s.ctx asid).graphs.find slot with
    | some g =>
      if tMaddr g.table e = 0 then s
      else
        let was := g.unreachable.contains e
        match s.drainBad asid g.table e with
        | some st =>
          if was then s
          else (s.setSlot asid slot { g with unreachable := g.unreachable ++ [e] }).log
            { cls := 5, asid, unit := some e, code := some (st, 2), launch := g.launch, addr := some (tMaddr g.table e).toNat }
        | none =>
          if was then (s.setSlot asid slot { g with unreachable := g.unreachable.filter (fun i => i != e) }).log
            { cls := 5, asid, unit := some e, code := some (0, 2), launch := g.launch, addr := some (tMaddr g.table e).toNat }
          else s
    | none => s) s

/-- Every active slot looked at again. -/
def State.drainWatchAll (s : State) : State :=
  s.ctxs.foldl (fun s e => e.2.graphs.foldl (fun s g => s.drainWatch e.1 g.1) s) s

/-! Release (R345, R346, R353). -/

/-- The stack cores that a stack kernel takes (R350). -/
def State.stackUnits (s : State) (l : Launch) : List (Nat × Nat) :=
  ((s.launchGroups l).map (fun g => ((List.range 64).filter (fun k => (dScMask l.desc).testBit k)).map (fun k => (g, k)))).flatten

/-- An ending launch released (R354). -/
def State.endSlot (s : State) (id : Nat) (l : Launch) : State :=
  let slot := recNum l.desc 0xC 4
  match (s.ctx l.asid).graphs.find slot with
  | none => s.setLaunch id { l with left := 0 }
  | some g =>
    let s := s.setLaunch id { l with left := 1, stage := 2 }
    if g.enders ≠ [] then s.setSlot l.asid slot { g with enders := g.enders ++ [id] }
    else
      let g := (List.range (tNodes g.table)).foldl (fun g n =>
        let x := g.node n
        if x.pend = 0 then g else g.setNode n { x with flush := true }) { g with enders := [id] }
      let s := s.setSlot l.asid slot g
      ((List.range (tNodes g.table)).foldl (fun s n => s.kickNode l.asid slot n) s).drained l.asid slot

/-- A launch released: its gate is open. -/
def State.release (s : State) (id : Nat) (l : Launch) : State :=
  let l := { l with stage := 1, rel := s.releases }
  let s := { s with releases := s.releases + 1 }
  match dKind l.desc with
  | 0 => s.setLaunch id { l with left := dBlocks l.desc }
  | 1 => let us := s.stackUnits l; s.setLaunch id { l with left := us.length, todo := us }
  | 2 =>
    let us := if dCores l.desc = 0 then [] else (dDies l.desc).map (fun d => (d, 0))
    s.setLaunch id { l with left := us.length, todo := us }
  | _ =>
    if dCode l.desc = 0 then s.endSlot id l
    else
      let slot := recNum l.desc 0xC 4
      if ((s.ctx l.asid).graphs.find slot).isSome then
        s.setLaunch id { l with left := 0, fail := some { cause := 2, ckind := 1 } }
      else
        ((s.setLaunch id { l with left := 1, stage := 2 }).setSlot l.asid slot { launch := id, table := l.table }).drainWatch
          l.asid slot

/-- A launch that fails before any of its units starts. -/
def State.failLaunch (s : State) (id : Nat) (l : Launch) (f : LaunchFail) : State :=
  s.setLaunch id { l with stage := 1, left := 0, next := dBlocks l.desc, fail := some f }

/-- GATE_OPEN (R345): the gate is read; a read that faults, or ends with a fabric status, fails the launch. -/
def execGateOpen (launch : Nat) (s : State) : Host.Outcome State Fault Refusal :=
  match s.launches.find launch with
  | some l =>
    let gate := dGate l.desc
    if l.stage ≠ 0 then .next s
    else if gate = 0 then done (s.release launch l)
    else match s.lcRange l.asid gate 8 .read with
      | (.ok, s) => if (sgn 64 (leNat (s.lcBytes l.asid gate 8))) ≤ 0 then done (s.release launch l) else done s
      | (.wait, s) => done s
      | (.bad c, s) => done (s.failLaunch launch l { cause := c.code, ckind := 0, addr := gate })
      | (.fabric st, s) => done (s.failLaunch launch l { cause := st, ckind := 2, addr := gate })
  | none => .next s

/-! The end of a launch (R346). -/

/-- The words of a timetable entry's flags (R351): RUN and SUSP as they now stand. -/
def State.entryFlags (s : State) (e : Nat) : State :=
  let x := s.timetable.get e {}
  let a := s.host0.ttbase / 64 * 64 + 64 * e + 0x18
  let v := setBits (setBits (s.hbm.num a 4) 27 27 (if x.run.isSome then 1 else 0)) 25 25 (if x.susp.isSome then 1 else 0)
  s.writeHbm a (toLe v 4)

def State.setEntry (s : State) (e : Nat) (x : Instance352) : State :=
  { s with timetable := s.timetable.put e x {} }.entryFlags e

/-- An instance of a timetable entry is DONE: a saved instance resumes (R352). -/
def State.instanceOver (s : State) (e id : Nat) : State :=
  let x := s.timetable.get e {}
  if x.run = some id then
    let s := s.setEntry e { x with run := x.susp, susp := none }
    match x.susp with
    | some o => match s.launches.find o with
      | some l => s.setLaunch o { l with suspended := false }
      | none => s
    | none => s
  else if x.susp = some id then s.setEntry e { x with susp := none }
  else s

/-- The subtraction of 1 from a signal (R346): as a release, at PACKAGE scope; or why it could not be performed. -/
def State.lcSignal (s : State) (asid a : Nat) : State :=
  let v := (leNat (s.lcBytes asid a 8) + 2 ^ 64 - 1) % 2 ^ 64
  let s := s.lcPut asid a (toLe v 8)
  match s.walk asid a with
  | .ok leaf base _ => s.releasedAt launchAgent 4 8 (placeOf leaf base a) true
  | _ => s

/-- A signal's page as the subtraction finds it. -/
def State.sigPage (s : State) (asid a : Nat) : LcPage := if a = 0 then .ok else s.lcPage asid a .both

/-- A launch's failure entered in the log. -/
def State.logFail (s : State) (id asid : Nat) (f : LaunchFail) : State :=
  s.log { cls := 1, asid, unit := some f.unit, code := some (f.cause, f.ckind), launch := id, addr := some f.addr }

/-- One signal of a launch that is over; a page that has not come within the bound counts as a fault. -/
def State.subtract (s : State) (id asid a : Nat) : State :=
  if a = 0 then s
  else match s.lcRange asid a 8 .both with
    | (.ok, s) => s.lcSignal asid a
    | (.bad c, s) => s.logFail id asid { cause := c.code, ckind := 0, addr := a }
    | (.fabric st, s) => s.logFail id asid { cause := st, ckind := 2, addr := a }
    | (.wait, s) => s.logFail id asid { cause := (Cause.pageFault).code, ckind := 0, addr := a }

/-- Whether every unit of a launch has ended. -/
def Launch.isOver (l : Launch) : Bool := l.stage != 0 && l.left == 0

/-- A launch DONE: its signals subtracted, its failure logged, and what submitted it told. -/
def State.launchOver (s : State) (id : Nat) (l : Launch) : State :=
  let s := (s.subtract id l.asid (dSig0 l.desc)).subtract id l.asid (dSig1 l.desc)
  let s := match l.fail with
    | some f => s.logFail id l.asid f
    | none => s
  let s := { s with launches := s.launches.del id }
  match l.src with
  | .program => s
  | .timetable e => s.instanceOver e id
  | .batch slot n seq => s.batchOver l.asid slot n seq

/-- LAUNCH_DONE (R346): the signals are subtracted, once their pages are there or 200 µs have passed (R395). -/
def execLaunchDone (launch : Nat) (s : State) : Host.Outcome State Fault Refusal :=
  match s.launches.find launch with
  | some l =>
    let sigs := [dSig0 l.desc, dSig1 l.desc]
    if !l.isOver then .next s
    else if sigs.all (fun a => s.sigPage l.asid a != .wait) ∨ l.sigWait.any (fun t => decide (t + ticksOf 200 ≤ s.ref)) then
      done (s.launchOver launch l)
    else
      let t := s.setLaunch launch { l with sigWait := some (l.sigWait.getD s.ref) }
      done (sigs.foldl (fun t a => if s.sigPage l.asid a = .wait then t.lcAsk l.asid a .both else t) t)
  | none => .next s

/-- BATCH_SUBMISSION_RETRY (R354). -/
def execBatchSubmissionRetry (asid slot node : Nat) (s : State) : Host.Outcome State Fault Refusal :=
  done ((s.kickNode asid slot node).drained asid slot)

/-- FLUSH_TIMER_EXPIRY (R354). -/
def execFlushTimerExpiry (asid slot node : Nat) (s : State) : Host.Outcome State Fault Refusal :=
  match (s.ctx asid).graphs.find slot with
  | some g =>
    let x := g.node node
    match x.timer with
    | some t0 =>
      if node < tNodes g.table ∧ 0 < x.pend ∧ tFlush g.table node ≠ 0 ∧ t0 + ticksOf (tFlush g.table node) ≤ s.ref ∧ !x.flush then
        done ((s.setSlot asid slot (g.setNode node { x with flush := true })).kickNode asid slot node)
      else .next s
    | none => .next s
  | none => .next s

/-- DRAIN_RECORD (R341, R427): the drain engine pops a record, appends it and writes the reply word; an entry whose module has
become reachable again, or no longer is, is logged first. -/
def execDrainRecord (asid slot entry : Nat) (s : State) : Host.Outcome State Fault Refusal :=
  let s := s.drainWatch asid slot
  match (s.ctx asid).graphs.find slot with
  | some g =>
    let x := tMaddr g.table entry
    if 8 ≤ entry ∨ x = 0 then done s
    else
      match s.drainBad asid g.table entry, s.maddr (s.group asid (tGrp g.table entry)).dead x with
      | none, .ok (m, base, via) =>
        match s.windowGate m via true true, s.queueHead m base with
        | .ok, some (head, tail, cap) =>
          if queueUsed head tail cap = 0 ∨ s.modPoison m base 12 ∨ s.modPoison m (base + 0x400 + 64 * (head % cap)) 64 then done s
          else
            let req := s.modBytes m (base + 0x400 + 64 * (head % cap)) 64
            let hd := recNum req 0 8
            match s.appendRecord asid slot (hd % 2 ^ 32) req with
            | (.waits, t) => done t
            | (r, t) =>
              let reply := toLe (bits hd 63 48 * 2 ^ 48 + (if r = .taken then 0 else 1)) 8
              let t := (t.command m via ⟨0x11, base, 0, 0, []⟩).2
              done (t.writeMod m (replyOff (tXgoff g.table entry) (bits hd 47 40) (bits hd 63 48)) reply via)
        | _, _ => done s
      | _, _ => done s
  | none => done s

/-! The instructions of class GRF (R355 to R358). -/

/-- LAUNCH and LAUNCHG issued: ALIGN_FAULT for a descriptor address that is not a multiple of 64. -/
def launchWord (fn : Fn) (w : RWord) (s : State) : Host.Outcome State Fault Refusal :=
  runVariable fn (.r w)
    (fun e => if e.srcA true 0 % 64 ≠ 0 then some (addrTrap .alignFault (e.srcA true 0)) else none)
    (fun e o => { o with dests := e.destRegs,
                         args := [BitVec.ofNat 64 (e.srcA true 0), BitVec.ofNat 64 (if fn = .launchg then e.srcB false 0 else 1)] }) s

def execLaunch (w : RWord) (s : State) : Host.Outcome State Fault Refusal := launchWord .launch w s
def execLaunchg (w : RWord) (s : State) : Host.Outcome State Fault Refusal := launchWord .launchg w s

/-- Descriptors of an array checked in order: the first that waits or fails decides; else the launches. -/
def State.checkAll (s : State) (asid a : Nat) : Nat → Nat → List Launch → (Option (Option Nat) × List Launch) × State
  | 0, _, acc => ((none, acc), s)
  | n + 1, i, acc =>
    match s.checkLaunch asid ((a + 64 * i) % 2 ^ 64) .program with
    | (.wait, s) => ((some none, []), s)
    | (.status st, s) => ((some (some st), []), s)
    | (.ok l, s) => s.checkAll asid a n (i + 1) (acc ++ [l])

/-- LAUNCH and LAUNCHG performed (R356), as a release. -/
def launchPerform (s : State) (c : Nat) (o : Op) : State :=
  let asid := (s.core c).asid
  let n := (o.arg 1).toNat
  let fin (s : State) (st count : Nat) : State :=
    if o.fn = .launch then completeOp s c o (podD1 o st) else completeOp s c o (podD2 o st count)
  if !(s.core c).releaseReady o.party o.id then s
  else if n < 1 ∨ 64 < n then fin s 2 0
  else
    match s.checkAll asid (o.arg 0).toNat n 0 [] with
    | ((some none, _), s) => s
    | ((some (some st), _), s) => fin s st 0
    | ((none, ls), s) =>
      if s.launchRoom n then fin (ls.foldl (fun s l => (s.accept l).2) s) 0 n
      else fin s 1 0

/-- The node and the slot that an NQ instruction names. -/
def execNqPush (w : RWord) (s : State) : Host.Outcome State Fault Refusal :=
  runVariable .nqPush (.r w) (fun e => e.podScratch (e.srcB false 0) (64 * (w.fld 5 0 + 1)))
    (fun e o => { o with dests := e.destRegs, args := [BitVec.ofNat 64 (e.srcA false 0), BitVec.ofNat 64 (e.srcB false 0)] }) s
def execNqFlush (w : RWord) (s : State) : Host.Outcome State Fault Refusal :=
  runVariable .nqFlush (.r w) (fun _ => none)
    (fun e o => { o with dests := e.destRegs, args := [BitVec.ofNat 64 (e.srcA false 0)] }) s
def execNqStat (w : RWord) (s : State) : Host.Outcome State Fault Refusal :=
  runVariable .nqStat (.r w) (fun _ => none)
    (fun e o => { o with dests := e.destRegs, args := [BitVec.ofNat 64 (e.srcA false 0)] }) s

/-- Records appended in order until one is refused or must wait: how many, and whether one waits. -/
def appendAll (asid slot n : Nat) : List (List Byte) → Nat → State → Nat × Bool × State
  | [], k, s => (k, false, s)
  | r :: rs, k, s =>
    match s.appendRecord asid slot n r with
    | (.taken, s) => appendAll asid slot n rs (k + 1) s
    | (.refused, s) => (k, false, s)
    | (.waits, s) => (k, true, s)

/-- The microseconds left of a node's flush timer, rounded up. -/
def GraphNode.remaining (x : GraphNode) (flush now : Nat) : Nat :=
  match x.timer with
  | some t0 => if flush = 0 then 0 else min ((t0 + ticksOf flush - now + 1249) / 1250) 0xFFFF
  | none => 0

/-- NQ.PUSH, NQ.FLUSH and NQ.STAT performed (R357). -/
def nqPerform (s : State) (c : Nat) (o : Op) (w : RWord) : State :=
  let k := s.core c
  let asid := k.asid
  let slot := w.fld 21 20
  let n := (o.arg 0).toNat
  let g := ((s.ctx asid).graphs.find slot).filter (fun g => decide (n < tNodes g.table))
  match o.fn with
  | .nqPush =>
    if !k.releaseReady o.party o.id then s
    else
      let r := appendAll asid slot n ((k.records (o.arg 1).toNat (w.fld 5 0 + 1)).drop o.pos) o.pos s
      if !r.2.1 then completeOp r.2.2 c o (podD1 o r.1)
      else r.2.2.setOp c { o with pos := r.1 }
  | .nqFlush =>
    (match g with
     | none => completeOp s c o (podD1 o 2)
     | some g =>
       let x := g.node n
       if x.pend = 0 then completeOp s c o (podD1 o 0x0A)
       else completeOp ((s.setSlot asid slot (g.setNode n { x with flush := true })).kickNode asid slot n) c o (podD1 o 0))
  | _ =>
    let wr (a b d e : Nat) : List Wr :=
      ([a, b, d, e].zipIdx).map (fun y => Wr.s (partyWarp o.party) (o.body.dIdx + y.2) (BitVec.ofNat 32 y.1))
    (match g with
     | none => completeOp s c o (wr 0 0 0 0x200)
     | some g =>
       let x := g.node n
       completeOp s c o (wr x.pend x.outstanding x.formed
         (x.remaining (tFlush g.table n) s.ref * 2 ^ 16 + (if g.enders = [] then 1 else 0))))

end Sys2Proof.Machine
end

