-- ==== Sys2Proof/Machine/StackCmd.lean ====
section
/-! DEFINITION. Commands from warps to stack cores (R264 to R271), the deferral buffers (R278) and the state that a
pre-empted stack core saves (R281). -/

namespace Sys2Proof.Machine

/-! The deferral buffer (R278). -/

/-- The stack core that holds a deferred operation performs it: its lane of the operation in flight. -/
def State.performDeferred (s : State) (d : Deferred) : State :=
  match (s.core d.core).findOp d.op with
  | some o => let r := atomLane s d.core o d.lane; atomSettle r.1 d.core r.2
  | none => s

/-- Every waiting operation whose row is no longer claimed is performed, in arrival order. -/
def State.drainDeferral (s : State) (g k : Nat) : State :=
  let x := s.sc g k
  let free (d : Deferred) : Bool := !rowClaimed x.claims (ownerOf d.addr).2.2
  let s := s.setSc g k { x with deferral := x.deferral.filter (fun d => !free d) }
  (x.deferral.filter free).foldl State.performDeferred s

/-- A deferred operation refused: its sender receives RETRY. -/
def State.refuseDeferred (s : State) (d : Deferred) : State :=
  match (s.core d.core).findOp d.op with
  | some o => atomSettle s d.core { o with todo := putBit o.todo d.lane false, bad := putBit o.bad d.lane true }
  | none => s

/-- DEFERRAL_TIMEOUT (R278). -/
def execDeferralTimeout (stack k entry : Nat) (s : State) : Host.Outcome State Fault Refusal :=
  let x := s.sc stack k
  match x.deferral[entry]? with
  | some d =>
    if d.since + ticksOf 100 ≤ s.ref then
      done ((s.setSc stack k { x with deferral := x.deferral.eraseIdx entry }).refuseDeferred d)
    else .next s
  | none => .next s

/-! Reports (R267). -/

/-- NR and STP of a command's word. -/
def cmdQuiet (b : Body) : Bool := match b with
  | .r w => w.mb 1
  | _ => true
def cmdStp (b : Body) : Nat := match b with
  | .r w => w.fld 5 2
  | _ => 15

/-- The report of one lane: its result pair, its status predicate, and the completion of the instruction once every lane has
reported. -/
def State.reportLane (s : State) (c op lane status : Nat) (result : Word64) : State :=
  match (s.core c).findOp op with
  | some o =>
    let w := partyWarp o.party
    let d := o.body.dIdx
    let r : Word64 := if status ≤ 0x7F then result else 0
    let wrs : List Wr :=
      (if o.fn = .nmx ∧ ¬ cmdQuiet o.body then
        [.v w d [(lane, r.setWidth 32)] (tagOf 6), .v w (d + 1) [(lane, (r >>> 32).setWidth 32)] (tagOf 6)] else []) ++
      (if cmdStp o.body = 15 ∨ o.fn = .nmxr then []
       else [.p w (cmdStp o.body) (putBit 0 lane true) (putBit 0 lane (status != 0))])
    let s := s.onCore c (fun k => wrs.foldl Core.land k)
    let o := { o with todo := putBit o.todo lane false }
    if o.todo = 0 then completeOp s c o [] else s.setOp c o
  | none => s

/-- A command removed from a queue, or ended, reports. -/
def State.report (s : State) (x : StackCmd) (status : Nat) (result : Word64) : State :=
  s.reportLane x.core x.op x.lane status result

/-- The commands of a stack core that `p` selects are cancelled (R270): queued entries report at once, the running one
stops before its next instruction. -/
def State.cancel (s : State) (g k : Nat) (p : StackCmd → Bool) : State :=
  let x := s.sc g k
  let running : Bool := match x.job with
    | .command _ => true
    | _ => false
  let head := if running then x.queue.take 1 else []
  let rest := if running then x.queue.drop 1 else x.queue
  let x := { x with queue := head ++ rest.filter (fun y => !p y) }
  let x := match x.job with
    | .command y =>
      if p y ∧ x.ending.isNone then x.finish 0x84 ((Config.freeWord s.fresh).toNat % 2 ^ 16) 0 else x
    | _ => x
  (rest.filter p).foldl (fun s y => s.report y 0x84 0) ({ s with fresh := s.fresh + 1 }.setSc g k x)

/-! Delivery (R264, R265). -/

/-- The stack that an instruction of class 0xA names. -/
def stackOf (c : Nat) (w : RWord) : Nat := if w.fld 21 17 = 31 then c / 4 else w.fld 21 17

/-- Whether a stack core is ready (R406). -/
def State.stackReady (s : State) (g : Nat) : Bool := s.ready.getLsbD (24 + g)

/-- Whether a stack kernel holds a stack core. -/
def SCore.held (x : SCore) : Bool := x.saved.isSome || (match x.job with
  | .kernel _ => true
  | _ => false)

/-- What R265 gives a lane instead of its target: a status, or the target's number. -/
def State.target (s : State) (c asid g n : Nat) : Except Nat Nat :=
  if 63 < n ∨ ¬ s.stackReady g then .error 0x85
  else if ¬ (s.ctx asid).sgrant.testBit g ∨ (s.sc g n).held then .error 0x81
  else .ok n

/-- One lane of an NMX or NMXB delivered: queued, or turned away. -/
def deliverLane (c : Nat) (id asid g loff : Nat) (load : Bool) (args : Nat → List Word64) (s : State) (l : Nat) : State :=
  match s.target c asid g (loff + l) with
  | .error st => s.reportLane c id l st 0
  | .ok n =>
    let x := s.sc g n
    if 8 ≤ x.queue.length then s.reportLane c id l 0x80 0
    else s.setSc g n { x with queue := x.queue ++ [{ core := c, op := id, lane := l, asid, load, args := args l }] }

/-- The status word of a stack core (R269). -/
def SCore.status (x : SCore) : Word64 :=
  let run : Bool := match x.job with
    | .command _ => true
    | _ => false
  BitVec.ofNat 64 (x.lastPc % 2 ^ 16 * 2 ^ 32 + (if x.held then 2 ^ 21 else 0) + (if run then 2 ^ 20 else 0) +
    x.queue.length * 2 ^ 16 + x.sticky % 2 ^ 7 * 2 ^ 8 + x.code)

/-- A command's identity, for those that an NMXC waits for. -/
def StackCmd.key (x : StackCmd) : Word64 := BitVec.ofNat 64 (x.core * 2 ^ 56 + x.lane * 2 ^ 50 + x.op % 2 ^ 50)

/-- One lane of an NMXC (R270): its status, and the command that it stops, if one runs. -/
def cancelLane (c asid g loff : Nat) (s : State) (l : Nat) : Bool × Option (Nat × Word64) × State :=
  match s.target c asid g (loff + l) with
  | .error _ => (true, none, s)
  | .ok n =>
    let run := match (s.sc g n).job with
      | .command y => if y.asid = asid then some (n, y.key) else none
      | _ => none
    (false, run, s.cancel g n (fun y => y.asid == asid))

/-- Whether a cancelled command has reported. -/
def State.reported (s : State) (g n : Nat) (key : Word64) : Bool :=
  match (s.sc g n).job with
  | .command y => y.key != key
  | _ => true

/-- An instruction of class 0xA delivered, or an NMXC that may have become complete. NMX and NMXB are delivered in issue
order, after the stores and atomics that their warp issued before them in the compute stream (R267). -/
def stackDeliver (s : State) (c : Nat) (o : Op) (w : RWord) : State :=
  let asid := (s.core c).asid
  let g := stackOf c w
  let loff := w.fld 16 11
  let earlier := (s.core c).ops.any (fun e => decide (e.id < o.id) && e.party == o.party && e.eng == some 2 && e.stage == .go)
  let lanes := opLanes o
  if o.stage = .held then
    (if o.fn = .nmxc ∧ o.outs.all (fun e => s.reported g e.1 e.2) then completeOp s c o [] else s)
  else if earlier ∨ o.stage ≠ .go then s
  else
    match o.fn with
    | .nmx =>
      if !(s.core c).writesDone o.party o.id then s
      else lanes.foldl (deliverLane c o.id asid g loff false (fun l =>
        [o.arg 0, (o.data.get (2 * l) 0).setWidth 64 ||| ((o.data.get (2 * l + 1) 0).setWidth 64 <<< 32),
         BitVec.ofNat 64 (w.fld 10 6)])) (s.setOp c { o with stage := .held, todo := o.lanes })
    | .nmxb =>
      lanes.foldl (deliverLane c o.id asid g loff true (fun _ => o.args)) (s.setOp c { o with stage := .held, todo := o.lanes })
    | .nmxr =>
      let word (l : Nat) : Word64 := match s.target c asid g (loff + l) with
        | .error st => BitVec.ofNat 64 st
        | .ok n => (s.sc g n).status
      let wr (hi : Nat) : Wr := .v (partyWarp o.party) (o.body.dIdx + hi)
        (lanes.map (fun l => (l, (word l >>> (32 * hi)).setWidth 32))) (tagOf 6)
      completeOp s c o [wr 0, wr 1]
    | .nmxc =>
      let r := lanes.foldl (fun acc l =>
        let x := cancelLane c asid g loff acc.2.2 l
        (putBit acc.1 l x.1, acc.2.1 ++ x.2.1.toList, x.2.2)) ((0 : Lanes), ([] : List (Nat × Word64)), s)
      let s := if cmdStp o.body = 15 then r.2.2
        else r.2.2.onCore c (fun k => k.land (.p (partyWarp o.party) (cmdStp o.body) o.lanes r.1))
      let o := { o with stage := .held, outs := r.2.1.foldl (fun m e => m.set e.1 e.2) [] }
      if o.outs.all (fun e => s.reported g e.1 e.2) then completeOp s c o [] else s.setOp c o
    | _ => s

/-! The instructions. -/

def execNmx (w : RWord) (s : State) : Host.Outcome State Fault Refusal :=
  runVariable .nmx (.r w) Env.badCheck (fun e o =>
    { o with args := [BitVec.ofNat 64 (e.srcA false 0)], dests := e.destRegs,
             data := (e.active.map (fun l =>
               let b := e.srcB true l
               [(2 * l, BitVec.ofNat 32 b), (2 * l + 1, BitVec.ofNat 32 (b / 2 ^ 32))])).flatten }) s
def execNmxb (w : RWord) (s : State) : Host.Outcome State Fault Refusal :=
  runVariable .nmxb (.r w) (fun _ => none) (fun e o =>
    { o with args := [BitVec.ofNat 64 (e.srcA true 0), BitVec.ofNat 64 (e.srcB false 0)] }) s
def execNmxr (w : RWord) (s : State) : Host.Outcome State Fault Refusal :=
  runVariable .nmxr (.r w) (fun _ => none) (fun e o => { o with dests := e.destRegs }) s
def execNmxc (w : RWord) (s : State) : Host.Outcome State Fault Refusal :=
  runVariable .nmxc (.r w) (fun _ => none) (fun _ o => o) s

/-! The events of a command. -/

/-- A stack core at the start of a command or kernel (R267). -/
def SCore.start (x : SCore) (job : StackJob) (entry : Nat) (arg : Word64) (clk : Nat) : SCore :=
  { x with pc := entry, x := x.x.put 1 arg 0, sflags := 0, rets := [], claims := [], f := [], job, ending := none,
           started := clk, ready := clk, wlo := x.nwbase, whi := x.nwlim }

/-- STACK_COMMAND_START (R267). -/
def execStackCommandStart (stack k : Nat) (s : State) : Host.Outcome State Fault Refusal :=
  let x := s.sc stack k
  match x.queue, x.job with
  | y :: _, .idle =>
    if y.load ∨ x.saved.isSome then .next s
    else
      let entry := ((y.args[0]?).getD 0).toNat
      let x := x.start (.command y) entry ((y.args[1]?).getD 0) s.sclk
      if entry % 4 ≠ 0 ∨ 32756 < entry then
        done ({ s with fresh := s.fresh + 1 }.setSc stack k (x.finish 0x82 ((Config.freeWord s.fresh).toNat % 2 ^ 16) 0))
      else done (s.setSc stack k x)
  | _, _ => .next s

/-- The aligned 16-byte chunks that hold an NMXB image, as the copy engine reads them (R268); none of them crosses a page. -/
def imageChunks (o : Op) : List Chunk :=
  let n := bits (o.arg 1).toNat 31 16 * 4
  let a := (o.arg 0).toNat
  (List.range ((a % 16 + n + 15) / 16)).map (fun i => ⟨.mem ((a - a % 16 + 16 * i) % 2 ^ 64), .wb 0, 0, 128, 0⟩)

/-- The end of a load entry: it leaves the queue and reports. -/
def State.endLoad (s : State) (g k : Nat) (y : StackCmd) (status : Nat) : State :=
  let x := s.sc g k
  (s.setSc g k { x with queue := x.queue.drop 1, code := status, sticky := 0,
                        lastPc := (Config.freeWord s.fresh).toNat % 2 ^ 16 }).report y status 0

/-- NMXB_LOAD_ENTRY (R268): the image is read once, at the first of its entries; `readable` tells that its data are not
lost. -/
def execNmxbLoadEntry (stack k : Nat) (readable : Bool) (s : State) : Host.Outcome State Fault Refusal :=
  let x := s.sc stack k
  match x.queue, x.job with
  | y :: _, .idle =>
    if !y.load || x.saved.isSome then .next s
    else
      match (s.core y.core).findOp y.op with
      | none => .next s
      | some o =>
        let off := bits (o.arg 1).toNat 15 0
        let n := bits (o.arg 1).toNat 31 16 * 4
        let s := { s with fresh := s.fresh + 1 }
        if off % 4 ≠ 0 ∨ 32768 < off + n then done (s.endLoad stack k y 0x82)
        else if o.status = 2 then done (s.endLoad stack k y 0x86)
        else
          let write (s : State) (bs : List Byte) : State :=
            (s.onSc stack k (fun x => { x with imem := x.imem.putBytes off bs })).endLoad stack k y 0
          if o.status = 1 ∨ n = 0 then done (write s o.bytes)
          else
            let xs := imageChunks o
            let pages := (xs.map (chunkPages s y.core o)).flatten
            if s.shootPending (s.core y.core).asid then .next s
            else if pages.any (fun e => e.2.2 == .refused || e.2.2 == .denied || e.2.2 == .fabric) then
              done ((s.setOp y.core { o with status := 2 }).endLoad stack k y 0x86)
            else if xs.all (chunkReady s y.core o) then
              if readable then
                let bs := (xs.map (fun c => toLe (readSide s y.core o .read c.src).1 16)).flatten.drop ((o.arg 0).toNat % 16) |>.take n
                done (write (s.setOp y.core { o with status := 1, bytes := bs }) bs)
              else done ((s.setOp y.core { o with status := 2 }).endLoad stack k y 0x86)
            else done (askPages s y.core o xs)
  | _, _ => .next s

/-- STACK_COMMAND_TIMEOUT (R267). -/
def execStackCommandTimeout (stack k : Nat) (s : State) : Host.Outcome State Fault Refusal :=
  let x := s.sc stack k
  match x.job with
  | .command y =>
    if x.ending.isNone ∧ x.started + 2 ^ (((y.args[2]?).getD 0).toNat + 10) ≤ s.sclk then
      done ({ s with fresh := s.fresh + 1 }.setSc stack k (x.finish 0x83 ((Config.freeWord s.fresh).toNat % 2 ^ 16) 0))
    else .next s
  | _ => .next s

/-- The end of what a stack core ran: its claims are released, it is idle, and its status is kept. -/
def State.settle (s : State) (g k : Nat) : State :=
  (s.onSc g k (fun x => { x with claims := [], job := .idle, ending := none })).drainDeferral g k

/-- One stack core of a kernel's launch has ended (R346): a status above 0x7F fails the launch. -/
def State.kernelEnded (s : State) (id g k status : Nat) : State :=
  match s.launches.find id with
  | some l =>
    let fail : Option LaunchFail :=
      if status ≤ 0x7F then none else some { cause := status, ckind := 3, unit := scKey g k, addr := (s.sc g k).kpc }
    { s with launches := s.launches.set id { l with left := l.left - 1, fail := match l.fail with
        | some f => some f
        | none => fail } }
  | none => s

/-- STACK_COMMAND_REPORT (R267): once the bank DMAs of the command, or of the kernel, have completed. -/
def execStackCommandReport (stack k : Nat) (s : State) : Host.Outcome State Fault Refusal :=
  let x := s.sc stack k
  match x.job, x.ending with
  | .command y, some st =>
    if x.dmas.isEmpty then
      let s := (s.onSc stack k (fun x => { x with queue := x.queue.drop 1 })).settle stack k
      done (s.report y st x.result)
    else .next s
  | .kernel id, some st => if x.dmas.isEmpty then done ((s.settle stack k).kernelEnded id stack k st) else .next s
  | _, _ => .next s

/-- The physical address of a near address (R388). -/
def nearPa (g k near : Nat) : Nat := g * stackBytes + k * sliceBytes + near

/-- A write of a stack core's DMA engine: each sector is invalidated at its home before it is performed (R273). After a fence with
release effect it counts as a release of the stack core, a member of STACK scope and wider (R20, R286). -/
def State.dmaWrite (s : State) (g k pa : Nat) (bs : List Byte) : State :=
  let s := (sectorsOf pa bs.length).foldl State.dropSector s
  let rel := (s.sc g k).fenced.map (fun x => (stackAgent g k, x))
  let s := if s.rels.isEmpty && rel.isNone then s else s.onRels pa bs.length (fun r => r.written rel false)
  { s with hbm := s.hbm.putBytes pa bs }

/-- An uncorrectable error in a stack core, noted for the log (R415). -/
def State.noteStack (s : State) (g k : Nat) : State :=
  { s with errors := s.errors ++ [⟨3, (s.sc g k).asid, g * 64 + k, 0, none⟩] }

/-- BANK_DMA_COMPLETION (R273). A read that meets an uncorrectable error delivers bytes that the spec does not state (log 6)
and ends the command or kernel with DATA_ERROR. -/
def execBankDmaCompletion (stack k dma : Nat) (dataError : Bool) (s : State) : Host.Outcome State Fault Refusal :=
  let x := s.sc stack k
  match x.dmas.find? (fun d => d.id == dma) with
  | none => .next s
  | some d =>
    let pa := nearPa stack k d.near
    let x := { x with dmas := x.dmas.filter (fun y => y.id != dma), f := x.f.put d.flag (x.f.get d.flag 0 - 1) 0 }
    if d.load then
      let bs := if dataError then (List.range d.len).map (fun i => Config.freeByte (s.fresh + i)) else s.hbmBytes pa d.len
      let x := { x with scratch := x.scratch.putBytes d.scr bs }
      let x := if dataError ∧ x.ending.isNone ∧ x.job ≠ .idle then x.finish 0x9A x.pc 0 else x
      let s := if dataError then s.noteStack stack k else s
      done ({ s with fresh := s.fresh + (if dataError then d.len else 0) }.setSc stack k x)
    else done ((s.setSc stack k x).dmaWrite stack k pa (x.scratch.getBytes d.scr d.len))

/-- An uncorrectable error in X, Z, the scratchpad or the instruction memory of a stack core, which its next instruction meets (R266): the
command or kernel ends with DATA_ERROR. -/
def State.stackError (s : State) (g k : Nat) : State :=
  let x := s.sc g k
  if x.ending.isNone ∧ x.job ≠ .idle then (s.noteStack g k).setSc g k (x.finish 0x9A x.pc 0) else s

/-! The save of a stack core (R281). -/

/-- The bytes that a pre-empted stack core writes into its save area. -/
def SCore.image (x : SCore) : List Byte :=
  let claims := x.claims.take 16
  let m : FMap Byte := []
  let m := (List.range 32).foldl (fun m i => m.putNum (8 * i) 8 (x.xreg i).toNat) m
  let m := (List.range 32).foldl (fun m i => m.putNum (0x100 + 64 * i) 64 (x.zreg i).toNat) m
  let m := ((m.putNum 0x900 8 x.pc).putNum 0x908 8 x.sflags.toNat).putNum 0x910 8 x.rets.length
  let m := (x.rets.reverse.zipIdx).foldl (fun m e => m.putNum (0x918 + 8 * e.2) 8 e.1) m
  let m := m.putNum 0x998 8 claims.length
  let m := (claims.zipIdx).foldl (fun m e =>
    (m.putNum (0x9A0 + 16 * e.2) 8 e.1.lo).putNum (0x9A8 + 16 * e.2) 8 (e.1.hi - e.1.lo)) m
  m.getBytes 0 0x1000 ++ x.imem.getBytes 0 0x8000 ++ x.scratch.getBytes 0 0x20000

/-- The stack core that a save area describes: its claims are re-taken. -/
def SCore.fromImage (x : SCore) (bs : List Byte) : SCore :=
  let m : FMap Byte := FMap.putBytes [] 0 (bs.take 0x1000)
  { x with
    x := (List.range 32).foldl (fun r i => r.put i (BitVec.ofNat 64 (m.num (8 * i) 8)) 0) [],
    z := (List.range 32).foldl (fun r i => r.put i (BitVec.ofNat 512 (m.num (0x100 + 64 * i) 64)) 0) [],
    pc := m.num 0x900 8, sflags := BitVec.ofNat 32 (m.num 0x908 8),
    rets := ((List.range (m.num 0x910 8)).map (fun i => m.num (0x918 + 8 * i) 8)).reverse,
    claims := (List.range (m.num 0x998 8)).map (fun i =>
      let lo := m.num (0x9A0 + 16 * i) 8
      ⟨lo, lo + m.num (0x9A8 + 16 * i) 8⟩),
    imem := FMap.putBytes [] 0 ((bs.drop 0x1000).take 0x8000),
    scratch := FMap.putBytes [] 0 ((bs.drop 0x9000).take 0x20000), f := [] }

/-- The near address of the save area. -/
def saveNear : Nat := 0x5FF00000

end Sys2Proof.Machine
end

