-- ==== Sys2Proof/Machine/StackCore.lean ====
section
/-! DEFINITION. The instructions that exist only in the stack profile (R272 to R277): scratchpad and vector instructions,
bank DMA, row claims, CMDEND. -/

namespace Sys2Proof.Machine

/-! Claims (R277). -/

/-- NEAR_RANGE of a range of `len` bytes (R260). -/
def SCore.nearOk (x : SCore) (a len : Nat) : Bool :=
  decide (x.wlo ≤ a) && decide (a + len ≤ x.whi) && decide (a + len ≤ saveNear)

/-- The operands A and B of a word, X registers. -/
def SEnv.xa (e : SEnv) : Nat := (e.sc.xreg e.rw.a.toNat).toNat
def SEnv.xb (e : SEnv) : Nat := (e.sc.xreg e.rw.b.toNat).toNat
def SEnv.xd (e : SEnv) : Nat := (e.sc.xreg e.rw.d.toNat).toNat

/-- RCLAIM. -/
def execRclaim (w : RWord) (s : State) : Host.Outcome State Fault Refusal :=
  runStackCore .rclaim (.r w) (fun e x =>
    let p (b : Bool) (x : SCore) : SCore := { x with sflags := putBit x.sflags w.d.toNat b }
    if e.xb = 0 then .ok (p true x)
    else if !x.nearOk e.xa e.xb then .error nearRange
    else if x.claims.length < 16 then .ok (p true { x with claims := x.claims ++ [⟨e.xa, e.xa + e.xb⟩] })
    else .ok (p false x)) s

/-- RREL: the entries that meet the range are released, and what waited for them is performed (R278). -/
def execRrel (w : RWord) (s : State) : Host.Outcome State Fault Refusal :=
  runStack .rrel (.r w) (fun e x =>
    let keep (c : Claim) : Bool := !w.mb 0 && !(decide (c.lo < e.xa + e.xb) && decide (e.xa < c.hi) && decide (0 < e.xb))
    .ok ((e.s.setSc e.g e.k { x with claims := x.claims.filter keep }).drainDeferral e.g e.k)) s

/-! Bank DMA (R273). -/

/-- BDMA.LD and BDMA.ST. -/
def bankDma (fn : Fn) (w : RWord) (load : Bool) (s : State) : Host.Outcome State Fault Refusal :=
  runStackWhen fn (.r w) (fun e => decide (e.sc.dmas.length < 8)) (fun e x =>
    let near := e.xa
    let len := e.xb
    let scr := e.xd
    if scr % 64 ≠ 0 ∨ near % 64 ≠ 0 ∨ len % 64 ≠ 0 then .error (stackStatus .alignFault)
    else if 0x20000 < scr + len then .error (stackStatus .scratchRange)
    else if len = 0 then .ok (e.s.setSc e.g e.k x)
    else if !x.nearOk near len then .error nearRange
    else
      let n := e.ctl.setf.toNat
      .ok (e.s.setSc e.g e.k { x with
        dmas := x.dmas ++ [{ id := x.nextDma, load, near, scr, len, flag := n }], nextDma := x.nextDma + 1,
        f := if n = 0 then x.f else x.f.put n (x.f.get n 0 + 1) 0 })) s

def execBdmaLd (w : RWord) (s : State) : Host.Outcome State Fault Refusal := bankDma .bdmaLd w true s
def execBdmaSt (w : RWord) (s : State) : Host.Outcome State Fault Refusal := bankDma .bdmaSt w false s

/-! The scratchpad (R272). -/

/-- The address of a scratchpad access, or its trap. -/
def SEnv.scrAddr (e : SEnv) (size : Nat) : Except Nat Nat :=
  let off := sgn 16 (e.rw.fld 15 0)
  let a := (((e.xa : Int) + off * (size : Int)) % (2 ^ 64 : Int)).toNat
  if a % size ≠ 0 then .error (stackStatus .alignFault)
  else if 0x20000 < a + size then .error (stackStatus .scratchRange)
  else .ok a

def execXld (w : RWord) (s : State) : Host.Outcome State Fault Refusal :=
  let n := 2 ^ w.fld 21 19
  runStackCore .xld (.r w) (fun e x => match e.scrAddr n with
    | .error t => .error t
    | .ok a =>
      let v := x.scratch.num a n
      .ok (x.setX w.d.toNat (if w.mb 18 then BitVec.ofNat 64 (wrapInt 64 (sgn (8 * n) v)) else BitVec.ofNat 64 v))) s

def execXst (w : RWord) (s : State) : Host.Outcome State Fault Refusal :=
  let n := 2 ^ w.fld 21 19
  runStackCore .xst (.r w) (fun e x => match e.scrAddr n with
    | .error t => .error t
    | .ok a => .ok { x with scratch := x.scratch.putNum a n e.xd }) s

def execZld (w : RWord) (s : State) : Host.Outcome State Fault Refusal :=
  runStackCore .zld (.r w) (fun e x => match e.scrAddr 64 with
    | .error t => .error t
    | .ok a => .ok (x.setZ w.d.toNat (BitVec.ofNat 512 (x.scratch.num a 64)))) s

def execZst (w : RWord) (s : State) : Host.Outcome State Fault Refusal :=
  runStackCore .zst (.r w) (fun e x => match e.scrAddr 64 with
    | .error t => .error t
    | .ok a => .ok { x with scratch := x.scratch.putNum a 64 (x.zreg w.d.toNat).toNat }) s

/-! The vector instructions (R274). -/

/-- A vector instruction on all 32 lanes: each lane's result and flags from the lanes of A, B and D. -/
def vecZ (fn : Fn) (w : RWord) (f : Nat → Nat → Nat → Nat × Nat) (s : State) : Host.Outcome State Fault Refusal :=
  runStackCore fn (.r w) (fun _ x =>
    let a := x.zreg w.a.toNat
    let b := x.zreg w.b.toNat
    let d := x.zreg w.d.toNat
    let r (i : Nat) : Nat × Nat := f (zLane a i) (zLane b i) (zLane d i)
    .ok ((x.setZ w.d.toNat (zOf (fun i => (r i).1))).addSticky ((List.range 32).foldl (fun acc i => acc ||| (r i).2) 0))) s

/-- An arithmetic instruction: F16 with one rounding, or 16-bit integers that wrap. -/
def zArith (fn : Fn) (w : RWord) (f : Nat → Nat → Nat × Nat) (g : Nat → Nat → Nat) (s : State) :
    Host.Outcome State Fault Refusal :=
  vecZ fn w (fun a b _ => if w.ty = 9 then f a b else (g a b % 2 ^ 16, 0)) s

def execZadd (w : RWord) (s : State) : Host.Outcome State Fault Refusal :=
  zArith .zadd w (addF (fmtOf 9) .rn false) (fun a b => a + b) s
def execZsub (w : RWord) (s : State) : Host.Outcome State Fault Refusal :=
  zArith .zsub w (subF (fmtOf 9) .rn false) (fun a b => a + 2 ^ 16 - b) s
def execZmul (w : RWord) (s : State) : Host.Outcome State Fault Refusal :=
  zArith .zmul w (mulF (fmtOf 9) .rn false) (fun a b => a * b) s

/-- The smaller or the larger of two lanes. -/
def zPick (ty : Nat) (wantMax : Bool) (a b : Nat) : Nat × Nat :=
  if ty = 9 then minMaxF (fmtOf 9) wantMax false a b
  else if decide (intVal ty 16 a < intVal ty 16 b) = wantMax then (b, 0) else (a, 0)

def execZmin (w : RWord) (s : State) : Host.Outcome State Fault Refusal := vecZ .zmin w (fun a b _ => zPick w.ty false a b) s
def execZmax (w : RWord) (s : State) : Host.Outcome State Fault Refusal := vecZ .zmax w (fun a b _ => zPick w.ty true a b) s

def execZcmp (w : RWord) (s : State) : Host.Outcome State Fault Refusal :=
  vecZ .zcmp w (fun a b _ =>
    let r := if w.ty = 9 then floatCond (w.fld 2 0) (decodeF (fmtOf 9) a) (decodeF (fmtOf 9) b)
      else (intCond (w.fld 2 0) (intVal w.ty 16 a) (intVal w.ty 16 b), 0)
    (if r.1 then 0xFFFF else 0, r.2)) s

def execZsel (w : RWord) (s : State) : Host.Outcome State Fault Refusal :=
  vecZ .zsel w (fun a b d => ((a &&& d) ||| (b &&& (0xFFFF - d)), 0)) s

def execZcvt (w : RWord) (s : State) : Host.Outcome State Fault Refusal :=
  vecZ .zcvt w (fun a _ _ =>
    let r := convElem w.ty (w.fld 3 0) (w.fld 17 16) false (w.mb 14) a 0
    (r.val, r.fl)) s

def execZbcast (w : RWord) (s : State) : Host.Outcome State Fault Refusal :=
  runStackCore .zbcast (.r w) (fun e x =>
    let v := if w.mb 5 then zLane (x.zreg w.a.toNat) (w.fld 4 0) else e.xa % 2 ^ 16
    .ok (x.setZ w.d.toNat (zOf (fun _ => v)))) s

/-- ZRED: a chain over the lanes, rounded at each step. -/
def execZred (w : RWord) (s : State) : Host.Outcome State Fault Refusal :=
  runStackCore .zred (.r w) (fun e x =>
    let z := x.zreg w.a.toNat
    let op (a b : Nat) : Nat × Nat := match w.fld 1 0 with
      | 0 => if w.ty = 9 then addF (fmtOf 9) .rn false a b else ((a + b) % 2 ^ 16, 0)
      | 1 => zPick w.ty false a b
      | _ => zPick w.ty true a b
    let r := (List.range 32).foldl (fun acc i =>
      let y := op acc.1 (zLane z i)
      (y.1, acc.2 ||| y.2)) (e.xd % 2 ^ 16, 0)
    .ok ((x.setX w.d.toNat (BitVec.ofNat 64 r.1)).addSticky r.2)) s

/-- ZMOV; mode 0b11 reads SFLAGS and clears its sticky bits (R263). -/
def execZmov (w : RWord) (s : State) : Host.Outcome State Fault Refusal :=
  runStackCore .zmov (.r w) (fun e x =>
    let lane := w.fld 6 2
    match w.fld 1 0 with
    | 0 => .ok (x.setZ w.d.toNat (x.zreg w.a.toNat))
    | 1 =>
      let z := x.zreg w.d.toNat
      .ok (x.setZ w.d.toNat (zOf (fun i => if i = lane then e.xa % 2 ^ 16 else zLane z i)))
    | 2 => .ok (x.setX w.d.toNat (BitVec.ofNat 64 (zLane (x.zreg w.a.toNat) lane)))
    | _ => .ok { x.setX w.d.toNat (x.sflags.setWidth 64) with sflags := x.sflags &&& 0xF }) s

/-- CMDEND (R275). -/
def execCmdend (w : RWord) (s : State) : Host.Outcome State Fault Refusal :=
  runStackCore .cmdend (.r w) (fun e x => .ok (x.finish (w.fld 6 0) e.sc.pc (e.sc.xreg w.a.toNat))) s

end Sys2Proof.Machine
end

