-- ==== Sys2Proof/Machine/Place.lean ====
section
/-! DEFINITION. Placement (R348 to R350): blocks on cores, stack kernels on stack cores, weight-store writes; pre-emption requests
and the end of a block (R233, R376, R378). -/

namespace Sys2Proof.Machine

/-! Scrubbing (R417). -/

/-- A core scrubbed for another context. -/
def Core.scrubbed (k : Core) : Core :=
  { k with warps := [], scratch := [], wbuf := [], codebook := [], tiles := [], shapes := [], tags := 0, busy := 0, tagerr := 0,
           tagrec := [], bars := [], sys := [], mst := {}, tlb := [], ctlb := [], kvc := [], bloom := [], l1 := [] }

/-- A stack core scrubbed and given to a context with an empty near window (R260, R417). -/
def grantedStackCore (asid : Nat) : SCore := { asid }

/-! The start of a block. -/

/-- A warp at block start (R96, R98, R176). -/
def warpStart (k : Kernel) (clk : Nat) : Warp :=
  { splits := [(0, { pc := k.centry, m := lowLanes k.w, ready := clk })], en := lowLanes k.w, live := lowLanes k.w,
    acc := { apc := k.aentry, slip := k.slip, ready := clk } }

/-- A block started on a core (R83, R202, R211, R294, R369): the scratchpad, the weight buffer and the codebook keep what the core
holds; what happened before the launch happens before its accesses, so that nothing older stays in L1 (R347). -/
def State.startBlock (s : State) (c id : Nat) (l : Launch) (b relaunch area : Nat) : State :=
  let k := s.core c
  let k := if k.tenant = l.asid + 1 then k else k.scrubbed
  let kr := l.kernel
  let g := dGrid l.desc
  let blk : Block :=
    { launch := id, asid := l.asid, b, blk := (b % g.1, b / g.1 % g.2.1, b / g.1 / g.2.1), grd := g, kernel := kr, relaunch,
      savebase := area }
  s.setCore c
    { k with block := some blk, warps := (List.range kr.nwarps).map (fun w => (w, warpStart kr s.clk)), tiles := [], shapes := [],
             tags := 0, busy := 0, tagerr := 0, tagrec := [],
             bars := (l.expects.zipIdx).map (fun e => (e.2, { expect := e.1 })), sys := [],
             ptrap := (s.ctx l.asid).ptrap, haltclk := 0, halt := none, mst := { mpc := kr.mentry, ready := s.clk }, array := [],
             latch := {}, ops := [], pends := [], replays := [], marks := [], fenced := [], fmarks := [], nmarks := [], quads := [], preempt := none,
             reserved := none, l1 := [], redRead := [],
             tenant := l.asid + 1 }

/-! Which unit goes where (R348). -/

/-- Whether a die's weight store waits to be written, so that no block is placed on the die (R32). -/
def State.dieBlocked (s : State) (d : Nat) : Bool :=
  s.zeroing.contains d || s.launches.any (fun e => dKind e.2.desc == 2 && e.2.stage != 0 && e.2.todo.contains (d, 0))

/-- The next unplaced block of a launch, lowest first, and its number among those that left a core. -/
def State.nextUnit (s : State) (id : Nat) (l : Launch) : Option (Nat × Option Nat) :=
  let aways := (s.away.filter (fun e => e.2.launch == id)).map (fun e => (e.2.b, some e.1))
  let fresh : List (Nat × Option Nat) := if l.next < dBlocks l.desc then [(l.next, none)] else []
  (fresh ++ aways).foldl (fun acc x => match acc with
    | some y => if x.1 < y.1 then some x else some y
    | none => some x) none

/-- Whether a launch still has blocks to place. -/
def State.wants (s : State) (id : Nat) : Bool := match s.launches.find id with
  | some l => dKind l.desc == 0 && l.stage != 0 && !l.suspended && (s.nextUnit id l).isSome
  | none => false

/-- Whether a core can take a block of a launch. -/
def State.coreOk (s : State) (id : Nat) (l : Launch) (c : Nat) : Bool :=
  let k := s.core c
  k.block.isNone && (s.launchGroups l).contains (c / 4) && !s.dieBlocked (dieOf c) &&
    (match k.reserved with
     | some r => r == id || !s.wants r
     | none => true)

/-- The core for a unit: the lowest free one; for blocks that are restored together, once all of them are saved, their positions in one stack
group (R255). -/
def State.coreFor (s : State) (id : Nat) (l : Launch) (away : Option Nat) : Option Nat :=
  let x := match away with
    | some n => s.away.find n
    | none => none
  match x with
  | some { tie := some (t, pos), group := some g, .. } => if s.coreOk id l (4 * g + pos) then some (4 * g + pos) else none
  | some { tie := some (t, pos), .. } =>
    let mates := s.away.filterMap (fun e => match e.2.tie with
      | some (u, p) => if u = t then some p else none
      | none => none)
    if s.cores.any (fun e => e.2.block.isSome && (e.2.preempt.bind (·.tie)) == some t) then none
    else ((s.launchGroups l).find? (fun g => mates.all (fun p => s.coreOk id l (4 * g + p)))).map (fun g => 4 * g + pos)
  | _ => (List.range 96).find? (s.coreOk id l)

/-- The cores that a launch holds. -/
def State.coresOf (s : State) (id : Nat) : List Nat :=
  s.cores.filterMap (fun e => match e.2.block with
    | some b => if b.launch = id then some e.1 else none
    | none => none)

/-- Whether a save area can be assigned (R382). -/
def State.areaFree (s : State) (asid : Nat) : Option Nat := ((s.ctx asid).areas.find? (fun e => !e.2)).map (·.1)

/-- Launches before others in the order of R348: higher priority, then earlier release. -/
def before348 (a b : Nat × Launch) : Bool :=
  decide (b.2.prio < a.2.prio) || (a.2.prio == b.2.prio && decide (a.2.rel < b.2.rel))

/-- A launch put in its place in a list that is in order. -/
def insert348 (x : Nat × Launch) : List (Nat × Launch) → List (Nat × Launch)
  | [] => [x]
  | y :: ys => if before348 x y then x :: y :: ys else y :: insert348 x ys

/-- The launches of a list in the order of R348. -/
def sort348 (xs : List (Nat × Launch)) : List (Nat × Launch) := xs.foldr insert348 []

/-- The next placement: the launch, the block, its number among those that left a core, the core. -/
def State.placement (s : State) : Option (Nat × Launch × Nat × Option Nat × Nat) :=
  (sort348 (s.launches.filter (fun e => s.wants e.1))).findSome? (fun e =>
    let (id, l) := e
    match s.nextUnit id l with
    | none => none
    | some (b, away) =>
      if dCores l.desc ≠ 0 ∧ dCores l.desc ≤ (s.coresOf id).length then none
      else if away.isNone ∧ (s.areaFree l.asid).isNone then none
      else match s.coreFor id l away with
        | some c => some (id, l, b, away, c)
        | none => none)

/-- The group of tied blocks fixed, once the first of them is placed. -/
def State.fixTie (s : State) (x : Away) (c : Nat) : State :=
  match x.tie with
  | some (t, _) => { s with away := s.away.mapV (fun y => match y.tie with
      | some (u, _) => if u = t then { y with group := some (c / 4) } else y
      | none => y) }
  | none => s

/-- BLOCK_PLACEMENT (R348): a block that starts from block start, new or relaunched. -/
def execBlockPlacement (s : State) : Host.Outcome State Fault Refusal :=
  match s.placement with
  | some (id, l, b, none, c) =>
    (match s.areaFree l.asid with
     | some area =>
       let s := s.onCtx l.asid (fun x => { x with areas := x.areas.set area true })
       done ((s.setLaunch id { l with next := l.next + 1, stage := 2 }).startBlock c id l b 0 area)
     | none => .next s)
  | some (id, l, b, some n, c) =>
    (match s.away.find n with
     | some x =>
       if x.how = 0 then done ({ s with away := s.away.del n }.startBlock c id l b x.relaunch x.area) else .next s
     | none => .next s)
  | none => .next s

/-! Leaving a core. -/

/-- The core after its block has left. -/
def Core.emptied (k : Core) (reserved : Option Nat) : Core :=
  { k with block := none, warps := [], halt := none, mst := {}, array := [], latch := {}, ops := [], pends := [], replays := [],
           marks := [], fenced := [], fmarks := [], nmarks := [], quads := [], preempt := none, badCode := [], reserved }

/-- Whether no other block of a launch runs on the cluster of a core. -/
def State.aloneOn (s : State) (c launch : Nat) : Bool :=
  match (s.core (if c % 2 = 0 then c + 1 else c - 1)).block with
  | some b => b.launch != launch
  | none => true

/-- Whether a launch's last block may leave a cluster (R311 step 2, R313): the stores and atomics that the other core of the cluster has
issued to the regions that go with it are performed. -/
def State.clusterQuiet (s : State) (c launch : Nat) : Bool :=
  !s.aloneOn c launch || (s.heldList (clusterOf c)).isEmpty || !(s.core (if c % 2 = 0 then c + 1 else c - 1)).writesBefore s.opId

/-- The last block of a launch has ended on a cluster: its pins go, and the cluster's regions are released (R308, R313). -/
def State.leaveCluster (s : State) (c launch : Nat) : State :=
  if s.aloneOn c launch then
    let cl := clusterOf c
    let s := s.dropPins cl launch
    (s.heldList cl).foldl (fun s r => s.freeRegion cl r) s
  else s

/-- Whether an operation of a block that has failed is abandoned rather than awaited: one whose checks have not ended, and a
SIG.WAIT. -/
def abandoned (o : Op) : Bool := o.stage == .check || o.fn == .sigWait

/-- Whether nothing of a core's block is outstanding (R233, R372). -/
def Core.settled (k : Core) (failed : Bool) : Bool :=
  k.ops.all (fun o => failed && abandoned o) && k.array.isEmpty && k.pends.isEmpty

/-- Whether the block on a core is relaunched (R374, R375). -/
def Core.relaunches (k : Core) (b : Block) (cause : Cause) : Bool :=
  let bySave := match k.halt with
    | some h => h.save || h.handler.isSome
    | none => false
  (cause == .scratchEcc || (cause == .dataError && bySave)) && b.kernel.idemp && decide (b.relaunch < 3)

/-- The block of a core leaves it for good. -/
def State.endBlock (s : State) (c : Nat) (b : Block) (fail : Option LaunchFail) : State :=
  let s := s.onCore c (fun k => k.emptied (k.preempt.bind (·.launch)))
  let s := s.leaveCluster c b.launch
  let s := if b.savebase = 0 then s else s.onCtx b.asid (fun x => { x with areas := x.areas.set b.savebase false })
  s.unitEnded b.launch fail

/-- BLOCK_END (R233, R372, R374): every stream has ended, or the block failed, and nothing is outstanding. -/
def execBlockEnd (core : Nat) (s : State) : Host.Outcome State Fault Refusal :=
  let k := s.core core
  match k.block with
  | none => .next s
  | some b =>
    if !s.clusterQuiet core b.launch then .next s
    else
    match b.failed with
    | none =>
      if k.halt.isNone && (List.range b.kernel.nwarps).all (fun w => (k.warp w).ended) && (!b.kernel.matrix || k.mst.mend) &&
          k.settled false then done (s.endBlock core b none)
      else .next s
    | some cause =>
      if !k.settled true then .next s
      else if k.relaunches b cause then
        let s := (s.onCore core (fun k => k.emptied (k.preempt.bind (·.launch)))).leaveCluster core b.launch
        done { s with away := s.away.set s.nextAway { launch := b.launch, b := b.b, how := 0, relaunch := b.relaunch + 1, area := b.savebase },
                      nextAway := s.nextAway + 1 }
      else
        let pc := match k.halt with
          | some h => h.pc.toNat
          | none => 0
        done (s.endBlock core b (some { cause := cause.code, ckind := 0, addr := pc, unit := core }))

/-- SCRATCH_ECC (R374): an uncorrectable error in a scratchpad read ends the block at once. -/
def execScratchEcc (core : Nat) (s : State) : Host.Outcome State Fault Refusal :=
  match (s.core core).block with
  | some b => if b.failed.isSome then .next s else done ((s.noteError 3 core none).onCore core (fun k => k.failWith .scratchEcc))
  | none => .next s

/-! Pre-emption requests (R349, R376, R378). -/

/-- The cores that are saved together with a core (R255): those of the mask of an incomplete multicast KLD issued there. -/
def State.savedWith (s : State) (c : Nat) : List Nat :=
  let ks := ((s.core c).ops.filter (fun o => (o.fn == .kldK || o.fn == .kldV) && o.stage != .done)).filterMap (arrivals c)
  ((ks ++ s.stoppedTiles c).map (·.2)).flatten.filter (fun d => d != c && (s.core d).block.isSome)

/-- The cores whose blocks are saved together with that of a core, itself among them: each brings those of its own multicast KLDs (R255). -/
def State.tiedTo (s : State) (c : Nat) : List Nat :=
  (List.range 4).foldl (fun cs _ => (cs ++ (cs.map s.savedWith).flatten).eraseDups) [c]

/-- One tie for a set of cores and for whatever their old ties join to them (R255). -/
def State.tie (s : State) (cs : List Nat) : State :=
  let old := cs.filterMap (fun c => (s.core c).preempt.bind (·.tie))
  if old.eraseDups.length = 1 ∧ old.length = cs.length then s
  else
    let t := s.opId
    let joined (x : Option Nat) : Bool := x.any (fun i => old.contains i)
    { s with
      opId := t + 1,
      cores := s.cores.map (fun e => (e.1, { e.2 with preempt := e.2.preempt.map (fun p =>
        if cs.contains e.1 || joined p.tie then { p with tie := some t } else p) })),
      away := s.away.map (fun e => (e.1, if joined (e.2.tie.map (·.1)) then { e.2 with tie := e.2.tie.map (fun x => (t, x.2)) } else e.2)) }

/-- A pre-emption request for a core, and for those saved with it. -/
def State.requestCore (s : State) (launch : Option Nat) (c : Nat) : State :=
  let cs := s.tiedTo c
  let s := cs.foldl (fun s d => s.onCore d (fun k => if k.preempt.isSome then k else { k with preempt := some { launch, since := s.ref } })) s
  if cs.length = 1 then s else s.tie cs

/-- The cores of running launches of lower priority than `p`, in the order in which they are taken: the lowest priority first,
then the most recently released; of each the highest-numbered core first. -/
def State.victims (s : State) (l : Launch) : List Nat :=
  let vs := (sort348 (s.launches.filter (fun e => dKind e.2.desc == 0 && decide (e.2.prio < l.prio)))).reverse
  (vs.map (fun v => (s.coresOf v.1).reverse)).flatten.filter (fun c => (s.launchGroups l).contains (c / 4))

/-- SPATIAL_PREEMPTION_REQUEST (R349, R378). -/
def execSpatialPreemptionRequest (launch : Nat) (s : State) : Host.Outcome State Fault Refusal :=
  match s.launches.find launch with
  | none => .next s
  | some l =>
    if !s.wants launch || !dPre l.desc || (List.range 96).any (s.coreOk launch l) then .next s
    else
      let units := (dBlocks l.desc - l.next) + (s.away.filter (fun e => e.2.launch == launch)).length
      let room := if dCores l.desc = 0 then units else dCores l.desc - (s.coresOf launch).length
      let coming := (s.cores.filter (fun e => match e.2.preempt with
        | some p => p.launch == some launch
        | none => false)).length
      let need := min units room - coming
      let vs := s.victims l
      let free := vs.filter (fun c => (s.core c).preempt.isNone)
      let taken := vs.filter (fun c => match (s.core c).preempt with
        | some { launch := some r, .. } => match s.launches.find r with
          | some y => decide (y.prio < l.prio)
          | none => true
        | _ => false)
      let s := (free.take need).foldl (fun s c => s.requestCore (some launch) c) s
      done ((taken.take (need - (free.take need).length)).foldl (fun s c =>
        s.onCore c (fun k => { k with preempt := k.preempt.map (fun p => { p with launch := some launch }) })) s)

/-! Stack kernels (R280, R281, R350). -/

/-- The launch whose kernel runs on a stack core. -/
def SCore.kernelOf (x : SCore) : Option Nat := match x.job with
  | .kernel id => some id
  | _ => none

/-- Whether a launch is before launch `l` for a stack core: it waits for it, or its kernel is saved there, and R348 puts it first (R350). -/
def State.stackBefore (s : State) (stack k id : Nat) (l : Launch) : Bool :=
  s.launches.any (fun e => dKind e.2.desc == 1 && e.2.stage != 0 && !e.2.suspended && before348 e (id, l) &&
    (e.2.todo.contains (stack, k) || (s.sc stack k).saved == some e.1))

/-- STACK_KERNEL_START (R350): the image is loaded at ENTRY and the kernel starts. -/
def execStackKernelStart (launch stack k : Nat) (readable : Bool) (s : State) : Host.Outcome State Fault Refusal :=
  match s.launches.find launch with
  | none => .next s
  | some l =>
    let x := s.sc stack k
    if dKind l.desc ≠ 1 ∨ l.stage = 0 ∨ l.suspended ∨ !l.todo.contains (stack, k) ∨ !s.stackReady stack then .next s
    else if !x.queue.isEmpty || x.job != .idle || !x.dmas.isEmpty || s.stackBefore stack k launch l then .next s
    else
      let l' := { l with todo := l.todo.filter (fun u => u != (stack, k)), stage := 2 }
      let bad (s : State) : State :=
        (s.setLaunch launch l').unitEnded launch (some { cause := 4, ckind := 1, addr := dCode l.desc })
      match s.lcRead l.asid (dCode l.desc) (4 * dWords l.desc) with
      | (.wait, _, s) => done s
      | (.ok, bs, s) =>
        if readable then
          let x := { x with imem := x.imem.putBytes (dEntry l.desc) bs }
          done ((s.setLaunch launch l').setSc stack k
            (x.start (.kernel launch) (dEntry l.desc) (BitVec.ofNat 64 (dArg l.desc)) s.sclk))
        else done (bad s)
      | (_, _, s) => done (bad s)

/-- Whether a stack kernel of a launch must leave a stack core: a launch that may pre-empt waits for it with a higher priority, its
instance has been suspended, or its stack is being taken from the context. -/
def State.mustLeave (s : State) (stack k id : Nat) : Bool :=
  match s.launches.find id with
  | none => false
  | some l =>
    l.suspended || s.launches.any (fun e => dKind e.2.desc == 1 && e.2.stage != 0 && !e.2.suspended && dPre e.2.desc &&
      e.2.todo.contains (stack, k) && decide (l.prio < e.2.prio))

/-- STACK_KERNEL_PREEMPT (R281): the kernel is stopped before its next instruction issues; once its bank DMAs are complete, its claims
are released and its state is written into the stack core's save area. A stack core whose save area is in use keeps its kernel. -/
def execStackKernelPreempt (stack k : Nat) (s : State) : Host.Outcome State Fault Refusal :=
  let x := s.sc stack k
  match x.kernelOf with
  | some id =>
    if !x.saved.isNone || !x.ending.isNone || !(x.stopping || s.mustLeave stack k id) then .next s
    else if !x.dmas.isEmpty then done (s.setSc stack k { x with stopping := true })
    else
      let s := s.dmaWrite stack k (nearPa stack k saveNear) x.image
      done ((s.onSc stack k (fun x => { x with saved := some id, slo := x.wlo, shi := x.whi, stopping := false, f := [] })).settle stack k)
  | none => .next s

/-- STACK_KERNEL_RESTORE (R281): everything is put back, each claim is re-taken, and the near window is the one under which the kernel
started (R260). -/
def execStackKernelRestore (stack k : Nat) (s : State) : Host.Outcome State Fault Refusal :=
  let x := s.sc stack k
  match x.saved with
  | some id =>
    match s.launches.find id with
    | some l =>
      if l.suspended || x.job != .idle || s.stackBefore stack k id l then .next s
      else
        let y := x.fromImage (s.hbmBytes (nearPa stack k saveNear) 0x29000)
        done (s.setSc stack k
          { y with job := .kernel id, saved := none, ready := s.sclk, ending := none, wlo := x.slo, whi := x.shi })
    | none => done (s.setSc stack k { x with saved := none })
  | none => .next s

/-! Weight stores (R32, R346, R412). -/

/-- Whether no block runs on a die. -/
def State.dieIdle (s : State) (d : Nat) : Bool := s.cores.all (fun e => dieOf e.1 != d || e.2.block.isNone)

/-- WSLOAD_WRITE (R32): once no block runs on the die. -/
def execWsloadWrite (launch die : Nat) (readable : Bool) (s : State) : Host.Outcome State Fault Refusal :=
  match s.launches.find launch with
  | none => .next s
  | some l =>
    if dKind l.desc ≠ 2 ∨ l.stage = 0 ∨ l.suspended ∨ !l.todo.contains (die, 0) ∨ !s.dieIdle die ∨ s.zeroing.contains die then .next s
    else
      let l' := { l with todo := l.todo.filter (fun u => u != (die, 0)), stage := 2 }
      let bad (s : State) : State :=
        (s.setLaunch launch l').unitEnded launch (some { cause := 4, ckind := 1, addr := dCode l.desc })
      match s.lcRead l.asid (dCode l.desc) (dCores l.desc) with
      | (.wait, _, s) => done s
      | (.ok, bs, s) =>
        if readable then
          let s := { s with ws := s.ws.putBytes (wsKey die (dArg l.desc % 2 ^ 32)) bs }
          done ((s.setLaunch launch l').unitEnded launch none)
        else done (bad s)
      | (_, _, s) => done (bad s)

/-- WEIGHT_STORE_ZEROING (R412). -/
def execWeightStoreZeroing (die : Nat) (s : State) : Host.Outcome State Fault Refusal :=
  if s.zeroing.contains die ∧ s.dieIdle die then
    done { s with zeroing := s.zeroing.filter (fun d => d != die), ws := s.ws.keep (fun k _ => k / 2 ^ 29 != die) }
  else .next s

end Sys2Proof.Machine
end

