-- ==== Sys2Proof/Machine/Save.lean ====
section
/-! DEFINITION. The save area (R381 to R384): every part of a block as bytes, and back; the hardware save and restore and the
resume of a block that its handler saved (R313, R376 to R380). -/

namespace Sys2Proof.Machine

/-! Parts. -/

/-- A number in `n` bytes, and a packed row of nibbles (R71). -/
def le64 (x : Word64) : List Byte := toLe x.toNat 8
def le32 (x : Word) : List Byte := toLe x.toNat 4
def nibbleBytes (n : Nat) (f : Nat → Nat) : List Byte :=
  (List.range n).map (fun i => BitVec.ofNat 8 (f (2 * i) % 16 + 16 * (f (2 * i + 1) % 16)))

/-- `n` items of bytes from a function, joined. -/
def joined (n : Nat) (f : Nat → List Byte) : List Byte := ((List.range n).map f).flatten

/-- How many words of a counter are in flight. -/
def Core.flying (k : Core) (p : Party) (n : Nat) : Nat :=
  (k.ops.filter (fun o => o.party == p && o.flag == n)).length + (k.pends.filter (fun x => x.party == p && x.flag == n)).length

/-- A counter as it is saved: without the words that are still in flight. -/
def Core.restingFlag (k : Core) (p : Party) (n : Nat) : Nat := (k.flags p).get n 0 - k.flying p n

/-- The bits BHOLD, BBAR and BQ of a barrier hold, BHOLD lowest (R383, R384), and back. -/
def holdBits (h : Option (Nat × Bool)) : Nat := match h with
  | some (b, q) => 1 + 2 * (b % 32) + if q then 64 else 0
  | none => 0
def holdOf (x : Nat) : Option (Nat × Bool) := if bit x 0 then some (bits x 5 1, bit x 6) else none

/-- A split slot (R384). What is left of a distance is saved in a field of four bits, so that a YIELD of more than 15 clocks is
saved as 15 (log 116). -/
def splitBytes (p : Option Split) (clk : Nat) : List Byte :=
  match p with
  | none => List.replicate 256 0
  | some p =>
    let st := p.depth % 32 + (if p.waiting then 2 ^ 8 else 0) + min (p.ready - clk) 15 * 2 ^ 9 + 2 ^ 16 + holdBits p.bar * 2 ^ 17
    let rets := p.rets.reverse
    let ds := p.defer.reverse
    le64 p.pc ++ le64 p.m ++ toLe st 4 ++ toLe p.rets.length 4 ++ joined 16 (fun i => le64 ((rets[i]?).getD 0)) ++
      toLe p.defer.length 4 ++ toLe 0 4 ++ joined 4 (fun i => match ds[i]? with
        | some d => le64 d.lanes ++ le64 d.pc ++ toLe (d.depth % 32 + if d.parked then 2 ^ 8 else 0) 8
        | none => toLe 0 24)

/-- A split slot back from its bytes. -/
def splitOf (bs : List Byte) (clk : Nat) : Option Split :=
  let st := recNum bs 0x10 4
  let w (o : Nat) : Word64 := BitVec.ofNat 64 (recNum bs o 8)
  if bit st 16 then
    some { pc := w 0, m := w 8, depth := bits st 4 0, waiting := bit st 8, ready := clk + bits st 12 9, landed := clk,
           bar := holdOf (bits st 23 17),
           rets := ((List.range (min (recNum bs 0x14 4) 16)).map (fun i => w (0x18 + 8 * i))).reverse,
           defer := ((List.range (min (recNum bs 0x98 4) 4)).map (fun i =>
             let o := 0xA0 + 24 * i
             { parked := bit (recNum bs (o + 16) 8) 8, lanes := w o, pc := w (o + 8), depth := bits (recNum bs (o + 16) 8) 4 0 :
               Deferral })).reverse }
  else none

/-- The clocks that a timer has left as they are saved: 0 for a timer that is off, at least 1 for one that is not. -/
def Warp.timerLeft (x : Warp) (clk : Nat) : Nat := if x.cmp = 0 then 0 else max (x.cmp.toNat - clk) 1

/-- The warp as a save sees it: the shadows stand in place of the handler warp's registers (R381). -/
def Core.savedWarp (k : Core) (hw : Bool) (w : Nat) : Warp :=
  match k.halt with
  | some { handler := some x, .. } => if x.warp = w ∧ !hw then (k.unshadow w).warp w else k.warp w
  | _ => k.warp w

/-- WSTATE of a warp (R384). -/
def wstateBytes (k : Core) (hw : Bool) (clk w : Nat) : List Byte :=
  let x := k.savedWarp hw w
  joined 256 (fun i => le32 (x.s.get i 0)) ++ joined 15 (fun i => le64 (x.p.get i 0)) ++ toLe 0 8 ++
    joined 16 (fun i => le64 (x.pstack.get i 0)) ++ joined 4 (fun j => splitBytes (x.splits.find j) clk) ++
    le64 x.en ++ le32 x.flags ++
    toLe ((if x.live = 0 then 1 else 0) + (if x.acc.aend then 2 else 0) + x.kvs.toNat * 2 ^ 4 + x.akvs.toNat * 2 ^ 8) 4 ++
    joined 12 (fun i => toLe (k.restingFlag (.compute w) (i + 1)) 1) ++ joined 12 (fun i => toLe (k.restingFlag (.access w) (i + 1)) 1) ++
    joined 4 (fun i => toLe (x.eng.get i 0) 1) ++ toLe 0 4 ++ le32 x.lp ++ le32 x.arvd ++ le32 x.alp ++ le32 x.aarvd ++
    toLe (x.timerLeft clk) 8 ++ le64 x.tt ++ List.replicate 48 0 ++ joined 64 (fun l => le32 (if l < k.kernel.w then x.genAt w l else 0))

/-- The code of a slot state (R195), and back. -/
def SlotState.code (x : SlotState) : Nat := match x with
  | .free => 0 | .full => 1 | .poison => 2 | .pending => 3
def slotStateOf (n : Nat) : SlotState := if n = 1 then .full else if n = 2 then .poison else .free

/-- The queue state word (R195). -/
def Queue.word (q : Queue) : Nat :=
  (List.range 8).foldl (fun acc i => acc + (q.slot i).st.code * 2 ^ (8 + 2 * i)) (q.head % 8 * 16 + q.tail % 8)

/-- A poison record in its 48 bytes (R186), and back. -/
def PoisonRec.bytes (r : PoisonRec) : List Byte :=
  le64 r.apc ++ le64 r.base ++ le64 r.faddr ++ le64 r.fmask ++ le32 r.word ++ List.replicate 12 0
def poisonRecOf (bs : List Byte) : PoisonRec :=
  let w (o : Nat) : Word64 := BitVec.ofNat 64 (recNum bs o 8)
  { apc := w 0, base := w 8, faddr := w 16, fmask := w 24, word := BitVec.ofNat 32 (recNum bs 32 4) }

/-- ASTATE of a warp (R384). -/
def astateBytes (k : Core) (w : Nat) : List Byte :=
  let x := k.warp w
  let a := x.acc
  le64 a.apc ++ toLe (a.c.toNat + (if a.aend then 16 else 0) + holdBits a.bar * 2 ^ 5) 4 ++
    toLe (a.slip % 128 + a.slipCount % 128 * 2 ^ 8) 4 ++ joined 64 (fun i => le64 (a.a.get i 0)) ++ List.replicate 16 0 ++
    joined 16 (fun q => toLe (x.queue q).word 4) ++
    nibbleBytes 64 (fun i => ((x.queue (i / 8)).slot (i % 8)).reg.tag.toNat) ++ List.replicate 32 0 ++
    joined 96 (fun i => ((x.queue (i / 8)).slot (i % 8)).record.bytes) ++ List.replicate 0xC0 0

/-- The system registers of the header (R383): the handler split stands in the reserved indices when it is halted with the
block. -/
def headerReg (k : Core) (hw : Bool) (i : Nat) : Word64 :=
  if 0x30 ≤ i ∧ i ≤ 0x36 then
    match hw, k.halt with
    | true, some { handler := some x, .. } =>
      if i = 0x30 then x.pc else if i = 0x31 then x.m else if i = 0x36 then BitVec.ofNat 64 x.rets.length
      else (x.rets.reverse[i - 0x32]?).getD 0
    | _, _ => 0
  else k.sysReg i

/-- Whether the handler split runs. -/
def Core.hmode (k : Core) : Bool := match k.halt with
  | some h => h.handler.isSome
  | none => false

/-- The header (R383): two runs of bytes with the offsets at which they stand. -/
def headerBytes (k : Core) (b : Block) (hw : Bool) (parts : Nat) (held : List Nat) : List (Nat × List Byte) :=
  let live := (List.range 32).foldl (fun acc w => if w < b.kernel.nwarps ∧ (k.warp w).live ≠ 0 then acc + 2 ^ w else acc) 0
  [(0, toLe (1 + parts * 2 ^ 16) 8 ++ toLe b.launch 8 ++ toLe b.kernel.addr 8 ++ toLe b.blk.1 4 ++ toLe b.blk.2.1 4 ++
      toLe b.blk.2.2 4 ++ toLe b.b 4 ++
      toLe (live + b.relaunch % 256 * 2 ^ 32 + (if k.hmode then 2 ^ 41 else 0) + (if k.ptrap then 2 ^ 42 else 0)) 8 ++
      List.replicate 16 0 ++ joined 256 (fun i => le64 (headerReg k hw i)) ++
      joined 32 (fun i => toLe ((k.bar i).expect % 256 + (k.bar i).n % 256 * 2 ^ 8 + if (k.bar i).ph then 2 ^ 16 else 0) 4) ++
      le64 k.tags ++ le64 k.tagerr ++ List.replicate 48 0 ++
      joined 64 (fun t =>
        let r := k.tagrec.get t {}
        toLe (r.status % 256 + if r.reported then 2 ^ 8 else 0) 8 ++ le64 r.faddr ++ le64 r.pc ++ toLe (r.warp % 64) 8) ++
      k.shapes.getBytes 0 2048),
   (0x1C10, joined 16 (fun i => toLe ((held[i]?).getD 0xFFFFFFFF) 4) ++ List.replicate 0x23B0 0)]

/-- MSTATE (R383). -/
def mstateBytes (k : Core) : List Byte :=
  let m := k.mst
  le64 m.mpc ++ joined 16 (fun i => le32 (m.m.get i 0)) ++
    toLe (m.c.toNat + (if m.mend then 16 else 0) + holdBits m.bar * 2 ^ 5) 8 ++
    joined 12 (fun i => toLe (k.restingFlag .matrix (i + 1)) 1) ++ toLe 0 4 ++ toLe m.bseq 4 ++ toLe m.done 4 ++ le32 m.lp ++
    le32 m.arvd ++ toLe m.seq.tbl 4 ++ toLe m.seq.g 4 ++ toLe m.seq.lst 4 ++ toLe m.seq.gi 4 ++ toLe m.seq.j 4 ++ toLe m.seq.n 4 ++
    toLe (if m.seq.init then 1 else 0) 4 ++ List.replicate 0x74 0 ++ joined 256 (fun i => toLe (k.codebook.get i 0).toNat 2)

/-- The bytes of a part (R381 to R384), with the offsets at which they stand; `hw` marks a hardware save. -/
def partBytes (s : State) (c : Nat) (hw : Bool) (part parts : Nat) (warps : List Nat) : List (Nat × List Byte) :=
  let k := s.core c
  let kr := k.kernel
  match part with
  | 0 => (match k.block with
    | some b => headerBytes k b hw parts (s.heldList (clusterOf c))
    | none => [])
  | 1 => warps.map (fun w => (0x4000 + 0x2000 * w, wstateBytes k hw s.clk w))
  | 2 => warps.map (fun w => (0x4A80 + 0x2000 * w, astateBytes k w))
  | 3 => (warps.map (fun w =>
      let x := k.warp w
      [(0x44000 + w * kr.w * kr.n * 4, joined kr.n (fun v => joined kr.w (fun l => le32 ((x.vreg v).lane l)))),
       (0x144000 + 512 * w, nibbleBytes 512 (fun v => if v < kr.n then (x.vreg v).tag.toNat else 0))])).flatten
  | 4 => warps.map (fun w => (0x148000 + 0x8000 * w, joined 128 (fun i => joined 64 (fun l =>
      le32 ((((k.warp w).queue (i / 8)).slot (i % 8)).reg.lane l)))))
  | 5 => [(0x248000, k.scratch.getBytes 0 kr.scratch)]
  | 6 => (0x1C00, nibbleBytes 16 (fun t => if t < kr.ntiles then (k.tiles.get t {}).tag.toNat else 0)) ::
      (List.range kr.ntiles).map (fun t => (0x348000 + 0x10000 * t, joined 16384 (fun i => le32 ((k.tiles.get t {}).el.get i 0))))
  | 7 => [(0x548000, k.wbuf.getBytes 0 0x80000)]
  | _ => [(0x1900, mstateBytes k)]

/-- Whether a part holds a poisoned half or unit, which a save must not read (R375). -/
def Core.partPoisoned (k : Core) (part : Nat) (warps : List Nat) : Bool :=
  match part with
  | 3 => warps.any (fun w => (k.warp w).v.any (fun e => decide (e.1 < k.kernel.n) && !e.2.bad.isEmpty))
  | 4 => warps.any (fun w => (k.warp w).queues.any (fun q => q.2.slots.any (fun y => !y.2.reg.bad.isEmpty)))
  | 6 => k.tiles.any (fun e => decide (e.1 < k.kernel.ntiles) && !e.2.bad.isEmpty)
  | _ => false

/-! Loading parts. -/

/-- The causes of R362. -/
def allCauses : List Cause :=
  [.fetchFault, .illegalOpcode, .illegalForm, .illegalPair, .regRange, .schedCheck, .privOp, .pstackOverflow, .pstackEmpty,
   .callDepth, .retEmpty, .splitOverflow, .targetFault, .targetRange, .targetLand, .formatMismatch, .qshape, .trailerMismatch,
   .alignFault, .scratchRange, .wsRange, .wbRange] ++
  [.pageFault, .protFault, .regionFault, .atomSpace, .windowFault, .queuePoison, .queueEmpty, .shapeForm, .copyFault, .batchOpen,
   .tseqTable, .mstreamOrphan, .mtxData, .kvSpace, .kvForm, .kvFault, .kvData, .barCount, .barBusy, .barOrphan, .dataError, .trap,
   .preempt, .resume, .scratchEcc, .doubleTrap, .ctxForm]

/-- The halt that a trap state tells of (R368). -/
def Halt.ofState (h : Halt) (tcause tpc : Word64) : Halt :=
  let t := tcause.toNat
  let party : Party := match bits t 51 50 with
    | 0 => .compute (bits t 49 45)
    | 1 => .access (bits t 49 45)
    | _ => .matrix
  { h with party, slot := bits t 44 43, pair2 := bit t 42, pc := tpc,
           trap := { h.trap with cause := (allCauses.find? (fun c => c.code == bits t 63 56)).getD h.trap.cause,
                                 aux := BitVec.ofNat 32 t } }

/-- Bytes as a sparse map from the offset `o`. -/
def bytesMap (bs : List Byte) : FMap Byte := FMap.putBytes [] 0 bs

/-- A sparse map of `n` values from a function. -/
def mapFrom {α : Type} [DecidableEq α] (n : Nat) (d : α) (f : Nat → α) : FMap α :=
  (List.range n).foldl (fun m i => m.put i (f i) d) []

/-- The header written back (R381, R383). With `hw` a handler split that was halted comes back with it. -/
def Core.loadHeader (k : Core) (clk : Nat) (hw : Bool) (rd : Nat → Nat → List Byte) : Core :=
  let num (o n : Nat) : Nat := leNat (rd o n)
  let w (o : Nat) : Word64 := BitVec.ofNat 64 (num o 8)
  let reg (i : Nat) : Word64 := w (0x40 + 8 * i)
  let x := num 0x28 8
  let k := { k with
    block := k.block.map (fun b => { b with relaunch := bits x 39 32 }), ptrap := bit x 42,
    sys := mapFrom 256 0 (fun i => if 0x30 ≤ i ∧ i ≤ 0x36 then 0 else reg i)
    bars := mapFrom 32 {} (fun i =>
      let v := num (0x840 + 4 * i) 4
      { expect := bits v 7 0, n := bits v 15 8, ph := bit v 16 }),
    tags := w 0x8C0, tagerr := w 0x8C8, busy := 0,
    tagrec := mapFrom 64 {} (fun t =>
      let o := 0x900 + 32 * t
      { status := bits (num o 8) 7 0, reported := bit (num o 8) 8, faddr := w (o + 8), pc := w (o + 16), warp := num (o + 24) 8 % 64 }),
    shapes := bytesMap (rd 0x1100 2048) }
  if hw then
    (if bit x 41 then
      let rets := ((List.range (min (reg 0x36).toNat 4)).map (fun i => reg (0x32 + i))).reverse
      let x : HSplit := { warp := bits (reg 0).toNat 41 37, pc := reg 0x30, m := reg 0x31, ready := clk, rets }
      let h : Halt := { found := clk, party := .matrix, trap := plain .preempt, entered := true, handler := some x }
      { k with halt := some (h.ofState (reg 0) (reg 1)) }
    else k)
  else { k with halt := k.halt.map (fun h => h.ofState (reg 0) (reg 1)) }

/-- WSTATE of a warp written back; the latched high halves of the clock and of the time are not part of it. -/
def Core.loadWstate (k : Core) (clk fresh : Nat) (hw : Bool) (rd : Nat → Nat → List Byte) (w : Nat) : Core :=
  let o := 0x4000 + 0x2000 * w
  let num (i n : Nat) : Nat := leNat (rd (o + i) n)
  let n32 (i : Nat) : Word := BitVec.ofNat 32 (num i 4)
  let n64 (i : Nat) : Word64 := BitVec.ofNat 64 (num i 8)
  let x := k.warp w
  let splits : FMap Split := (List.range 4).filterMap (fun j => (splitOf (rd (o + 0x500 + 0x100 * j) 256) clk).map (fun p => (j, p)))
  let live : Lanes := splits.foldl (fun m e => e.2.defer.foldl (fun m d => m ||| d.lanes) (m ||| e.2.m)) 0
  let st := num 0x90C 4
  let flag (p : Party) (i : Nat) (f : FMap Nat) : FMap Nat :=
    (List.range 12).foldl (fun m j => m.put (j + 1) (num (i + j) 1 % 64 + k.flying p (j + 1)) 0) f
  let y : Warp :=
    { x with
      s := mapFrom 256 0 (fun i => n32 (4 * i)), p := mapFrom 15 0 (fun i => n64 (0x400 + 8 * i)),
      pstack := mapFrom 16 0 (fun i => n64 (0x480 + 8 * i)), splits, live := if bit st 0 then 0 else live, en := n64 0x900,
      flags := n32 0x908 &&& flagsMask, kvs := BitVec.ofNat 4 (bits st 7 4), akvs := BitVec.ofNat 4 (bits st 11 8),
      f := flag (.compute w) 0x910 [], af := flag (.access w) 0x91C [],
      eng := mapFrom 4 0 (fun i => num (0x928 + i) 1), lp := n32 0x930, arvd := n32 0x934, alp := n32 0x938, aarvd := n32 0x93C,
      cmp := if num 0x940 8 = 0 then 0 else BitVec.ofNat 64 (clk + num 0x940 8), tt := n64 0x948,
      gen := (List.range k.kernel.w).foldl (fun m l => m.put l (n32 (0x980 + 4 * l)) (genStart w l)) [], clkhi := Config.freeWord (fresh + 2 * w),
      todhi := Config.freeWord (fresh + 2 * w + 1), ended := bit st 0 && (!k.kernel.hasAccess w || bit st 1),
      acc := { x.acc with aend := bit st 1 } }
  match k.halt with
  | some { handler := some h, .. } =>
    if h.warp = w ∧ !hw then
      let k := k.putSys ((List.range 4).map (fun i => (0x010 + i, shadowPair y i)) ++
        [(0x014, y.p.get 13 0), (0x015, y.p.get 14 0), (0x016, y.flags.setWidth 64)])
      let s := (List.range 8).foldl (fun m i => m.put (248 + i) (x.s.get (248 + i) 0) 0) y.s
      k.setWarp w { y with s, p := (y.p.put 13 (x.p.get 13 0) 0).put 14 (x.p.get 14 0) 0, flags := x.flags }
    else k.setWarp w y
  | _ => k.setWarp w y

/-- ASTATE of a warp written back: slots come back FREE, FULL or POISON (R195). -/
def Core.loadAstate (k : Core) (clk : Nat) (rd : Nat → Nat → List Byte) (w : Nat) : Core :=
  let o := 0x4000 + 0x2000 * w
  let num (i n : Nat) : Nat := leNat (rd (o + i) n)
  let x := k.warp w
  let st := num 0xA88 4
  let slips := num 0xA8C 4
  let queue (q : Nat) : Queue :=
    let v := num (0xCA0 + 4 * q) 4
    let state (i : Nat) : SlotState := slotStateOf (bits v (2 * i + 9) (2 * i + 8))
    { head := bits v 6 4, tail := bits v 2 0, count := ((List.range 8).filter (fun i => state i != .free)).length,
      slots := mapFrom 8 {} (fun i =>
        if state i = .free then {}
        else
          let old := (x.queue q).slot i
          { st := state i,
            reg := { old.reg with tag := BitVec.ofNat 4 (num (0xCE0 + (8 * q + i) / 2) 1 / 16 ^ (i % 2)) },
            record := if q < 12 ∧ state i = .poison then poisonRecOf (rd (o + 0xD40 + 48 * (8 * q + i)) 48) else {} }) }
  k.setWarp w { x with
    queues := mapFrom 16 {} queue,
    acc := { x.acc with apc := BitVec.ofNat 64 (num 0xA80 8), c := BitVec.ofNat 4 st, aend := bit st 4, bar := holdOf (bits st 11 5),
                        slip := bits slips 6 0, slipCount := bits slips 14 8, a := mapFrom 64 0 (fun i => BitVec.ofNat 64 (num (0xA90 + 8 * i) 8)),
                        ready := clk, held := none } }

/-- VREG of a warp written back, which clears every mark. -/
def Core.loadVreg (k : Core) (rd : Nat → Nat → List Byte) (w : Nat) : Core :=
  let kr := k.kernel
  let o := 0x44000 + w * kr.w * kr.n * 4
  let reg (v : Nat) : VReg :=
    { w := mapFrom kr.w 0 (fun l => BitVec.ofNat 32 (leNat (rd (o + (v * kr.w + l) * 4) 4))),
      tag := BitVec.ofNat 4 (leNat (rd (0x144000 + 512 * w + v / 2) 1) / 16 ^ (v % 2)) }
  k.setWarp w { k.warp w with v := mapFrom kr.n {} reg }

/-- QPAY of a warp written back, whichever of QPAY and ASTATE comes first: ASTATE says which slots are occupied. -/
def Core.loadQpay (k : Core) (rd : Nat → Nat → List Byte) (w : Nat) : Core :=
  let x := k.warp w
  let pay (q i : Nat) (y : QSlot) : QSlot :=
    { y with reg := { w := mapFrom 64 0 (fun l => BitVec.ofNat 32 (leNat (rd (0x148000 + 0x8000 * w + (8 * q + i) * 256 + 4 * l) 4))),
                      tag := y.reg.tag } }
  k.setWarp w { x with queues := mapFrom 16 {} (fun q => { x.queue q with slots := mapFrom 8 {} (fun i => pay q i ((x.queue q).slot i)) }) }

/-- MSTATE written back. -/
def Core.loadMstate (k : Core) (clk : Nat) (rd : Nat → Nat → List Byte) : Core :=
  let num (i n : Nat) : Nat := leNat (rd (0x1900 + i) n)
  let n32 (i : Nat) : Word := BitVec.ofNat 32 (num i 4)
  let st := num 0x48 8
  { k with
    codebook := mapFrom 256 0 (fun i => BitVec.ofNat 16 (num (0x100 + 2 * i) 2)),
    mst := { k.mst with
      mpc := BitVec.ofNat 64 (num 0 8), m := mapFrom 16 0 (fun i => n32 (8 + 4 * i)), c := BitVec.ofNat 4 st, mend := bit st 4,
      bar := holdOf (bits st 11 5), f := (List.range 12).foldl (fun m j => m.put (j + 1) (num (0x50 + j) 1 % 64 + k.flying .matrix (j + 1)) 0) [],
      bseq := num 0x60 4, done := num 0x64 4, lp := n32 0x68, arvd := n32 0x6C,
      seq := { tbl := num 0x70 4, g := num 0x74 4, lst := num 0x78 4, gi := num 0x7C 4, j := num 0x80 4, n := num 0x84 4,
               init := bit (num 0x88 4) 0 },
      ready := clk, held := none } }

/-- A part written back from an area (R381). -/
def loadPart (s : State) (c : Nat) (hw : Bool) (part : Nat) (warps : List Nat) (rd : Nat → Nat → List Byte) : State :=
  let k := s.core c
  let each (f : Core → Nat → Core) : State := s.setCore c (warps.foldl f k)
  match part with
  | 0 => s.setCore c (k.loadHeader s.clk hw rd)
  | 1 => { each (fun k w => k.loadWstate s.clk s.fresh hw rd w) with fresh := s.fresh + 64 }
  | 2 => each (fun k w => k.loadAstate s.clk rd w)
  | 3 => each (fun k w => k.loadVreg rd w)
  | 4 => each (fun k w => k.loadQpay rd w)
  | 5 => s.setCore c { k with scratch := bytesMap (rd 0x248000 k.kernel.scratch) }
  | 6 => s.setCore c { k with tiles := mapFrom k.kernel.ntiles {} (fun t =>
      { el := mapFrom 16384 0 (fun i => BitVec.ofNat 32 (leNat (rd (0x348000 + 0x10000 * t + 4 * i) 4))),
        tag := BitVec.ofNat 4 (leNat (rd (0x1C00 + t / 2) 1) / 16 ^ (t % 2)) }) }
  | 7 => s.setCore c { k with wbuf := bytesMap (rd 0x548000 0x80000) }
  | _ => s.setCore c (k.loadMstate s.clk rd)

/-! The area. -/

/-- Runs of bytes written at an area. -/
def State.areaPut (s : State) (asid base : Nat) (xs : List (Nat × List Byte)) : State :=
  xs.foldl (fun s e => s.lcPut asid ((base + e.1) % 2 ^ 64) e.2) s

/-- Bytes of an area. -/
def State.areaRead (s : State) (asid base : Nat) : Nat → Nat → List Byte := fun o n => s.lcBytes asid ((base + o) % 2 ^ 64) n

/-- The warps of a block. -/
def Core.allWarps (k : Core) : List Nat := List.range k.kernel.nwarps

/-- The parts in use that a hardware save writes (R377). -/
def Core.usedParts (k : Core) : List Nat :=
  let acc := (List.range k.kernel.nwarps).any k.kernel.hasAccess
  [0, 1, 3] ++ (if acc then [2, 4] else []) ++ (if k.kernel.scratch = 0 then [] else [5]) ++
    (if k.kernel.ntiles = 0 then [] else [6]) ++ [7, 8]

/-! Drains (R195, R210, R235, R255, R271). -/

/-- Whether an operation belongs to the SYS class: what a handler has in flight when it saves. -/
def isSys (o : Op) : Bool := o.fn.opc.toNat / 64 == 15

/-- Whether some queue slot, forward or back, is PENDING: a save waits until none is (R195). -/
def Core.slotPending (k : Core) : Bool :=
  k.warps.any (fun x => x.2.queues.any (fun q => q.2.slots.any (fun y => y.2.st == .pending)))

/-- Whether the operations issued before a halt have run to completion (R364, R377): a SIG.WAIT is abandoned instead. -/
def Core.drained (k : Core) : Bool :=
  k.ops.all (fun o => o.fn == .sigWait || (o.handler && isSys o)) && k.array.isEmpty && k.busy == 0 && !k.slotPending

/-- Every SIG.WAIT of a block abandoned: its stream stands at it (R298). -/
def State.abandonWaits (s : State) (c : Nat) : State :=
  ((s.core c).ops.filter (fun o => o.fn == .sigWait)).foldl (fun s o => dropOp s c o) s

/-- Every stack-core command that a block issued cancelled (R270, R377). -/
def State.cancelBlock (s : State) (c : Nat) : State :=
  (s.scores.map (·.1)).foldl (fun s i => s.cancel (i / 64) (i % 64) (fun y => y.core == c)) s

/-! Leaving a core saved. -/

/-- Regions kept with a block that is saved (R313): those of a cluster on which no other block of the launch remains. -/
def State.saveRegions (s : State) (c launch : Nat) : List Nat × State :=
  let cl := clusterOf c
  if s.aloneOn c launch then
    let held := s.heldList cl
    (held, held.foldl (fun s r =>
      ((s.flushRegion cl r).clusterClear cl).setRegion r { s.region r with state := 3, holder := 0xFF }) (s.dropPins cl launch))
  else ([], s)

/-- The number under which the matrix stream's waiting reports travel with a block, above every warp's. -/
def matrixKey : Nat := 64

/-- The block of a core saved (R377 steps 5 and 6): it re-enters placement, with the blocks that must be restored with it. -/
def State.vacate (s : State) (c : Nat) (b : Block) (how : Nat) : State :=
  let k := s.core c
  let tie := (k.preempt.bind (·.tie)).map (fun i => (i, c % 4))
  let (regions, s) := s.saveRegions c b.launch
  let pend : FMap (List Pending) := (k.warps.filterMap (fun e => if e.2.pendings.isEmpty then none else some (e.1, e.2.pendings))) ++
    (if k.mst.pendings.isEmpty then [] else [(matrixKey, k.mst.pendings)])
  let x : Away :=
    { launch := b.launch, b := b.b, how, relaunch := b.relaunch, area := b.savebase, regions, tie, pend, replays := k.replays,
      haltclk := k.haltclk, redRead := k.redRead }
  let s := { s with away := s.away.set s.nextAway x, nextAway := s.nextAway + 1 }
  s.onCore c (fun k => k.emptied (k.preempt.bind (·.launch)))

/-- MTX_DATA that waits to be reported on a core (R234). -/
def Core.mtxWaiting (k : Core) : Option Trap := (k.mst.pendings.find? (fun x => x.cause == .mtxData)).map (fun x =>
  { cause := .mtxData, taux := x.pc })

/-- A halt begun by the launch controller (R364, R377, R380). -/
def State.requestHalt (s : State) (c : Nat) (save : Bool) : State :=
  s.onCore c (fun k => { k with halt := some { found := s.clk, party := .matrix, trap := plain .preempt, save }, haltclk := s.clk })

/-- PREEMPT (R380): the request enters the handler; a synchronous cause or a running handler holds it (R363, R366). -/
def execPreempt (core : Nat) (s : State) : Host.Outcome State Fault Refusal :=
  let k := s.core core
  match k.block, k.preempt, k.halt with
  | some b, some _, none =>
    if b.failed.isNone && k.ptrap && (s.ctx b.asid).handler != 0 then done (s.requestHalt core false) else .next s
  | _, _, _ => .next s

/-- The save of a block that is leaving its core, once the skid clocks are over and everything is drained (R377, R380). -/
def State.saveStep (s : State) (c : Nat) (b : Block) (h : Halt) : State :=
  if s.clk < h.found + 5 then s
  else
    let s := (s.cancelBlock c).abandonWaits c
    let s := if (s.savedWith c).isEmpty then s else s.requestCore ((s.core c).preempt.bind (·.launch)) c
    let k := s.core c
    if !k.drained || !k.ops.isEmpty || !k.pends.isEmpty || !s.clusterQuiet c b.launch then s
    else match k.mtxWaiting, h.handler with
      | some t, none =>
        if h.soft then s.vacate c b 2
        else s.setCore c { k with halt := some { h with save := false, entered := false, trap := t, pc := t.taux } }
      | _, _ =>
        if h.soft then s.vacate c b 2
        else
          let parts := k.usedParts
          if parts.any (fun p => k.partPoisoned p k.allWarps) then s.onCore c (fun k => k.failWith .dataError)
          else
            let mask := parts.foldl (fun m p => m + 2 ^ p) 0
            let s := parts.foldl (fun t p => t.areaPut b.asid b.savebase (partBytes s c true p mask k.allWarps)) s
            s.vacate c b 1

/-- HARDWARE_SAVE (R377): a request is served by hardware where no handler saves the block; a save that has begun goes on. -/
def execHardwareSave (core : Nat) (s : State) : Host.Outcome State Fault Refusal :=
  let k := s.core core
  match k.block with
  | none => .next s
  | some b =>
    if b.failed.isSome then .next s
    else match k.halt with
      | some h => if h.save then done (s.saveStep core b h) else .next s
      | none =>
        if k.preempt.isSome && (!k.ptrap || (s.ctx b.asid).handler == 0) then done (s.requestHalt core true) else .next s

/-- HANDLER_SAVE_TIMEOUT (R380): the block is saved by hardware, with its handler split where one runs. -/
def execHandlerSaveTimeout (core : Nat) (s : State) : Host.Outcome State Fault Refusal :=
  let k := s.core core
  match k.block, k.preempt, k.halt with
  | some b, some p, some h =>
    if b.failed.isNone && !h.save && h.entered && decide (p.since + ticksOf 200 ≤ s.ref) then
      done (s.setCore core { k with halt := some { h with save := true } })
    else .next s
  | _, _, _ => .next s

/-! Coming back (R313, R379, R380). -/

/-- A block that left saved, placed on a core: its regions come back to the cluster, and its waiting errors to its warps. -/
def State.placeAway (s : State) (c : Nat) (x : Away) (l : Launch) (n : Nat) : State :=
  let s := { s.fixTie x c with away := (s.fixTie x c).away.del n }
  let s := s.startBlock c x.launch l x.b x.relaunch x.area
  let s := x.regions.foldl (fun s r => s.grantRegion (clusterOf c) r) s
  s.onCore c (fun k => { k with
    haltclk := x.haltclk, redRead := x.redRead, replays := x.replays, mst := { k.mst with pendings := x.pend.get matrixKey [] },
    warps := k.warps.map (fun e => (e.1, { e.2 with pendings := x.pend.get e.1 [] })) })

/-- The saved block that placement takes next, when it is number `n` and left in the given way. -/
def State.returning (s : State) (n how : Nat) : Option (Away × Launch × Nat) :=
  match s.placement with
  | some (_, l, _, some m, c) => if m = n then (match s.away.find n with
      | some x => if x.how = how then some (x, l, c) else none
      | none => none) else none
  | _ => none

/-- HARDWARE_RESTORE (R379): the parts that the save wrote come back, and the halt ends. -/
def execHardwareRestore (saved : Nat) (s : State) : Host.Outcome State Fault Refusal :=
  match s.returning saved 1 with
  | some (x, l, c) =>
    let s := s.placeAway c x l saved
    let rd := s.areaRead l.asid x.area
    let parts := bits (leNat (rd 0 8)) 24 16
    let ws := (s.core c).allWarps
    done (((List.range 9).filter (fun p => parts.testBit p)).foldl (fun s p => loadPart s c true p ws rd) s)
  | none => .next s

/-- RESUME (R380): from block-start state, halted, into the handler on warp 0. -/
def execResume (saved : Nat) (s : State) : Host.Outcome State Fault Refusal :=
  match s.returning saved 2 with
  | some (x, l, c) =>
    let s := s.placeAway c x l saved
    let k := s.core c
    let h : Halt := { found := s.clk, party := .matrix, trap := plain .resume, entered := true }
    let k := { k with halt := some h, haltclk := s.clk }
    let hpc := (s.ctx l.asid).handler
    if hpc = 0 then done (s.setCore c (k.failWith .resume))
    else
      let hs : HSplit := { warp := 0, pc := hpc, m := (k.warp 0).live, ready := s.clk }
      done (s.setCore c { k.putSys (trapState k h 0) with halt := some { h with handler := some hs } })
  | none => .next s

end Sys2Proof.Machine
end

