-- ==== Sys2Proof/Machine/Sys.lean ====
section
/-! DEFINITION. Class SYS (R367 to R373, R381, R385, R386, R188): traps, returns from the handler, context parts, system registers,
the timer and the snapshot; and the events of a halt. -/

namespace Sys2Proof.Machine

/-- A handler-only word: outside handler mode it raises PRIV_OP (R370), whatever it would wait for. -/
def sysWord (fn : Fn) (w : RWord) (cond : Env → Bool) (k : Meaning) (s : State) : Host.Outcome State Fault Refusal :=
  runWhen fn (.r w) (fun e => !e.handler || e.act == 0 || cond e) (whenActive k) s

/-! TRAP (R371). -/

def execTrap (w : RWord) (s : State) : Host.Outcome State Fault Refusal :=
  if onStack s then runStack .trap (.r w) (fun _ _ => .error (stackStatus .trap)) s
  else runWord .trap (.r w) (whenActive (fun _ _ => .error { cause := .trap, aux := BitVec.ofNat 32 (w.fld 15 0) })) s

/-! Returning from the handler (R372). -/

/-- KVPROG without VALID (R252). -/
def Core.clearValid (k : Core) : Core := k.putSys [(0x00E, k.sysReg 0x00E &&& 0x7FFFFFFFFFFFFFFF)]

/-- What a return makes of the retries: the TDONE that the handler leaves, and the KLD that KVPROG continues (R154, R247, R252). -/
def Core.retries (k : Core) (h : Halt) : Core :=
  let mine (r : Replay) : Bool := r.party == h.party && r.slot == h.slot
  let rs := k.replays.map (fun r => if mine r ∧ r.pc = h.pc ∧ !r.kv then { r with done := k.sysReg 0x004 } else r)
  let v := k.sysReg 0x00E
  let kv : List Replay := if v.getLsbD 63 then
      [{ party := h.party, slot := h.slot, pc := h.pc, done := v &&& 0x1FF, kv := true }] else []
  { k with replays := rs.filter (fun r => !(mine r && r.kv)) ++ kv }

/-- RTT (R372): the shadows are written back, the halt ends, and the trapping instruction issues again. -/
def returnPlain (s : State) (c : Nat) : State :=
  match (s.core c).halt with
  | some h => endHalt (s.onCore c (fun k => k.retries h)) c
  | none => s

def execRtt (w : RWord) (s : State) : Host.Outcome State Fault Refusal :=
  sysWord .rtt w (fun _ => true) (fun e s => .ok (returnPlain (e.retire s 1 []) e.c)) s

/-- Whether RTT.NEXT is valid: the cause was raised at an instruction of a compute or access stream. -/
def Halt.atWord (h : Halt) : Bool :=
  h.trap.cause != .preempt && h.trap.cause != .resume && (match h.party with
    | .matrix => false
    | _ => true)

/-- The word after a trapping word, or after the trapping pair (R372); only the compute stream has pairs. -/
def State.afterTrap (s : State) (c : Nat) (h : Halt) : Word64 :=
  let k := s.core c
  let pair := (match h.party with
    | .compute _ => true
    | _ => false) && !h.pair2 && h.trap.cause != .barOrphan && (match s.fetchWord k.tlb k.asid h.pc.toNat false with
    | some bs => (wordOfBytes bs).getLsbD 0
    | none => false)
  if pair then h.pc + 24 else h.pc + 12

/-- RTT.NEXT (R297, R372): the trapping instruction counts as issued; its stream stands at the following word, in no barrier
hold. -/
def execRttNext (w : RWord) (s : State) : Host.Outcome State Fault Refusal :=
  sysWord .rttNext w (fun _ => true) (fun e s =>
    match e.k.halt with
    | none => .ok s
    | some h =>
      if !h.atWord then .error (plain .illegalForm)
      else
        let s := e.retire s 1 []
        let pc := s.afterTrap e.c h
        let s := s.onWarp e.c (partyWarp h.party) (fun x => match h.party with
          | .access _ => { x with acc := { x.acc with apc := pc, bar := none } }
          | _ => match x.splits.find h.slot with
            | some p => { x with splits := x.splits.set h.slot { p with pc := pc, bar := none } }
            | none => x)
        .ok (endHalt (s.onCore e.c (fun k => (k.dropReplay h.party h.slot).clearValid)) e.c)) s

/-- RTT.END (R372): the block ends with the cause of its halt. -/
def execRttEnd (w : RWord) (s : State) : Host.Outcome State Fault Refusal :=
  sysWord .rttEnd w (fun _ => true) (fun e s =>
    .ok ((e.retire s 1 []).onCore e.c (fun k => match k.halt with
      | some h => ({ k.clearValid with halt := some { h with handler := none } }).failWith h.trap.cause
      | none => k))) s

/-- RTT.SAVED (R380): valid while a request for the core is outstanding; the block then leaves its core. -/
def execRttSaved (w : RWord) (s : State) : Host.Outcome State Fault Refusal :=
  sysWord .rttSaved w (fun _ => true) (fun e s =>
    if e.k.preempt.isNone then .error (plain .illegalForm)
    else .ok ((e.retire s 1 []).onCore e.c (fun k =>
      { k with halt := k.halt.map (fun h => { h with handler := none, save := true, soft := true }) }))) s

/-- A poisoned slot replayed (R188): its load is launched again from the record, or its lanes are zero. A word at APC that is no
queue load any more leaves the slot as it is. -/
def replaySlot (s : State) (c warp : Nat) (zero : Bool) (rec : Word) (apc base : Word64) : State :=
  let k := s.core c
  let q := bits rec.toNat 7 4
  let i := bits rec.toNat 10 8
  let x := (k.warp warp).queue q
  match s.fetchWord k.tlb k.asid apc.toNat false with
  | none => s
  | some bs =>
    let word := wordOfBytes bs
    let w := rOf word
    let fn : Option Fn := if opcOf word = Fn.opc .qld then some .qld else if opcOf word = Fn.opc .qldg then some .qldg else none
    match fn with
    | none => s
    | some f =>
      let set (s : State) (y : QSlot) : State := s.onCore c (fun k => k.setSlot warp q i y)
      if (x.slot i).st ≠ .poison then s
      else if zero then set s { st := .full, reg := { tag := BitVec.ofNat 4 (w.fld 13 10) } }
      else
        let data := (x.slot i).reg.w
        let addr := queueAddrs f w k.kernel.w base data
        let w := { w with d := BitVec.ofNat 10 q }
        let o : Op := { id := s.opId, party := .access warp, slot := 0, fn := f, body := .r w, pc := apc, since := s.clk, born := s.ref,
                        flag := 0, stage := .go, lanes := lanesOf addr.keys, addr, data, args := [base], pos := i,
                        regions := s.heldList (clusterOf c) }
        (set { s with opId := s.opId + 1 } { st := .pending, reg := (x.slot i).reg }).onCore c (fun k =>
          { k with ops := k.ops ++ [o], lastOp := o.id + 1 })

/-- RTT.RPL (R188): valid only in a handler entered through QUEUE_POISON. -/
def execRttRpl (w : RWord) (s : State) : Host.Outcome State Fault Refusal :=
  runWord .rttRpl (.r w) (fun e s =>
    match e.k.halt with
    | some h =>
      if !e.handler || h.trap.cause != .queuePoison then .error (plain .illegalForm)
      else if e.act = 0 then .ok (e.retire s 1 [])
      else
        let s := replaySlot (e.retire s 1 []) e.c (partyWarp h.party) (w.mb 0) ((e.k.sysReg 0x00C).setWidth 32) (e.k.sysReg 0x008)
          (e.k.sysReg 0x009)
        .ok (returnPlain s e.c)
    | none => .error (plain .illegalForm)) s

/-! Context parts (R381). -/

/-- The parts' warps that a CTXSV or CTXLD names. -/
def Env.partWarps (e : Env) (w : RWord) : List Nat :=
  if w.fld 10 5 = 63 then e.k.allWarps else [w.fld 10 5]

/-- The bytes that a part moves, as offsets and lengths, and the header's first word with a part that only marks itself. -/
def Env.partRanges (e : Env) (w : RWord) : List (Nat × Nat) :=
  (0, 8) :: (partBytes e.s e.c false (w.fld 4 0) 1 (e.partWarps w)).map (fun x => (x.1, x.2.length))

/-- What the page checks of a part's ranges find. -/
def Env.partCheck (e : Env) (w : RWord) (need : Need) : LaneCheck :=
  let base := e.srcA true 0
  (((e.partRanges w).map (fun r => (e.s.rangeCheck e.c e.blk.asid ((base + r.1) % 2 ^ 64) r.2 need true false
    (e.s.heldList (clusterOf e.c))).2)).find?
    (fun x => x != .ok)).getD .ok

/-- A CTXSV or CTXLD: its traps, then what it moves; the move stands when it has issued, and the word completes later. -/
def partWord (fn : Fn) (w : RWord) (need : Need) (cond : Env → Bool) (k : Env → Nat → State → State) (s : State) :
    Host.Outcome State Fault Refusal :=
  sysWord fn w (fun e => cond e && (e.srcA true 0 % 2 ^ 16 != 0 || e.partCheck w need != .wait)) (fun e s =>
    let base := e.srcA true 0
    if base % 2 ^ 16 ≠ 0 then .error (addrTrap .alignFault base)
    else match e.partCheck w need with
      | .bad _ cause _ => .error (addrTrap cause base)
      | _ => .ok (k e base (e.launchOp s .go (fun o => o)))) s

/-- CTXSV (R381): waits for the drains, and abandons every SIG.WAIT. A poisoned half that it reads ends the block (R375); an
MTX_DATA that waits is raised by the header's save (R234). -/
def execCtxsv (w : RWord) (s : State) : Host.Outcome State Fault Refusal :=
  let part := w.fld 4 0
  partWord .ctxsv w .write (fun e => e.k.drained) (fun e base s =>
    let asid := e.blk.asid
    let s := s.abandonWaits e.c
    let ws := e.partWarps w
    let k := s.core e.c
    if k.partPoisoned part ws then s.onCore e.c (fun k => k.failWith .dataError)
    else if part = 0 && k.mtxWaiting.isSome then s.onCore e.c (fun k => k.failWith .doubleTrap)
    else
      let xs := partBytes s e.c false part 1 ws
      let mark := (leNat (s.areaRead asid base 0 8)) ||| 2 ^ (16 + part)
      let s := s.areaPut asid base xs
      (if part = 0 then s else s.areaPut asid base [(0, toLe mark 8)]).l1Clear e.c) s

/-- CTXLD (R381): a header of another block or version ends the block with CTX_FORM. -/
def execCtxld (w : RWord) (s : State) : Host.Outcome State Fault Refusal :=
  let part := w.fld 4 0
  partWord .ctxld w .read (fun _ => true) (fun e base s =>
    let rd := s.areaRead e.blk.asid base
    if part = 0 ∧ (leNat (rd 0 2) ≠ 1 ∨ leNat (rd 8 8) ≠ e.blk.launch) then s.onCore e.c (fun k => k.failWith .ctxForm)
    else loadPart s e.c false part (e.partWarps w) rd) s

/-! SCRUB (R385). -/

/-- The parts of a core that PARTS selects, zeroed. -/
def Core.scrubParts (k : Core) (m : Nat) : Core :=
  let k := if bit m 0 then { k with scratch := [] } else k
  let k := if bit m 1 then { k with tiles := [] } else k
  let k := if bit m 2 then { k with wbuf := [] } else k
  let k := if bit m 3 then { k with codebook := [] } else k
  let k := if bit m 4 then { k with warps := k.warps.mapV (fun x => { x with queues := [], acc := { x.acc with slipCount := 0 } }) } else k
  let k := if bit m 5 then { k with tags := 0, tagerr := 0, tagrec := [] } else k
  let k := if bit m 6 then { k with shapes := [] } else k
  if bit m 7 then { k with warps := k.warps.mapV (fun x => { x with v := [] }) } else k

/-- SCRUB: waits for the drains, then zeroes. -/
def execScrub (w : RWord) (s : State) : Host.Outcome State Fault Refusal :=
  sysWord .scrub w (fun e => e.k.drained) (fun e s =>
    .ok (((e.launchOp s .go (fun o => o)).abandonWaits e.c).onCore e.c (fun k => k.scrubParts (w.fld 7 0)))) s

/-! System registers (R367 to R369). -/

/-- TCTL (R369). -/
def Core.tctl (k : Core) (b : Block) : Nat :=
  b.relaunch % 256 * 2 ^ 8 + (if k.ptrap then 4 else 0) + if k.hmode then 2 else 0

/-- The value of a system register. -/
def Env.sysValue (e : Env) (i : Nat) : Word64 :=
  match i with
  | 0x100 => (e.s.ctx e.blk.asid).handler
  | 0x101 => BitVec.ofNat 64 (e.k.tctl e.blk)
  | 0x102 => BitVec.ofNat 64 e.blk.savebase
  | 0x103 => BitVec.ofNat 64 e.k.haltclk
  | _ => e.k.sysReg i

/-- The registers that a SYSWR changes; writes to the others are ignored (R7). -/
def sysWritable (i : Nat) : Bool := i == 0x004 || i == 0x00E || (decide (0x010 ≤ i) && decide (i ≤ 0x016)) || i == 0x101

def execSysrd (w : RWord) (s : State) : Host.Outcome State Fault Refusal :=
  sysWord .sysrd w (fun _ => true) (fun e s => .ok (e.retire s 3 (pairWrs e.w w.d.toNat (e.sysValue (w.fld 11 0))))) s

/-- SYSWR (R367, R370): the register holds its new value for the words that issue after; the word completes at t + 3 (log 37). -/
def execSyswr (w : RWord) (s : State) : Host.Outcome State Fault Refusal :=
  sysWord .syswr w (fun _ => true) (fun e s =>
    .ok ((e.retire s 3 []).onCore e.c (fun k =>
      if sysWritable (w.fld 11 0) then k.land (.sys (w.fld 11 0) (BitVec.ofNat 64 (e.srcA true 0))) else k))) s

/-! The timer (R373). -/

/-- What a TIMER finds at its target. -/
def Env.timerTrap (e : Env) : Option Trap :=
  if e.srcA true 0 = 0 then none
  else match e.codeAt (BitVec.ofNat 64 (e.srcB true 0)) with
    | none => some (plain .targetFault)
    | some bs => if isLanding (wordOfBytes bs) then none else some (plain .targetLand)

def execTimer (w : RWord) (s : State) : Host.Outcome State Fault Refusal :=
  runWhen .timer (.r w) Env.codeReady (whenActive (fun e s =>
    match e.timerTrap with
    | some t => .error t
    | none =>
      let delay := e.srcA true 0
      .ok ((e.launchOp s .go (fun o => o)).onWarp e.c e.w (fun x =>
        if delay = 0 then { x with cmp := 0 }
        else { x with cmp := BitVec.ofNat 64 (e.clk + delay), tt := BitVec.ofNat 64 (e.srcB true 0) })))) s

def execTimerrd (w : RWord) (s : State) : Host.Outcome State Fault Refusal :=
  runFixed .timerrd (.r w) (fun _ => 3) (fun _ => none) (fun e =>
    pairWrs e.w w.d.toNat (BitVec.ofNat 64 (if e.wp.cmp = 0 then 0 else e.wp.cmp.toNat - e.clk))) s

/-- TIMER_EVENT (R373): taken in place of the warp's next compute word. -/
def execTimerEvent (core warp : Nat) (s : State) : Host.Outcome State Fault Refusal :=
  let k := s.core core
  let x := k.warp warp
  match x.splits with
  | [(slot, p)] =>
    if timerTaken x s.clk false && k.mayIssue s.clk (.compute warp) slot false && decide (p.ready ≤ s.clk) && !p.waiting &&
        p.held.isNone && p.bar.isNone && (match s.fetchWord k.tlb k.asid p.pc.toNat false with
          | some bs => waitOk x.f (rOf (wordOfBytes bs)).ctl.wait
          | none => true) then
      done (s.setCore core (k.setWarp warp { x with cmp := 0, splits := [(slot, { p with rets := p.pc :: p.rets, pc := x.tt })] }))
    else .next s
  | _ => .next s

/-! SNAP (R386). -/

/-- The status and the sequence number of a trigger. -/
def execSnap (w : RWord) (s : State) : Host.Outcome State Fault Refusal :=
  if onStack s then
    runStack .snap (.r w) (fun e x =>
      let r := s.fireSnap
      .ok (r.2.setSc e.g e.k (x.setX w.d.toNat (BitVec.ofNat 64 ((if r.1 then 0 else 1) + r.2.host0.snaps * 2 ^ 32))))) s
  else runVariable .snap (.r w) (fun _ => none) (fun e o => { o with dests := e.destRegs }) s

/-- SNAP performed. -/
def snapDone (s : State) (c : Nat) (o : Op) : State :=
  let r := s.fireSnap
  completeOp r.2 c o (podD2 o (if r.1 then 0 else 1) r.2.host0.snaps)

/-! Events of a halt. -/

/-- HANDLER_ENTRY (R364, R365). -/
def execHandlerEntry (core : Nat) (s : State) : Host.Outcome State Fault Refusal := done (enterHandler s core)

/-- DEFERRED_CAUSE_IN_HANDLER (R429): a check or walk that an instruction issued before the halt is held by ends while the handler
runs, with a cause: the instruction takes no effect and stands to issue again. -/
def execDeferredCauseInHandler (core : Nat) (party : Party) (slot : Nat) (s : State) : Host.Outcome State Fault Refusal :=
  let k := s.core core
  match k.halt, k.ops.find? (fun o => o.party == party && o.slot == slot && !o.handler && o.stage == .check) with
  | some h, some o =>
    if h.handler.isSome && spaceOf o.fn == .paged && decide (o.since + 3 ≤ s.clk) && (opLanes o).any (fun l =>
        match s.laneCheck core o.fn false (o.status != 0) o.regions (opSize o) (o.addr.get l 0) with
        | .bad _ _ _ => true
        | _ => false) then done (dropOp s core o)
    else .next s
  | _, _ => .next s

/-- REGISTER_FILE_ECC (R375): the unit is marked poisoned. -/
def execRegisterFileEcc (core : Nat) (unit : EccUnit) (s : State) : Host.Outcome State Fault Refusal :=
  match (s.core core).block with
  | none => .next s
  | some b =>
    done (s.onCore core (fun k =>
      match unit with
      | .vreg w r l h =>
        if w < b.kernel.nwarps ∧ r < b.kernel.n ∧ l < b.kernel.w ∧ h < 2 then
          let x := k.warp w
          let v := x.vreg r
          k.setWarp w { x with v := x.v.put r { v with bad := v.bad.set (2 * l + h) {} } {} }
        else k
      | .queue w q i l h =>
        if w < b.kernel.nwarps ∧ q < 16 ∧ i < 8 ∧ l < b.kernel.w ∧ h < 2 then
          let y := ((k.warp w).queue q).slot i
          if y.st = .full then k.setSlot w q i { y with reg := { y.reg with bad := y.reg.bad.set (2 * l + h) {} } } else k
        else k
      | .tile t e =>
        if t < b.kernel.ntiles ∧ e < 16384 then
          let x := k.tiles.get t {}
          { k with tiles := k.tiles.put t { x with bad := x.bad.set e true } {} }
        else k))

end Sys2Proof.Machine
end

