-- ==== Sys2Proof/Machine/Host.lean ====
section
/-! DEFINITION. The host port and what the package does by itself (R402 to R417): control registers, the time unit and the timetable
(R351, R352), power, readiness, the ports' training (R318, R320, R324), and contexts (R408, R409). -/

namespace Sys2Proof.Machine

/-! Registers of BAR0 (R404). -/

/-- The record of a discarded register access (R8). -/
def State.discarded (s : State) (offset : Nat) : State := s.log { cls := 0, addr := some offset }

/-- Whether a register access has the width and alignment of R402. -/
def accessOk (offset width : Nat) : Bool := width == 8 && offset % 8 == 0

/-- THERM (R404, R414) and SNAPCTL (R413). -/
def State.therm (s : State) : Nat := s.host0.hottest % 2 ^ 16 + if s.throttle = 0 then 0 else 2 ^ 16
def HostRegs.snapctl (h : HostRegs) : Nat :=
  h.snapbuf * 2 ^ 12 + min h.missed 3 * 2 ^ 6 + h.snaps % 4 * 2 ^ 4 + (if h.enerr then 8 else 0) + (if h.entrig then 4 else 0) +
    (if h.entt then 2 else 0) + if h.armed then 1 else 0

/-- What a read of a register of BAR0 gives (R7, R8, R404). -/
def State.regRead (s : State) (offset width : Nat) : Nat :=
  let h := s.host0
  if !accessOk offset width then 0
  else match offset with
    | 0x0000 => 0x4C58D09600000000 + Config.revision.toNat % 2 ^ 8
    | 0x0008 => s.ready.toNat
    | 0x0010 => s.podcfg.toNat
    | 0x0020 => h.ctxstat
    | 0x0040 => h.ttbase
    | 0x0048 => h.ttlen
    | 0x0080 => s.todns
    | 0x0090 => (BitVec.ofInt 32 s.rate).toNat
    | 0x0098 => h.ppsts
    | 0x00A0 => h.ppscnt
    | 0x0100 => h.snapctl
    | 0x0180 => h.elogbase
    | 0x0188 => h.elogsize + h.eloghead * 2 ^ 32 + h.elogtail * 2 ^ 48
    | 0x0190 => h.elogdrop
    | 0x0200 => h.pwrcap
    | 0x0208 => s.therm
    | _ => 0

/-- A read of a register by the host: what it returns is kept as the host's last read; one of another width or alignment is
logged and returns 0 (R8). -/
def State.readRegister (s : State) (offset width : Nat) : State :=
  { (if accessOk offset width then s else s.discarded offset) with lastRead := s.regRead offset width }

/-- A read of the snapshot buffer by the host: what a firing latched stands there until the next one (R413). -/
def State.readSnapshot (s : State) (place : Nat) : State := { s with lastRead := (Config.snapshot s.host0.snaps place).toNat }

/-- PODCFG written (R407). -/
def State.writePodcfg (s : State) (value : Nat) : State :=
  let v := bits value 11 0
  if s.podcfg.getLsbD 11 then s.discarded 0x10
  else
    let t := { s with podcfg := BitVec.ofNat 64 v }
    if bit v 11 && (decide (5 < bits v 10 8) || decide (podN t.order ≤ bits v 7 0)) then s else t

/-- A step of TODNS queued (R411). -/
def State.queueStep (s : State) (value : BitVec 64) : State := { s with todStep := s.todStep + value.toInt }

/-- PODCFG_WRITE (R407). -/
def execPodcfgWrite (width : Nat) (value : BitVec 64) (s : State) : Host.Outcome State Fault Refusal :=
  done (if width = 8 then s.writePodcfg value.toNat else s.discarded 0x10)

/-- TODSTEP_WRITE (R411). -/
def execTodstepWrite (width : Nat) (value : BitVec 64) (s : State) : Host.Outcome State Fault Refusal :=
  done (if width = 8 then s.queueStep value else s.discarded 0x88)

/-! The time unit (R410, R411). -/

/-- PPS_EDGE (R410). -/
def execPpsEdge (s : State) : Host.Outcome State Fault Refusal :=
  done { s with host0 := { s.host0 with ppsts := s.todns, ppscnt := (s.host0.ppscnt + 1) % 2 ^ 64 } }

/-- TODNS with the queued step, in its units. -/
def State.applyStep (s : State) : State := { s with tod := ((s.tod : Int) + s.todStep * (5 * 2 ^ 32)).toNat, todStep := 0 }

/-- The address of a timetable entry, a field of it, and a field replaced (R351). -/
def State.entryAddr (s : State) (e : Nat) : Nat := s.host0.ttbase / 64 * 64 + 64 * e
def State.entryNum (s : State) (e o n : Nat) : Nat := s.hbm.num (s.entryAddr e + o) n
def State.putEntry (s : State) (e o n v : Nat) : State := s.writeHbm (s.entryAddr e + o) (toLe v n)

/-- One slot not fired. -/
def State.skip (s : State) (e n : Nat) : State := s.putEntry e 0x1C 4 (min (s.entryNum e 0x1C 4 + n) 0xFFFFFFFF)

/-- A refusal of a firing, entered in the log with its status (R352). -/
def State.refuseFiring (s : State) (e asid st : Nat) : State :=
  (s.skip e 1).log { cls := 1, asid, unit := some e, code := some (st, 1), addr := some (s.entryNum e 0x10 8) }

/-- The instance of an entry submitted at boundary `t`, and whether it was. `put` tells where the new instance stands. -/
def State.submitEntry (s : State) (e t : Nat) (put : Instance352 → Nat → Instance352) : Bool × State :=
  let asid := s.entryNum e 0x30 1
  let x := s.timetable.get e {}
  if !(s.ctx asid).live || (s.ctx asid).ending then (false, (s.setEntry e { x with wait := none }).refuseFiring e asid 2)
  else match s.checkLaunch asid (s.entryNum e 0x10 8) (.timetable e) with
    | (.wait, s) => (false, s.setEntry e { x with wait := some t })
    | (.status st, s) => (false, (s.setEntry e { x with wait := none }).refuseFiring e asid st)
    | (.ok l, s) =>
      if !s.launchRoom 1 then (false, (s.setEntry e { x with wait := none }).skip e 1)
      else
        let r := s.accept l
        let s := r.2.setEntry e (put { x with wait := none } r.1)
        let s := (s.putEntry e 0x20 8 (s.entryNum e 0x20 8 + 1)).putEntry e 0x28 8 t
        (true, if bit (s.entryNum e 0x18 4) 28 && s.host0.entt then s.fireSnap.2 else s)

/-- A running instance saved whole (R349, R352). -/
def State.suspend (s : State) (id new : Nat) : State :=
  match s.launches.find id with
  | some l => (s.coresOf id).foldl (fun s c => s.requestCore (some new) c) (s.setLaunch id { l with suspended := true })
  | none => s

/-- A firing under PREEMPT: the running instance is saved whole once the new one has been submitted; a descriptor whose page must be
awaited leaves the firing waiting. -/
def State.preemptEntry (s : State) (e t run : Nat) : State :=
  match s.submitEntry e t (fun x id => { x with susp := some run, run := some id }) with
  | (true, s) => s.suspend run (((s.timetable.get e {}).run).getD 0)
  | (false, s) => s

/-- An entry fires at its slot (R352). -/
def State.fireEntry (s : State) (e t : Nat) : State :=
  let x := s.timetable.get e {}
  let flags := s.entryNum e 0x18 4
  match x.run, x.wait with
  | none, none => (s.submitEntry e t (fun x id => { x with run := some id })).2
  | none, some _ => s.skip e 1
  | some run, _ =>
    match bits flags 30 29 with
    | 0 => s.skip e 1
    | 1 => if bit flags 26 then s.skip e 1 else s.putEntry e 0x18 4 (setBits flags 26 26 1)
    | _ =>
      if x.susp.isSome then s.skip e 1
      else
        if x.wait.isSome then s.skip e 1 else s.preemptEntry e t run

/-- SLOT after a firing at boundary `t` (R352). -/
def State.nextSlot (s : State) (e t : Nat) : State :=
  let slot := s.entryNum e 0 8
  let period := s.entryNum e 8 8
  if period = 0 then s.putEntry e 0x18 4 (setBits (s.entryNum e 0x18 4) 31 31 0)
  else
    let k := (t - slot) / period + 1
    (s.putEntry e 0 8 ((slot + period * k) % 2 ^ 64)).skip e (k - 1)

/-- A firing that waits for its descriptor is tried again: as a new instance, or under PREEMPT beside the one that runs. -/
def State.retryFiring (s : State) (e t : Nat) : State :=
  let x := s.timetable.get e {}
  match x.wait, x.run with
  | some _, none => (s.submitEntry e t (fun x id => { x with run := some id })).2
  | some _, some id => if x.susp.isNone then s.preemptEntry e t id else s
  | none, _ => s

/-- What the timetable unit does with an entry at boundary `t`: a firing that waits for its descriptor, a deferred instance, then
the slot. -/
def State.examine (s : State) (t : Nat) (e : Nat) : State :=
  let run : Instance352 → Nat → Instance352 := fun x id => { x with run := some id }
  let s := s.retryFiring e t
  let x := s.timetable.get e {}
  let flags := s.entryNum e 0x18 4
  let s := if bit flags 26 && x.run.isNone && x.wait.isNone then
      (let s := s.putEntry e 0x18 4 (setBits flags 26 26 0)
       (s.submitEntry e t run).2)
    else s
  if bit (s.entryNum e 0x18 4) 31 && bits (s.entryNum e 0x18 4) 30 29 != 3 then
    (if s.entryNum e 0 8 = 0 then s.putEntry e 0 8 (t + 1000)
     else if s.entryNum e 0 8 ≤ t then (s.fireEntry e t).nextSlot e t
     else s)
  else s

/-- The entries that the timetable unit scans: TTLEN, or a free number where TTLEN is above 256 (R404, log 49). -/
def State.scanned (s : State) : Nat :=
  if s.host0.ttlen ≤ 256 then s.host0.ttlen else (Config.freeWord s.fresh).toNat % 257

/-- TIMETABLE_TICK (R352, R411): at a microsecond boundary the step takes effect, then every entry is examined in order. -/
def execTimetableTick (s : State) : Host.Outcome State Fault Refusal :=
  if s.todns / 1000 ≤ s.tick then .next s
  else
    let s := s.applyStep
    let b := s.todns / 1000
    let s := { s with tick := b }
    done (if s.ready.getLsbD 2 then (List.range s.scanned).foldl (fun s e => s.examine (1000 * b) e) s else s)

/-- A value that a register is said to hold in a range, as the hardware uses it: a free value of the range where the register
holds one outside it (log 49). -/
def inRange (v lo hi fresh : Nat) : Nat :=
  if lo ≤ v ∧ v ≤ hi then v else lo + (Config.freeWord fresh).toNat % (hi + 1 - lo)

/-- TRIG_PIN_PULSE (R413). -/
def execTrigPinPulse (nanoseconds : Nat) (s : State) : Host.Outcome State Fault Refusal :=
  if 20 ≤ nanoseconds ∧ s.host0.entrig then done s.fireSnap.2 else .next s

/-! Power (R414). -/

/-- THERMAL_THROTTLE: the arithmetic clock goes a step of 5 % down while the power or a die is too high, and back up otherwise. -/
def execThermalThrottle (powerWatts hottestTenths : Nat) (s : State) : Host.Outcome State Fault Refusal :=
  let s := { s with host0 := { s.host0 with hottest := hottestTenths } }
  done (if inRange s.host0.pwrcap 1000 5600 s.fresh < powerWatts ∨ 1050 ≤ hottestTenths then { s with throttle := min (s.throttle + 1) 19 }
        else { s with throttle := s.throttle - 1 })

/-- THERMAL_SHUTDOWN: all work stops, and a class 4 record is logged. -/
def execThermalShutdown (die : Nat) (s : State) : Host.Outcome State Fault Refusal :=
  done ({ s with stopped := true }.log { cls := 4, unit := some die })

/-! Reset and readiness (R405, R406). -/

/-- The bits of READY that name a function. -/
def readyBits : List Nat := [0, 1, 2, 3] ++ (List.range 6).map (· + 10) ++ (List.range 32).map (· + 16)

/-- Lines lost from every slice: the memory beneath holds what was last written back. -/
def State.dropModified (s : State) (p : Nat → Bool) : State :=
  let gone := s.l2.keep (fun k x => p k && x.st == .m)
  let s := gone.foldl (fun s e =>
    if e.1 < 2 ^ 60 then { s with hbm := s.hbm.putBytes (64 * e.1) e.2.old }
    else { s with mods := s.mods.putBytes (64 * (e.1 - 2 ^ 60)) e.2.old }) s
  { s with l2 := s.l2.keep (fun k _ => !p k), copies := s.copies.keep (fun k _ => !p (k % 2 ^ 61)) }

/-- RESET (R405): the host port comes up and READY is clear. What lies outside the package stays, and so do the DRAM and the weight
stores beneath the caches. -/
def execReset (s : State) : Host.Outcome State Fault Refusal :=
  let s := s.dropModified (fun _ => true)
  done { State.reset with host := s.host, mods := s.mods, hbm := s.hbm, ws := s.ws, fresh := s.fresh + 1 }

/-- SELF_TEST_PASS (R405). -/
def execSelfTestPass (bit : Nat) (s : State) : Host.Outcome State Fault Refusal :=
  if readyBits.contains bit then done { s with ready := putBit s.ready bit true } else .next s

/-- The lines of modules that a port reaches, in the L2 slices of the package. -/
def State.viaPort (s : State) (port : Nat) (k : Nat) : Bool :=
  decide (2 ^ 60 ≤ k) && headOn s.order s.self ((k - 2 ^ 60) * 64 / 2 ^ 56) == some port

/-- The unit that a bit of READY stands for, in R12's numbering: a compute die, a module port or a stack. -/
def readyUnit (bit : Nat) : Option Nat :=
  if 10 ≤ bit ∧ bit < 16 then some (bit - 10) else if 16 ≤ bit ∧ bit < 24 then some (bit - 16)
  else if 24 ≤ bit ∧ bit < 48 then some (bit - 24) else none

/-- READY_FALL (R406): an error record is written; a port that is not ready reads RESET. -/
def execReadyFall (bit : Nat) (s : State) : Host.Outcome State Fault Refusal :=
  if s.ready.getLsbD bit then
    let s := { s with ready := putBit s.ready bit false }
    let s := if 16 ≤ bit ∧ bit < 24 then
        ((s.dropModified (s.viaPort (bit - 16))).setPort (bit - 16) { s.port (bit - 16) with state := 0 }).drainWatchAll
      else s
    done (s.log { cls := 6, unit := readyUnit bit })
  else .next s

/-- LINK_LANE_FAILURE (R324): a lane that the port uses fails, and it retrains. A port that leaves UP is a link event (R415,
log 40). -/
def execLinkLaneFailure (port lane : Nat) (s : State) : Host.Outcome State Fault Refusal :=
  let p := s.port port
  if 16 ≤ lane ∨ p.failed.getLsbD lane ∨ (p.state ≠ 1 ∧ p.state ≠ 2) then .next s
  else
    let used : Bool := ((widthLanes[p.width]?).getD 0).testBit lane
    let p := { p with failed := putBit p.failed lane true }
    let up := p.state = 1
    let s := s.setPort port (if used ∨ p.state = 2 then { p with state := 2 } else p)
    done (if used ∧ up then s.log { cls := 5, unit := some port } else s)

/-- LINK_DOWN (R324): no width is left; the port's accesses end with LINK_DOWN and its lines count as recalled. -/
def execLinkDown (port : Nat) (s : State) : Host.Outcome State Fault Refusal :=
  let p := s.port port
  if (p.state = 1 ∨ p.state = 2) ∧ p.usable.isNone then
    let s := (s.dropModified (s.viaPort port)).setPort port { p with state := 3 }
    done ((s.log { cls := 5, unit := some port, code := some (7, 2) }).drainWatchAll)
  else .next s

/-- Whether the profile block of the module at a port is in order (R320). -/
def State.profileOk (s : State) (port : Nat) : Bool :=
  let m := moduleAt s.order s.self port
  s.modNum m 2 2 == 0x7701 && s.modNum m 1 1 == 1 && s.modNum m 4 1 == s.order + 1 && s.modNum m 5 1 == m

/-- PORT_TRAINING_COMPLETE (R33, R318, R320): a port that has left reset comes up, or is held down when its module fails the
check. -/
def execPortTrainingComplete (port width : Nat) (s : State) : Host.Outcome State Fault Refusal :=
  let p := s.port port
  if s.podcfg.getLsbD 11 && s.order != 0 && decide (port ≤ s.order) && s.ready.getLsbD (16 + port) && p.state == 0 &&
      p.usable == some width then
    done ((s.setPort port { p with state := if s.profileOk port then 1 else 3, width }).drainWatchAll)
  else .next s

/-! Refresh windows (R161). -/

/-- REFRESH_WINDOW_START: the die's window begins. -/
def execRefreshWindowStart (die : Nat) (s : State) : Host.Outcome State Fault Refusal :=
  if die < 6 ∧ refreshPhase s.clk die < 320 then done { s with refresh := s.refresh.put die true false } else .next s

/-- REFRESH_WINDOW_END: the held reads are served from then on. -/
def execRefreshWindowEnd (die : Nat) (s : State) : Host.Outcome State Fault Refusal :=
  if 320 ≤ refreshPhase s.clk die then done { s with refresh := s.refresh.put die false false } else .next s

/-! Contexts (R408, R409). -/

/-- CTXSTAT written. -/
def State.ctxStatus (s : State) (st asid : Nat) : State := { s with host0 := { s.host0 with ctxstat := st + asid * 2 ^ 8 } }

/-- The module-grant list (R408): up to 64 entries, ended by one of zeros; the module number stands above a 56-bit offset, as in an
MADDR, and the length after it. -/
def grantList (hbm : FMap Byte) (a : Nat) : Nat → List ModRange
  | 0 => []
  | n + 1 =>
    let x := hbm.num a 8
    let len := hbm.num (a + 8) 8
    if x = 0 ∧ len = 0 then [] else ⟨bits x 63 56, bits x 55 0, len⟩ :: grantList hbm (a + 16) n

/-- A context descriptor's fields (R408). -/
def State.descNum (s : State) (a o n : Nat) : Nat := s.hbm.num (a + o) n
def State.descOp (s : State) (a : Nat) : Nat := s.descNum a 0x30 1

/-- Whether a descriptor's reserved bits are 0. -/
def State.descForm (s : State) (a : Nat) : Bool :=
  decide (s.descOp a < 3) &&
    (s.descOp a == 2 || (bits (s.descNum a 0 8) 63 35 == 0 && s.descNum a 0x32 6 == 0 && s.descNum a 0x38 8 == 0 && s.descNum a 0x1C 4 == 0 &&
      (s.descOp a != 0 || s.descNum a 0x31 1 == 0)))

/-- The live contexts other than one. -/
def State.others (s : State) (asid : Nat) : List Context := (s.ctxs.filter (fun e => e.1 != asid && e.2.live)).map (·.2)

/-- Whether a grant meets one of another live context. -/
def State.conflict (s : State) (asid sg ws : Nat) : Bool := (s.others asid).any (fun x => x.sgrant &&& sg != 0 || x.wsgrant &&& ws != 0)

/-- The stack groups of a mask, and its dies. -/
def maskGroups (m : Nat) : List Nat := (List.range 24).filter (fun g => m.testBit g)
def maskDies (m : Nat) : List Nat := (List.range 6).filter (fun d => m.testBit d)

/-- The stack cores of stack groups given to a context, scrubbed (R260, R417). -/
def State.giveStacks (s : State) (asid : Nat) (gs : List Nat) : State :=
  gs.foldl (fun s g => (List.range 64).foldl (fun s k => s.setSc g k (grantedStackCore asid)) s) s

/-- Weight stores that pass to another context (R412). -/
def State.zeroDies (s : State) (ds : List Nat) : State := { s with zeroing := s.zeroing ++ ds.filter (fun d => !s.zeroing.contains d) }

/-- The new context (R408, R409). -/
def State.createContext (s : State) (a : Nat) : State :=
  let sg := bits (s.descNum a 0 8) 23 0
  let ws := bits (s.descNum a 0 8) 29 24
  if s.conflict 256 sg ws then s.ctxStatus 4 0
  else match (List.range 256).find? (fun i => !(s.ctx i).live) with
    | none => s.ctxStatus 5 0
    | some asid =>
      match s.allocTable asid 2 with
      | none => s.ctxStatus 2 0
      | some (root, s) =>
        let v := s.descNum a 0 8
        let x : Context :=
          { live := true, root, handler := BitVec.ofNat 64 (s.descNum a 8 8), ptrap := bit v 34, sgrant := sg, wsgrant := ws,
            priocap := bits v 32 30, c48 := bit v 33, quota := s.descNum a 0x10 8, htout := s.descNum a 0x18 4,
            mrangeAt := s.descNum a 0x20 8, clog := s.descNum a 0x28 8,
            mranges := if s.descNum a 0x20 8 = 0 then [] else grantList s.hbm (s.descNum a 0x20 8) 64 }
        (((s.onCtx asid (fun _ => x)).giveStacks asid (maskGroups sg)).zeroDies (maskDies ws)).ctxStatus 0 asid

/-- The cores of stack groups on which a context has a block. -/
def State.blocksOn (s : State) (asid : Nat) (gs : List Nat) : List Nat :=
  s.cores.filterMap (fun e => match e.2.block with
    | some b => if b.asid = asid ∧ gs.contains (e.1 / 4) then some e.1 else none
    | none => none)

/-- A block made to leave by hardware, whatever PTRAP says (R409). -/
def State.forceSave (s : State) (c : Nat) : State :=
  s.onCore c (fun k =>
    let k := { k with preempt := if k.preempt.isSome then k.preempt else some ⟨none, s.ref, none⟩ }
    match k.halt with
    | none => { k with halt := some { found := s.clk, party := .matrix, trap := plain .preempt, save := true }, haltclk := s.clk }
    | some h => if h.entered && !h.save then { k with halt := some { h with save := true } } else k)

/-- How a launch fails when its units are taken away. -/
def takenAway : LaunchFail := { cause := 2, ckind := 1 }

/-- The context's work on a stack core ends (R409 step 3): commands are cancelled, a kernel ends as failed. -/
def State.clearStackCore (s : State) (asid g k : Nat) : State :=
  let s := s.cancel g k (fun y => y.asid == asid)
  let x := s.sc g k
  let s := match x.kernelOf with
    | some _ => if x.ending.isNone then s.setSc g k (x.finish 0x84 x.pc 0) else s
    | none => s
  match (s.sc g k).saved with
  | some id => (s.onSc g k (fun x => { x with saved := none })).unitEnded id (some { cause := 0x84, ckind := 3, unit := g * 64 + k })
  | none => s

/-- Whether a stack core has nothing left to do. -/
def SCore.quiet (x : SCore) : Bool := x.job == .idle && x.queue.isEmpty && x.dmas.isEmpty

/-- Launches of a context that can take no more units: those that name no remaining group, or all of them at destroy. -/
def State.dropLaunches (s : State) (asid sg : Nat) (all : Bool) : State :=
  (s.launches.filter (fun e => e.2.asid == asid)).foldl (fun s e =>
    let (id, l) := e
    let gone := all || (decide (dKind l.desc < 2) && (if dMask l.desc = 0 then sg == 0 else dMask l.desc &&& sg == 0))
    let todo := l.todo.filter (fun u => dKind l.desc == 1 && !sg.testBit u.1)
    if gone then
      if l.stage = 0 then s.failLaunch id l takenAway
      else
        let running := (s.coresOf id).length + (s.scores.filter (fun x => x.2.kernelOf == some id || x.2.saved == some id)).length
        let s := (s.away.filter (fun x => x.2.launch == id)).foldl (fun s x =>
          { s with away := s.away.del x.1 }.onCtx asid (fun c => { c with areas := c.areas.set x.2.area false })) s
        s.setLaunch id { l with next := dBlocks l.desc, todo := [], left := running, fail := some (l.fail.getD takenAway) }
    else if todo.isEmpty then s
    else
      let s := s.setLaunch id { l with todo := l.todo.filter (fun u => sg.testBit u.1) }
      todo.foldl (fun s _ => s.unitEnded id (some takenAway)) s) s

/-- The units of a context taken away as far as they can be now, and whether all have been (R409). -/
def State.takeUnits (s : State) (x : ContextChange) : Bool × State :=
  let old := (s.ctx x.asid).sgrant
  let gone := (maskGroups old).filter (fun g => !x.sgrant.testBit g)
  let gs := if x.destroy then List.range 24 else gone
  let s := s.dropLaunches x.asid (if x.destroy then 0 else x.sgrant) x.destroy
  let s := (s.blocksOn x.asid gs).foldl (fun s c =>
    if x.destroy then ((s.forceSave c).cancelBlock c).onCore c (fun k => k.failWith .preempt) else s.forceSave c) s
  let s := gone.foldl (fun s g => (List.range 64).foldl (fun s k => s.clearStackCore x.asid g k) s) s
  ((s.blocksOn x.asid gs).isEmpty && gone.all (fun g => (List.range 64).all (fun k => (s.sc g k).quiet)) &&
    (!x.destroy || s.launches.all (fun e => e.2.asid != x.asid)), s)

/-- Units scrubbed once a context has left them (R412, R417). -/
def State.scrubUnits (s : State) (asid : Nat) (gs dies : List Nat) : State :=
  let s := gs.foldl (fun s g =>
    let s := (List.range 64).foldl (fun s k => s.setSc g k {}) s
    let s := (List.range 4).foldl (fun s i => s.onCore (4 * g + i) (fun k => if k.block.isSome then k else { k.scrubbed with tenant := 0 })) s
    [2 * g, 2 * g + 1].foldl (fun s cl =>
      ((s.heldList cl).filter (fun r => (s.region r).asid == asid)).foldl (fun s r => s.freeRegion cl r) s) s) s
  s.zeroDies dies

/-- The end of a regrant. -/
def State.endRegrant (s : State) (x : ContextChange) : State :=
  let c := s.ctx x.asid
  let gone := (maskGroups c.sgrant).filter (fun g => !x.sgrant.testBit g)
  let new := (maskGroups x.sgrant).filter (fun g => !c.sgrant.testBit g)
  let dies := (maskDies c.wsgrant).filter (fun d => !x.wsgrant.testBit d) ++ (maskDies x.wsgrant).filter (fun d => !c.wsgrant.testBit d)
  let s := (s.scrubUnits x.asid gone dies).onCtx x.asid (fun c =>
    { c with sgrant := x.sgrant, wsgrant := x.wsgrant, priocap := x.priocap, ptrap := x.ptrap })
  { (s.giveStacks x.asid new).ctxStatus 0 x.asid with change := none }

/-- The end of a destroy: everything of the context is released. -/
def State.endDestroy (s : State) (asid : Nat) : State :=
  let c := s.ctx asid
  let s := s.scrubUnits asid (maskGroups c.sgrant) (maskDies c.wsgrant)
  let mine (e : TlbEntry) : Bool := e.asid == asid
  let s := { s with
    frames := s.frames.mapV (fun r => if r.owner = asid + 1 then { r with role := .free } else r),
    regions := s.regions.keep (fun _ r => r.asid != asid || !r.valid),
    kvCopies := s.kvCopies.keep (fun _ x => x.asid != asid), kvBack := s.kvBack.keep (fun _ x => x.asid != asid),
    kvBad := s.kvBad.filter (fun r => r.asid != asid),
    kvq := s.kvq.filter (fun r => r.asid != asid), mmpq := s.mmpq.filter (fun r => r.asid != asid),
    calls := s.calls.filter (fun x => x.req.asid != asid), denied := s.denied.filter (fun x => x.1 != asid),
    moving := s.moving.keep (fun k _ => k / 2 ^ 48 != asid),
    shoots := s.shoots.filter (fun x => x.asid != asid), ltlb := s.ltlb.filter (fun e => !mine e),
    cores := s.cores.mapV (fun k => { k with tlb := k.tlb.filter (fun e => !mine e), ctlb := k.ctlb.filter (fun e => !mine e),
                                             kvc := k.kvc.filter (fun e => e.asid != asid) }),
    change := none }
  { s with ctxs := s.ctxs.del asid }.ctxStatus 0 asid

/-- A regrant or destroy that has begun goes on. -/
def State.goOn (s : State) (x : ContextChange) : State :=
  match s.takeUnits x with
  | (true, s) => if x.destroy then s.endDestroy x.asid else s.endRegrant x
  | (false, s) => s

/-- A write of CTXDB (R408, R409): while a change of a context goes on, it is BUSY and is dropped. -/
def State.ctxdb (s : State) (a : Nat) : State :=
  match s.change with
  | some x => s.ctxStatus 3 x.asid
  | none =>
    let asid := s.descNum a 0x31 1
    let c := s.ctx asid
    let v := s.descNum a 0 8
    if !s.descForm a then s.ctxStatus 1 0
    else match s.descOp a with
      | 0 => s.createContext a
      | 1 =>
        if !c.live then s.ctxStatus 6 asid
        else if s.conflict asid (bits v 23 0) (bits v 29 24) then s.ctxStatus 4 asid
        else if s.descNum a 8 8 ≠ c.handler.toNat ∨ s.descNum a 0x10 8 ≠ c.quota ∨ s.descNum a 0x18 4 ≠ c.htout ∨
            s.descNum a 0x20 8 ≠ c.mrangeAt ∨ s.descNum a 0x28 8 ≠ c.clog ∨ bit v 33 ≠ c.c48 then s.ctxStatus 1 asid
        else
          let x : ContextChange :=
            { descriptor := a, asid, destroy := false, sgrant := bits v 23 0, wsgrant := bits v 29 24, priocap := bits v 32 30, ptrap := bit v 34 }
          { s with change := some x }.goOn x
      | _ =>
        if !c.live then s.ctxStatus 6 asid
        else
          let x : ContextChange := { descriptor := a, asid, destroy := true, sgrant := 0, wsgrant := 0, priocap := 0, ptrap := false }
          -- the graph slots are deactivated, and firings count as skips from now on
          let t := s.onCtx asid (fun c => { c with ending := true, graphs := [] })
          { t with change := some x }.goOn x

/-- CONTEXT_CREATE, with the descriptors whose OP is none of the three. -/
def execContextCreate (descriptor : Nat) (s : State) : Host.Outcome State Fault Refusal :=
  if s.descOp descriptor = 1 ∨ s.descOp descriptor = 2 then .next s else done (s.ctxdb descriptor)

/-- The MMP's work on a descriptor: what it has begun goes on; else it begins. -/
def State.changeContext (s : State) (a : Nat) : State :=
  match s.change with
  | some x => if x.descriptor = a then s.goOn x else s.ctxdb a
  | none => s.ctxdb a

/-- CONTEXT_REGRANT: the write, and what follows until the units are free. -/
def execContextRegrant (descriptor : Nat) (s : State) : Host.Outcome State Fault Refusal :=
  if s.descOp descriptor = 1 then done (s.changeContext descriptor) else .next s

/-- CONTEXT_DESTROY: the write, and what follows until the units are free. -/
def execContextDestroy (descriptor : Nat) (s : State) : Host.Outcome State Fault Refusal :=
  if s.descOp descriptor = 2 then done (s.changeContext descriptor) else .next s

/-- REGISTER_WRITE (R7, R8, R404): a host write to a control register. -/
def execRegisterWrite (offset width : Nat) (value : BitVec 64) (s : State) : Host.Outcome State Fault Refusal :=
  let v := value.toNat
  let h := s.host0
  if !accessOk offset width then done (s.discarded offset)
  else
    done (match offset with
      | 0x0010 => s.writePodcfg v
      | 0x0018 => s.ctxdb v
      | 0x0040 => { s with host0 := { h with ttbase := v } }
      | 0x0048 => { s with host0 := { h with ttlen := v } }
      | 0x0088 => s.queueStep value
      | 0x0090 => { s with rate := (value.setWidth 32).toInt }
      | 0x0100 => { s with host0 := { h with snapbuf := bits v 63 12, enerr := bit v 3, entrig := bit v 2, entt := bit v 1, armed := bit v 0 } }
      | 0x0180 => { s with host0 := { h with elogbase := v } }
      | 0x0188 => { s with host0 := { h with elogsize := bits v 15 0, elogtail := bits v 63 48 } }
      | 0x0200 => { s with host0 := { h with pwrcap := v } }
      | _ => s)

end Sys2Proof.Machine
end

