-- ==== Sys2Proof/Machine/Mmp.lean ====
section
/-! DEFINITION. The duties of the memory-management processor (R394 to R398, R237, R382): page requests, calls to the host, and
what it does to page tables on the host's requests. A duty whose conditions do not hold changes nothing. -/

namespace Sys2Proof.Machine

/-! Page requests (R394 to R397). -/

/-- Whether a leaf grants what a request asks for (R396). -/
def PageReq.granted (r : PageReq) (leaf : Nat) : Bool :=
  match r.kind with
  | some k => permits leaf k r.ho
  | none => (leafR leaf || leafW leaf || leafX leaf) && (r.ho || !leafHO leaf)

/-- A request refused: who waits for it learns so. -/
def State.refuse (s : State) (r : PageReq) : State :=
  r.waiters.foldl (fun s w =>
    if w.core = 96 then { s with denied := s.denied ++ [(r.asid, r.va)] }
    else s.onCore w.core (fun k => { k with ops := k.ops.map (fun o =>
      if o.id = w.op then { o with outs := o.outs.set w.lane 1 } else o) })) s

/-- A run for an absent page: the page's contents are its copy in the host's memory, its copy at the MMP, or zeros (R396,
R243). -/
def State.fillPage (s : State) (asid base size pa : Nat) : State :=
  let c := s.ctx asid
  match c.evicted.find base, List.find? (fun (x : Nat × KvCopy) => x.2.asid == asid && x.2.va == base) s.kvCopies with
  | some host, _ =>
    { s with hbm := s.hbm.putBytes pa (s.host.getBytes host size) }.onCtx asid (fun c => { c with evicted := c.evicted.del base })
  | none, some x => { s with hbm := s.hbm.putBytes pa x.2.bytes }
  | none, none => s


/-- A leaf made RESIDENT in the frames at `pa`. -/
def residentLeaf (x pa : Nat) : Nat := setBits (setBits x 10 9 0) 51 16 (pa / 2 ^ 16)

/-- Whether a request cannot be served yet: its page is MIGRATING or a shootdown of it goes on (R398). -/
def State.reqBlocked (s : State) (r : PageReq) : Bool :=
  s.shooting r.asid r.va || (match s.walk r.asid r.va with
    | .migrating _ => true
    | _ => false)

/-- One request served. -/
def State.serve (s : State) (r : PageReq) : State :=
  match s.walk r.asid r.va, s.leafOf r.asid r.va with
  | .ok x _ _, _ => if r.granted x then s else s.refuse r
  | .notres x, some (e, size, _) =>
    if !r.granted x then s.refuse r
    else
      (match leafTy x with
       | 0 =>
         (match s.allocFor r.asid (size / 2 ^ 16) .page with
          | some (pa, t) =>
            ((t.fillPage r.asid (r.va - r.va % size) size pa).writeEntry e (residentLeaf x pa)).setPin r.asid r.va
          | none => s.refuse r)
       | 1 =>
         if s.calls.any (fun y => y.req.asid == r.asid && decide (y.req.va / size = r.va / size)) then
           { s with calls := s.calls.map (fun y =>
               if y.req.asid = r.asid ∧ y.req.va / size = r.va / size then { y with req := { y.req with waiters := y.req.waiters ++ r.waiters } }
               else y) }
         else { s with calls := s.calls ++ [{ req := r, since := s.ref }] }
       | _ => s.refuse r)
  | _, _ => s.refuse r

/-- MMP_PAGE_REQUEST (R396): the oldest request of a context, where it can be served; one context's wait holds no other. -/
def execMmpPageRequest (s : State) : Host.Outcome State Fault Refusal :=
  let first (r : PageReq) : Bool := (s.mmpq.find? (fun q => q.asid == r.asid)) == some r
  match s.mmpq.find? (fun r => first r && !s.reqBlocked r) with
  | some r => done ({ s with mmpq := s.mmpq.erase r }.serve r)
  | none => .next s

/-- The host call for a page. -/
def State.callFor (s : State) (asid page : Nat) : Option HostCall :=
  s.calls.find? (fun y => y.req.asid == asid && y.req.va == page)

/-- HOST_PAGE_CALL_ANSWER (R397): FRAME is written and the leaf is RESIDENT. -/
def execHostPageCallAnswer (asid page hostFrame : Nat) (s : State) : Host.Outcome State Fault Refusal :=
  match s.callFor asid page with
  | none => .next s
  | some y =>
    let t := { s with calls := s.calls.erase y }
    match s.walk asid page, s.leafOf asid page with
    | .notres x, some (e, size, _) =>
      if leafTy x = 1 ∧ y.req.granted x then
        (if hostFrame * 2 ^ 16 % size = 0 ∧ hostFrame < 2 ^ 36 ∧ ¬ s.shooting asid page then
           done (t.writeEntry e (residentLeaf x (hostFrame * 2 ^ 16)))
         else .next s)
      else done (t.refuse y.req)
    | .ok x _ _, _ => done (if y.req.granted x then t else t.refuse y.req)
    | .migrating _, _ => .next s
    | _, _ => done (t.refuse y.req)

/-- HOST_CALL_TIMEOUT (R397): the call ends as a refusal. -/
def execHostCallTimeout (asid page : Nat) (s : State) : Host.Outcome State Fault Refusal :=
  match s.callFor asid page with
  | some y =>
    let us := (s.ctx asid).htout
    if y.since + ticksOf (if us = 0 then 1000 else us) ≤ s.ref then
      done ({ s with calls := s.calls.erase y }.refuse y.req)
    else .next s
  | none => .next s

/-- MIGRATING_WAIT_TIMEOUT (R395): a core check finds PAGE_FAULT, a queue load or a KMAP its own refusal; a copy engine takes the
page as refused. -/
def execMigratingWaitTimeout (core op : Nat) (s : State) : Host.Outcome State Fault Refusal :=
  match (s.core core).findOp op with
  | some o =>
    let pages := (o.waits.filter (fun e => e.1 != 0 && s.waitOver o e.1)).map (·.1)
    if o.stage == .done || (pages.isEmpty && !s.waitOver o 0) then .next s
    else
      done (s.setOp core
        { o with status := if s.waitOver o 0 then 1 else o.status,
                 waits := o.waits.filter (fun e => !s.waitOver o e.1),
                 outs := pages.foldl (fun m p => m.set (p - 1) 1) o.outs })
  | none => .next s

/-! Leaves on the host's requests (R397, R398). -/

/-- Whether a WINDOW leaf lies within the module ranges granted to the context (R401). -/
def State.windowLeafOk (s : State) (asid leaf size : Nat) : Bool :=
  (s.ctx asid).granted (bits leaf 51 45) (bits leaf 44 16 * 2 ^ 16) size

/-- MMP_MAP: one page of a context's range. The leaf carries no region, no HO and no pin; an HBM page that is RESIDENT takes the
frames that it names, which the MMP has found free within the quota, and they are zeros (R401). -/
def execMmpMap (asid : Nat) (va : BitVec 64) (leaf : BitVec 64) (level : Nat) (s : State) : Host.Outcome State Fault Refusal :=
  let a := va.toNat
  let x := leaf.toNat
  let size := levelSize level
  let n := size / 2 ^ 16
  let f := bits x 51 16
  if !(s.ctx asid).live || level = 0 || decide (3 < level) || a % size != 0 || !leafValid x size || leafRV x || leafHO x ||
      leafPN x || decide (leafSt x = 2) || (s.leafOf asid a).isSome || s.shooting asid a then .next s
  else
    let put (s : State) (x : Nat) : Host.Outcome State Fault Refusal := match s.setLeaf asid a level x with
      | some t => done t
      | none => .next s
    match leafTy x, leafSt x with
    | 0, 0 =>
      if f % n = 0 ∧ s.runOk asid f n ∧ s.framesUsed asid + n ≤ (s.ctx asid).quota then
        (match ({ s with fresh := s.fresh + 1 }.takeRun f n .page (asid + 1)).setLeaf asid a level x with
         | some t => done t
         | none => .next s)
      else .next s
    | 0, _ => put s (setBits x 51 16 0)
    | 1, _ => put s x
    | _, 0 => if s.windowLeafOk asid x size then put s x else .next s
    | _, _ => .next s

/-- MMP_UNMAP (R398): the leaf is removed, and its frames are given back once every receiver has answered. A page that a RESIDENT
KV entry maps, and a save area's, stay. -/
def execMmpUnmap (asid : Nat) (va : BitVec 64) (s : State) : Host.Outcome State Fault Refusal :=
  match s.leafOf asid va.toNat with
  | some (e, size, x) =>
    let base := va.toNat - va.toNat % size
    if leafHO x || decide (leafSt x = 2) || s.kvBacks asid base || s.shooting asid base then .next s
    else
      let t := (s.writeEntry e 0).onCtx asid (fun c =>
        { c with evicted := c.evicted.del base, hostPins := c.hostPins.del base })
      if leafSt x = 0 then
        done (t.shoot asid base size (if leafTy x = 0 then .release (leafFrame x / 2 ^ 16) else .nothing))
      else done t
  | none => .next s

/-- MMP_PROTECT (R398). -/
def execMmpProtect (asid : Nat) (va : BitVec 64) (r w x : Bool) (s : State) : Host.Outcome State Fault Refusal :=
  match s.leafOf asid va.toNat with
  | some (e, size, y) =>
    let base := va.toNat - va.toNat % size
    if leafHO y || decide (leafSt y = 2) || (w && !r) || s.shooting asid base then .next s
    else
      let n (b : Bool) : Nat := if b then 1 else 0
      let t := s.writeEntry e (setBits y 7 5 (n r + 2 * n w + 4 * n x))
      done (if leafSt y = 0 then t.shoot asid base size .nothing else t)
  | none => .next s

/-- A page's migration begun (R398): the new frames are taken, and the entry is MIGRATING with the old FRAME. -/
def State.startMove (s : State) (asid va frame : Nat) : State :=
  match s.leafOf asid va with
  | some (e, size, x) =>
    let base := va - va % size
    let n := size / 2 ^ 16
    if leafValid x size && decide (leafSt x = 0) && decide (leafTy x = 0) && !leafPN x && !s.shooting asid base &&
        decide (frame % n = 0) && s.runOk asid frame n then
      let t := (s.takeRun frame n .table (asid + 1)).writeEntry e (setBits x 10 9 2)
      (t.onCtx asid (fun c => { c with moves := c.moves.set base frame })).shoot asid base size .nothing
    else s
  | none => s

/-- A page's migration ended: the frame is copied, and the entry is RESIDENT with the new FRAME. -/
def State.endMove (s : State) (asid va frame : Nat) : State :=
  match s.leafOf asid va with
  | some (e, size, x) =>
    let base := va - va % size
    let old := leafFrame x
    if leafSt x = 2 ∧ (s.ctx asid).moves.find base = some frame ∧ ¬ s.shooting asid base then
      let s := s.flushHeld old size
      let s := { s with hbm := s.hbm.putBytes (frame * 2 ^ 16) (s.hbmBytes old size),
                        frames := s.frames.set frame { n := size / 2 ^ 16, role := .page, owner := asid + 1 } }
      ((s.writeEntry e (residentLeaf x (frame * 2 ^ 16))).giveRun (old / 2 ^ 16)).onCtx asid (fun c =>
        { c with moves := c.moves.del base })
    else s
  | none => s

/-- MMP_MIGRATE (R398): its beginning, and its end after every acknowledgement. -/
def execMmpMigrate (asid : Nat) (va : BitVec 64) (frame : Nat) (finish : Bool) (s : State) : Host.Outcome State Fault Refusal :=
  done (if finish then s.endMove asid va.toNat frame else s.startMove asid va.toNat frame)

/-- Whether every frame in use in a range of HBM is a page of a context (R260). -/
def State.onlyPages (s : State) (asid pa n : Nat) : Bool :=
  s.frames.all (fun e => e.2.role == .free || (e.2.role == .page && e.2.owner == asid + 1) ||
    decide ((e.1 + e.2.n) * 2 ^ 16 ≤ pa) || decide (pa + n ≤ e.1 * 2 ^ 16))

/-- Whether the page of `va` would stand inside the near window that a context has in the slice of a frame (R260). -/
def State.inNear (s : State) (asid va frame : Nat) : Bool :=
  let n := match s.leafOf asid va with
    | some (_, size, _) => size
    | none => 2 ^ 16
  let (x, near) := s.windowOf (frame * 2 ^ 16)
  x.asid == asid && (s.ctx asid).sgrant.testBit (ownerOf (frame * 2 ^ 16)).1 && decide (x.nwbase ≤ near) && decide (near + n ≤ x.nwlim)

/-- MMP_PLACE (R260, R397): a page begins its move to a frame of the wanted stack, or of the wanted slice; or a stack core of a granted stack takes a
near window of whole granules below its save area. -/
def execMmpPlace (asid : Nat) (target : PlaceTarget) (s : State) : Host.Outcome State Fault Refusal :=
  match target with
  | .page va frame slice =>
    if slice && !s.inNear asid va.toNat frame then .next s else done (s.startMove asid va.toNat frame)
  | .window g k base limit =>
    if (s.ctx asid).live ∧ (s.ctx asid).sgrant.testBit g ∧ g < 24 ∧ k < 64 ∧ base % 2 ^ 16 = 0 ∧ limit % 2 ^ 16 = 0 ∧ base ≤ limit ∧
        limit ≤ 0x5FF00000 ∧ s.onlyPages asid (nearPa g k base) (limit - base) then
      done (s.onSc g k (fun x => { x with nwbase := base, nwlim := limit }))
    else .next s

/-- MMP_EVICT (R397, R398): an HBM page goes to host memory once every receiver has answered; a host page only goes NOTRES. Pinned
pages stay. -/
def execMmpEvict (asid : Nat) (va : BitVec 64) (hostFrame : Nat) (s : State) : Host.Outcome State Fault Refusal :=
  match s.leafOf asid va.toNat with
  | some (e, size, x) =>
    let base := va.toNat - va.toNat % size
    if leafPN x || decide (leafSt x ≠ 0) || s.shooting asid base then .next s
    else
      let t := s.writeEntry e (setBits (setBits x 10 9 1) 51 16 0)
      match leafTy x with
      | 0 => done (t.shoot asid base size (.evict (leafFrame x / 2 ^ 16) size (hostFrame * 2 ^ 16)))
      | 1 => done (t.shoot asid base size .nothing)
      | _ => .next s
  | none => .next s

/-- MMP_PIN (R397): PN is set on the host's request. -/
def execMmpPin (asid : Nat) (va : BitVec 64) (s : State) : Host.Outcome State Fault Refusal :=
  match s.leafOf asid va.toNat with
  | some (_, size, x) =>
    if leafSt x = 2 then .next s
    else done ((s.onCtx asid (fun c => { c with hostPins := c.hostPins.put (va.toNat - va.toNat % size) true false })).setPin asid va.toNat)
  | none => .next s

/-! KV spaces, regions, save areas (R237, R309, R382). -/

/-- MMP_CREATE_KV_SPACE (R237): the fields are those of the descriptor; the sequence directory starts with no entry valid. -/
def execMmpCreateKvSpace (asid space nseq nlayer nhead npage dhg : Nat) (s : State) : Host.Outcome State Fault Refusal :=
  if (s.ctx asid).live ∧ space < 16 ∧ ((s.ctx asid).kvSpace space).isNone ∧ nseq < 2 ^ 20 ∧ nlayer < 256 ∧ nhead < 256 ∧ npage < 2 ^ 18 ∧
      dhg < 8 then
    match s.allocFor asid (levelFrames (nseq + 1)) .directory with
    | some (pa, s) =>
      done (s.onCtx asid (fun c =>
        let m := (c.kvtab.putNum (64 * space) 8 (pa + 1)).putNum (64 * space + 8) 4 (nlayer * 2 ^ 24 + nhead * 2 ^ 16 + dhg)
        { c with kvtab := (m.putNum (64 * space + 0xC) 4 nseq).putNum (64 * space + 0x10) 4 npage }))
    | none => .next s
  else .next s

/-- The pages of a range, as leaves: each with its place, its address, its size and its word; none where some part is not mapped
by a whole page. -/
def State.leavesOf (s : State) (asid va n : Nat) : Option (List (Nat × Nat × Nat × Nat)) :=
  (List.range n).foldl (fun acc i =>
    let a := va + i * 2 ^ 16
    match acc, s.leafOf asid a with
    | some xs, some (e, size, x) =>
      let b := a - a % size
      if va ≤ b ∧ b + size ≤ va + n * 2 ^ 16 then some (if b = a then xs ++ [(e, a, size, x)] else xs) else none
    | _, _ => none) (some [])

/-- MMP_CREATE_REGION (R309, R391, R397): `length` counts 64 KiB. The region is entered FREE, and RV and RGN are set on its pages, of
TYPE HBM, by the steps of R398. -/
def execMmpCreateRegion (asid region : Nat) (va : BitVec 64) (length : Nat) (s : State) : Host.Outcome State Fault Refusal :=
  let a := va.toNat
  if (s.ctx asid).live ∧ region < 4096 ∧ ¬ (s.region region).valid ∧ 0 < length ∧ length < 2 ^ 32 ∧ a % 2 ^ 16 = 0 then
    match s.leavesOf asid a length with
    | some xs =>
      if xs.all (fun y => decide (leafTy y.2.2.2 = 0) && !leafRV y.2.2.2 && !leafHO y.2.2.2 && decide (leafSt y.2.2.2 ≠ 2) &&
          !s.shooting asid y.2.1) then
        let t := s.setRegion region { valid := true, len := length, asid, base := a }
        done (xs.foldl (fun t y =>
          let t := t.writeEntry y.1 (setBits (setBits y.2.2.2 63 52 region) 15 15 1)
          if leafSt y.2.2.2 = 0 then t.shoot asid y.2.1 y.2.2.1 .nothing else t) t)
      else .next s
    | none => .next s
  else .next s

/-- One page of a save area mapped. -/
def State.mapSave (s : State) (asid va : Nat) : Option State :=
  match s.allocOwn asid 1 .save with
  | some (pa, s) => s.setLeaf asid va 3 (pa + 2 ^ 14 + 2 ^ 13 + 2 ^ 6 + 2 ^ 5 + 2)
  | none => none

/-- MMP_SAVE_AREAS (R382): `count` areas of 6 MiB from `va` on, HO and pinned, in frames outside the quota, each free to be assigned
to a block. -/
def execMmpSaveAreas (asid : Nat) (va : BitVec 64) (count : Nat) (s : State) : Host.Outcome State Fault Refusal :=
  let a := va.toNat
  let n := 96 * count
  if (s.ctx asid).live ∧ a % 2 ^ 16 = 0 ∧ 0 < a ∧ a + n * 2 ^ 16 ≤ 2 ^ 57 ∧
      (List.range n).all (fun i => (s.leafOf asid (a + i * 2 ^ 16)).isNone && !s.shooting asid (a + i * 2 ^ 16)) then
    match (List.range n).foldl (fun t i => t.bind (fun t => t.mapSave asid (a + i * 2 ^ 16))) (some s) with
    | some t => done (t.onCtx asid (fun c =>
        { c with areas := (List.range count).foldl (fun m i => m.set (a + i * 0x600000) false) c.areas }))
    | none => .next s
  else .next s

end Sys2Proof.Machine
end

