-- ==== Sys2Proof/Machine/Engine.lean ====
section
/-! DEFINITION. The ends of instructions: results of fixed latency (R47, R50), the end of the checks of a memory instruction (R152 to
R154), the accesses of class MEM (R151, R155) and every other completion of variable latency (R47). -/

namespace Sys2Proof.Machine

/-- The results of a core that are due at the end of this clock land (R50). -/
def State.landAt (s : State) (c : Nat) : State := s.onCore c (fun k => k.landDue (s.clk + 1))

/-- FIXED_LATENCY_WRITEBACK (R50): the end of the clock in which results are due. -/
def execFixedLatencyWriteback (core : Nat) (s : State) : Host.Outcome State Fault Refusal := done (s.landAt core)

/-- The end of an operation's checks, by its instruction. -/
def checkEnd (s : State) (c : Nat) (o : Op) (w : RWord) : State :=
  match o.fn with
  | .stq | .ldq => tileCheckEnd s c o w
  | .kst => kstCheckEnd s c o
  | .kldK | .kldV => s
  | .grpForm | .colRs | .colAg => descriptorCheckEnd s c o w
  | _ => memCheckEnd s c o

/-- ADDRESS_CHECK_END (R153): from the end of clock t + 3 on. A tile load's walk ends by KLD_WALK_END. -/
def execAddressCheckEnd (core op : Nat) (s : State) : Host.Outcome State Fault Refusal :=
  match (s.core core).findOp op with
  | some o =>
    match o.stage, o.body with
    | .check, .r w => if o.since + 3 ≤ s.clk then done (checkEnd s core o w) else .next s
    | _, _ => .next s
  | none => .next s

/-- Whether an operation waits at all before its accesses: for what comes before it, or for a port. -/
def State.accessWaits (s : State) (c : Nat) (o : Op) : Bool := !s.mayPerform c o || s.windowWaits c o

/-- The package as a release of WARP or BLOCK scope finds it, with the stores before it performed at the core (R291). -/
def State.nearRelease (s : State) (c : Nat) (o : Op) : State :=
  match accessOf o with
  | some a => if a.rel && s.narrow c o then s.nearBefore c o.id o.party else s
  | none => s

/-- An acquire asks for a forced publish where the directory holds lines of its lanes for other instances, and waits until that is
complete (R289): the package in which it has asked, or none when nothing holds it up. -/
def State.publishWait (s : State) (c : Nat) (o : Op) : Option State :=
  match s.publishes c o, o.pub with
  | [], _ => none
  | _, none => some (s.setOp c { o with pub := some s.opId })
  | es, some id => if s.publishDone id es then none else some s

/-- An access of class MEM or of the signals performed. A store whose window cannot be reached ends with its status. -/
def accessEnd (s : State) (c : Nat) (o : Op) (w : RWord) (lanes : Lanes) (err : AccessError) : State :=
  match untaken s c o with
  | some t => trapOp s c o t
  | none =>
  match o.fn with
  | .ld | .ldNf | .lds | .ldg | .ldW | .sts | .atom | .atoms => memComplete s c o w lanes err
  | .st | .stg =>
    if s.badLanes c o = 0 then memComplete s c o w lanes err else windowFail s c o w (s.badLanes c o) (laneStatus s c o .ok)
  | .ldAcq => acquireLoad s c o w lanes err
  | .stRel => releaseStore s c o w (s.badLanes c o) (laneStatus s c o .ok)
  | .atomg => atomAll s c o
  | .sigAdd | .sigWait | .sigRd | .sigSet => sigComplete s c o w err
  | .shld | .shst => shapeComplete s c o err
  | _ => s

/-- MEM_ACCESS_COMPLETION (R151): an access whose checks have passed and that nothing earlier holds back; the named lanes lose their
data to the error. -/
def execMemAccessCompletion (core op : Nat) (lanes : BitVec 64) (err : AccessError) (s : State) :
    Host.Outcome State Fault Refusal :=
  match (s.core core).findOp op with
  | some o =>
    match o.stage, o.body with
    | .go, .r w =>
      let s' := s.nearRelease core o
      if !s'.mayPerform core o then .next s
      else if s'.windowWaits core o then done (s.notePort core o)
      else
        match s'.publishWait core o with
        | some t => .next t
        | none => done (accessEnd (s'.noteAccess core o lanes err) core o w lanes err)
    | _, _ => .next s
  | none => .next s

/-- WINDOW_STORE_FAILURE (R155): the window lanes of a store end with a fabric status; the error is found by the fabric, so the
store has passed its checks. -/
def execWindowStoreFailure (core op status : Nat) (s : State) : Host.Outcome State Fault Refusal :=
  match (s.core core).findOp op with
  | some o =>
    let win := windowLanes s core o
    match o.stage, o.body, o.fn with
    | .go, .r w, .st | .go, .r w, .stg =>
      if s.accessWaits core o ∨ win = 0 then .next s
      else
        match untaken s core o with
        | some t => done (trapOp s core o t)
        | none => done (windowFail s core o w win (fun _ => status))
    | .go, .r w, .stRel =>
      let s' := s.nearRelease core o
      if s'.accessWaits core o ∨ win = 0 then .next s else done (releaseStore s' core o w win (fun _ => status))
    | _, _, _ => .next s
  | none => .next s

/-- PGREQ (R157): complete once the MMP has accepted its requests; with W once each is resolved, and P_D tells which pages are
resident. -/
def pgreqComplete (s : State) (c : Nat) (o : Op) (w : RWord) : State :=
  let mine (r : PageReq) : Bool := r.waiters.any (fun x => x.core == c && x.op == o.id)
  if s.mmpq.any mine || s.calls.any (fun y => mine y.req) then s
  else
    completeOp s c o (match o.party with
      | .compute wp =>
        if w.mb 8 ∧ w.d.toNat < 15 then
          [.p wp w.d.toNat o.lanes (maskOf 64 64 (fun l => o.lanes.getLsbD l && o.outs.get l 0 == 0))]
        else []
      | _ => [])

/-- The completion of an operation of variable latency, by its instruction. -/
def variableEnd (s : State) (c : Nat) (o : Op) (w : RWord) : State :=
  match o.fn with
  | .stq | .ldq => tileComplete s c o w
  | .pgreq => pgreqComplete s c o w
  | .tzero | .tld | .tst | .tcvt | .mmaV => warpTileComplete s c o w
  | .tseqNext => seqComplete s c o w
  | .kst | .kprobe | .kmap | .kunmap => kvComplete s c o
  | .nmx | .nmxb | .nmxr | .nmxc => stackDeliver s c o w
  | .rgnq | .pin | .unpin | .wb | .inv | .wbinv => rgnComplete s c o
  | .matom | .mflagSet | .mflagWait | .mqPush | .mqPop | .mred => windowPerform s c o w
  | .xchPush | .replay => exchangePerform s c o w
  | .lnkStat => completeOp s c o (pairWrs (partyWarp o.party) o.body.dIdx (o.arg 0))
  | .grpStat => grpStatDone s c o
  | .grpForm => grpFormPerform s c o w
  | .colRs | .colAg => collectiveStart s c o
  | .colWait => colWaitDone s c o
  | .launch | .launchg => launchPerform s c o
  | .nqPush | .nqFlush | .nqStat => nqPerform s c o w
  | .snap => snapDone s c o
  | .ctxsv | .ctxld | .scrub | .timer => completeOp s c o []
  | _ => s

/-- VARIABLE_LATENCY_COMPLETION (R47): every operation whose completion has no event of its own. Accesses of the rules of order wait
for what comes before them; what stands in a stack core's queue, or waits for a reply, stays. -/
def execVariableLatencyCompletion (core op : Nat) (s : State) : Host.Outcome State Fault Refusal :=
  match (s.core core).findOp op with
  | some o =>
    match o.body with
    | .r w =>
      if o.stage = .check ∨ o.stage = .done ∨ ((accessOf o).isSome ∧ ¬ s.mayPerform core o) then .next s
      else done (variableEnd s core o w)
    | _ => .next s
  | none => .next s

end Sys2Proof.Machine
end

