-- ==== Sys2Proof/Machine/Dispatch.lean ====
section
/-! DEFINITION. The dispatch: one arm for each instruction and each event of the opcode table, in the table's order. -/

namespace Sys2Proof.Machine

def exec (i : Instr) (s : State) : Host.Outcome State Fault Refusal :=
  match i with
  | .nop w => Sys2Proof.Machine.execNop w s
  | .bra w => Sys2Proof.Machine.execBra w s
  | .brx w => Sys2Proof.Machine.execBrx w s
  | .bru w => Sys2Proof.Machine.execBru w s
  | .call w => Sys2Proof.Machine.execCall w s
  | .callx w => Sys2Proof.Machine.execCallx w s
  | .ret w => Sys2Proof.Machine.execRet w s
  | .exit w => Sys2Proof.Machine.execExit w s
  | .merge w => Sys2Proof.Machine.execMerge w s
  | .mergeStep core warp => Sys2Proof.Machine.execMergeStep core warp s
  | .loop w => Sys2Proof.Machine.execLoop w s
  | .yield w => Sys2Proof.Machine.execYield w s
  | .pushp w => Sys2Proof.Machine.execPushp w s
  | .invp w => Sys2Proof.Machine.execInvp w s
  | .popp w => Sys2Proof.Machine.execPopp w s
  | .pand w => Sys2Proof.Machine.execPand w s
  | .por w => Sys2Proof.Machine.execPor w s
  | .pxor w => Sys2Proof.Machine.execPxor w s
  | .pnot w => Sys2Proof.Machine.execPnot w s
  | .pmov w => Sys2Proof.Machine.execPmov w s
  | .p2v w => Sys2Proof.Machine.execP2v w s
  | .v2p w => Sys2Proof.Machine.execV2p w s
  | .vote w => Sys2Proof.Machine.execVote w s
  | .iadd w => Sys2Proof.Machine.execIadd w s
  | .iaddImm w => Sys2Proof.Machine.execIaddImm w s
  | .isub w => Sys2Proof.Machine.execIsub w s
  | .imul w => Sys2Proof.Machine.execImul w s
  | .imulImm w => Sys2Proof.Machine.execImulImm w s
  | .imad w => Sys2Proof.Machine.execImad w s
  | .imulhi w => Sys2Proof.Machine.execImulhi w s
  | .imin w => Sys2Proof.Machine.execImin w s
  | .imax w => Sys2Proof.Machine.execImax w s
  | .iabs w => Sys2Proof.Machine.execIabs w s
  | .ineg w => Sys2Proof.Machine.execIneg w s
  | .andB w => Sys2Proof.Machine.execAndB w s
  | .andImm w => Sys2Proof.Machine.execAndImm w s
  | .orB w => Sys2Proof.Machine.execOrB w s
  | .orImm w => Sys2Proof.Machine.execOrImm w s
  | .xorB w => Sys2Proof.Machine.execXorB w s
  | .xorImm w => Sys2Proof.Machine.execXorImm w s
  | .notB w => Sys2Proof.Machine.execNotB w s
  | .shl w => Sys2Proof.Machine.execShl w s
  | .shlImm w => Sys2Proof.Machine.execShlImm w s
  | .shr w => Sys2Proof.Machine.execShr w s
  | .shrImm w => Sys2Proof.Machine.execShrImm w s
  | .rot w => Sys2Proof.Machine.execRot w s
  | .icmp w => Sys2Proof.Machine.execIcmp w s
  | .icmpImm w => Sys2Proof.Machine.execIcmpImm w s
  | .sel w => Sys2Proof.Machine.execSel w s
  | .mov w => Sys2Proof.Machine.execMov w s
  | .movImm w => Sys2Proof.Machine.execMovImm w s
  | .popc w => Sys2Proof.Machine.execPopc w s
  | .clz w => Sys2Proof.Machine.execClz w s
  | .ctz w => Sys2Proof.Machine.execCtz w s
  | .brev w => Sys2Proof.Machine.execBrev w s
  | .bfe w => Sys2Proof.Machine.execBfe w s
  | .bfi w => Sys2Proof.Machine.execBfi w s
  | .lea w => Sys2Proof.Machine.execLea w s
  | .leaImm w => Sys2Proof.Machine.execLeaImm w s
  | .vread w => Sys2Proof.Machine.execVread w s
  | .vwrite w => Sys2Proof.Machine.execVwrite w s
  | .sadd w => Sys2Proof.Machine.execSadd w s
  | .saddImm w => Sys2Proof.Machine.execSaddImm w s
  | .ssub w => Sys2Proof.Machine.execSsub w s
  | .smul w => Sys2Proof.Machine.execSmul w s
  | .sand w => Sys2Proof.Machine.execSand w s
  | .sor w => Sys2Proof.Machine.execSor w s
  | .sxor w => Sys2Proof.Machine.execSxor w s
  | .sshl w => Sys2Proof.Machine.execSshl w s
  | .sshr w => Sys2Proof.Machine.execSshr w s
  | .scmp w => Sys2Proof.Machine.execScmp w s
  | .smov w => Sys2Proof.Machine.execSmov w s
  | .smovImm w => Sys2Proof.Machine.execSmovImm w s
  | .ssel w => Sys2Proof.Machine.execSsel w s
  | .fadd w => Sys2Proof.Machine.execFadd w s
  | .faddImm w => Sys2Proof.Machine.execFaddImm w s
  | .fsub w => Sys2Proof.Machine.execFsub w s
  | .fmul w => Sys2Proof.Machine.execFmul w s
  | .fmulImm w => Sys2Proof.Machine.execFmulImm w s
  | .fma w => Sys2Proof.Machine.execFma w s
  | .fmin w => Sys2Proof.Machine.execFmin w s
  | .fmax w => Sys2Proof.Machine.execFmax w s
  | .fabs w => Sys2Proof.Machine.execFabs w s
  | .fneg w => Sys2Proof.Machine.execFneg w s
  | .fcmp w => Sys2Proof.Machine.execFcmp w s
  | .fcmpImm w => Sys2Proof.Machine.execFcmpImm w s
  | .fclass w => Sys2Proof.Machine.execFclass w s
  | .flgrd w => Sys2Proof.Machine.execFlgrd w s
  | .flgwr w => Sys2Proof.Machine.execFlgwr w s
  | .flgclr w => Sys2Proof.Machine.execFlgclr w s
  | .cvt w => Sys2Proof.Machine.execCvt w s
  | .qcvt w => Sys2Proof.Machine.execQcvt w s
  | .dqcvt w => Sys2Proof.Machine.execDqcvt w s
  | .pack w => Sys2Proof.Machine.execPack w s
  | .unpack w => Sys2Proof.Machine.execUnpack w s
  | .scale w => Sys2Proof.Machine.execScale w s
  | .amax w => Sys2Proof.Machine.execAmax w s
  | .exp2 w => Sys2Proof.Machine.execExp2 w s
  | .log2 w => Sys2Proof.Machine.execLog2 w s
  | .rcp w => Sys2Proof.Machine.execRcp w s
  | .rsq w => Sys2Proof.Machine.execRsq w s
  | .sqrt w => Sys2Proof.Machine.execSqrt w s
  | .stq w => Sys2Proof.Machine.execStq w s
  | .ldq w => Sys2Proof.Machine.execLdq w s
  | .srseed w => Sys2Proof.Machine.execSrseed w s
  | .dot4 w => Sys2Proof.Machine.execDot4 w s
  | .dot8 w => Sys2Proof.Machine.execDot8 w s
  | .dot2 w => Sys2Proof.Machine.execDot2 w s
  | .padd w => Sys2Proof.Machine.execPadd w s
  | .psub w => Sys2Proof.Machine.execPsub w s
  | .pmin w => Sys2Proof.Machine.execPmin w s
  | .pmax w => Sys2Proof.Machine.execPmax w s
  | .shrRnd w => Sys2Proof.Machine.execShrRnd w s
  | .shrSat w => Sys2Proof.Machine.execShrSat w s
  | .shrRndImm w => Sys2Proof.Machine.execShrRndImm w s
  | .slide w => Sys2Proof.Machine.execSlide w s
  | .slideImm w => Sys2Proof.Machine.execSlideImm w s
  | .shfl w => Sys2Proof.Machine.execShfl w s
  | .shflImm w => Sys2Proof.Machine.execShflImm w s
  | .bcast w => Sys2Proof.Machine.execBcast w s
  | .red w => Sys2Proof.Machine.execRed w s
  | .scan w => Sys2Proof.Machine.execScan w s
  | .topkIns w => Sys2Proof.Machine.execTopkIns w s
  | .topkClr w => Sys2Proof.Machine.execTopkClr w s
  | .ld w => Sys2Proof.Machine.execLd w s
  | .st w => Sys2Proof.Machine.execSt w s
  | .ldNf w => Sys2Proof.Machine.execLdNf w s
  | .pgreq w => Sys2Proof.Machine.execPgreq w s
  | .lds w => Sys2Proof.Machine.execLds w s
  | .sts w => Sys2Proof.Machine.execSts w s
  | .ldg w => Sys2Proof.Machine.execLdg w s
  | .stg w => Sys2Proof.Machine.execStg w s
  | .ldW w => Sys2Proof.Machine.execLdW w s
  | .wsref w => Sys2Proof.Machine.execWsref w s
  | .atom w => Sys2Proof.Machine.execAtom w s
  | .atoms w => Sys2Proof.Machine.execAtoms w s
  | .pref w => Sys2Proof.Machine.execPref w s
  | .aadd w => Sys2Proof.Machine.execAadd w s
  | .aaddImm w => Sys2Proof.Machine.execAaddImm w s
  | .asub w => Sys2Proof.Machine.execAsub w s
  | .amul w => Sys2Proof.Machine.execAmul w s
  | .ashl w => Sys2Proof.Machine.execAshl w s
  | .ashr w => Sys2Proof.Machine.execAshr w s
  | .aand w => Sys2Proof.Machine.execAand w s
  | .amov w => Sys2Proof.Machine.execAmov w s
  | .amovImm w => Sys2Proof.Machine.execAmovImm w s
  | .acmp w => Sys2Proof.Machine.execAcmp w s
  | .abr w => Sys2Proof.Machine.execAbr w s
  | .abrq w => Sys2Proof.Machine.execAbrq w s
  | .qld w => Sys2Proof.Machine.execQld w s
  | .qldg w => Sys2Proof.Machine.execQldg w s
  | .qpop w => Sys2Proof.Machine.execQpop w s
  | .qpush w => Sys2Proof.Machine.execQpush w s
  | .slip w => Sys2Proof.Machine.execSlip w s
  | .aexit w => Sys2Proof.Machine.execAexit w s
  | .shld w => Sys2Proof.Machine.execShld w s
  | .shst w => Sys2Proof.Machine.execShst w s
  | .shset w => Sys2Proof.Machine.execShset w s
  | .cpt w => Sys2Proof.Machine.execCpt w s
  | .cptm w => Sys2Proof.Machine.execCptm w s
  | .cpl w => Sys2Proof.Machine.execCpl w s
  | .cpw w => Sys2Proof.Machine.execCpw w s
  | .waitall w => Sys2Proof.Machine.execWaitall w s
  | .waitany w => Sys2Proof.Machine.execWaitany w s
  | .tagfind w => Sys2Proof.Machine.execTagfind w s
  | .tagclr w => Sys2Proof.Machine.execTagclr w s
  | .waitc w => Sys2Proof.Machine.execWaitc w s
  | .mma w => Sys2Proof.Machine.execMma w s
  | .mmaV w => Sys2Proof.Machine.execMmaV w s
  | .mfence w => Sys2Proof.Machine.execMfence w s
  | .mwait w => Sys2Proof.Machine.execMwait w s
  | .tseqInit w => Sys2Proof.Machine.execTseqInit w s
  | .tseqNext w => Sys2Proof.Machine.execTseqNext w s
  | .tzero w => Sys2Proof.Machine.execTzero w s
  | .tld w => Sys2Proof.Machine.execTld w s
  | .tst w => Sys2Proof.Machine.execTst w s
  | .tcvt w => Sys2Proof.Machine.execTcvt w s
  | .cbld w => Sys2Proof.Machine.execCbld w s
  | .wbld w => Sys2Proof.Machine.execWbld w s
  | .mmov w => Sys2Proof.Machine.execMmov w s
  | .mmovImm w => Sys2Proof.Machine.execMmovImm w s
  | .madd w => Sys2Proof.Machine.execMadd w s
  | .maddImm w => Sys2Proof.Machine.execMaddImm w s
  | .mcmp w => Sys2Proof.Machine.execMcmp w s
  | .mbr w => Sys2Proof.Machine.execMbr w s
  | .mbarArv w => Sys2Proof.Machine.execMbarArv w s
  | .mbarWait w => Sys2Proof.Machine.execMbarWait w s
  | .mbarSync w => Sys2Proof.Machine.execMbarSync w s
  | .mexit w => Sys2Proof.Machine.execMexit w s
  | .kldK w => Sys2Proof.Machine.execKldK w s
  | .kldV w => Sys2Proof.Machine.execKldV w s
  | .kst w => Sys2Proof.Machine.execKst w s
  | .kprobe w => Sys2Proof.Machine.execKprobe w s
  | .kmap w => Sys2Proof.Machine.execKmap w s
  | .kunmap w => Sys2Proof.Machine.execKunmap w s
  | .kvsel w => Sys2Proof.Machine.execKvsel w s
  | .nmx w => Sys2Proof.Machine.execNmx w s
  | .nmxb w => Sys2Proof.Machine.execNmxb w s
  | .nmxr w => Sys2Proof.Machine.execNmxr w s
  | .nmxc w => Sys2Proof.Machine.execNmxc w s
  | .rclaim w => Sys2Proof.Machine.execRclaim w s
  | .rrel w => Sys2Proof.Machine.execRrel w s
  | .bdmaLd w => Sys2Proof.Machine.execBdmaLd w s
  | .bdmaSt w => Sys2Proof.Machine.execBdmaSt w s
  | .xld w => Sys2Proof.Machine.execXld w s
  | .xst w => Sys2Proof.Machine.execXst w s
  | .zld w => Sys2Proof.Machine.execZld w s
  | .zst w => Sys2Proof.Machine.execZst w s
  | .zadd w => Sys2Proof.Machine.execZadd w s
  | .zsub w => Sys2Proof.Machine.execZsub w s
  | .zmul w => Sys2Proof.Machine.execZmul w s
  | .zmin w => Sys2Proof.Machine.execZmin w s
  | .zmax w => Sys2Proof.Machine.execZmax w s
  | .zcmp w => Sys2Proof.Machine.execZcmp w s
  | .zsel w => Sys2Proof.Machine.execZsel w s
  | .zcvt w => Sys2Proof.Machine.execZcvt w s
  | .zbcast w => Sys2Proof.Machine.execZbcast w s
  | .zred w => Sys2Proof.Machine.execZred w s
  | .zmov w => Sys2Proof.Machine.execZmov w s
  | .cmdend w => Sys2Proof.Machine.execCmdend w s
  | .fence w => Sys2Proof.Machine.execFence w s
  | .ldAcq w => Sys2Proof.Machine.execLdAcq w s
  | .stRel w => Sys2Proof.Machine.execStRel w s
  | .atomg w => Sys2Proof.Machine.execAtomg w s
  | .barArv w => Sys2Proof.Machine.execBarArv w s
  | .barWait w => Sys2Proof.Machine.execBarWait w s
  | .barSync w => Sys2Proof.Machine.execBarSync w s
  | .barInit w => Sys2Proof.Machine.execBarInit w s
  | .sigAdd w => Sys2Proof.Machine.execSigAdd w s
  | .sigWait w => Sys2Proof.Machine.execSigWait w s
  | .sigRd w => Sys2Proof.Machine.execSigRd w s
  | .acqr w => Sys2Proof.Machine.execAcqr w s
  | .relr w => Sys2Proof.Machine.execRelr w s
  | .wb w => Sys2Proof.Machine.execWb w s
  | .inv w => Sys2Proof.Machine.execInv w s
  | .wbinv w => Sys2Proof.Machine.execWbinv w s
  | .pin w => Sys2Proof.Machine.execPin w s
  | .unpin w => Sys2Proof.Machine.execUnpin w s
  | .rgnq w => Sys2Proof.Machine.execRgnq w s
  | .mqPush w => Sys2Proof.Machine.execMqPush w s
  | .mqPop w => Sys2Proof.Machine.execMqPop w s
  | .matom w => Sys2Proof.Machine.execMatom w s
  | .mred w => Sys2Proof.Machine.execMred w s
  | .mflagSet w => Sys2Proof.Machine.execMflagSet w s
  | .mflagWait w => Sys2Proof.Machine.execMflagWait w s
  | .colRs w => Sys2Proof.Machine.execColRs w s
  | .colAg w => Sys2Proof.Machine.execColAg w s
  | .colWait w => Sys2Proof.Machine.execColWait w s
  | .grpForm w => Sys2Proof.Machine.execGrpForm w s
  | .grpStat w => Sys2Proof.Machine.execGrpStat w s
  | .replay w => Sys2Proof.Machine.execReplay w s
  | .xchPush w => Sys2Proof.Machine.execXchPush w s
  | .lnkStat w => Sys2Proof.Machine.execLnkStat w s
  | .launch w => Sys2Proof.Machine.execLaunch w s
  | .launchg w => Sys2Proof.Machine.execLaunchg w s
  | .nqPush w => Sys2Proof.Machine.execNqPush w s
  | .nqFlush w => Sys2Proof.Machine.execNqFlush w s
  | .nqStat w => Sys2Proof.Machine.execNqStat w s
  | .sigSet w => Sys2Proof.Machine.execSigSet w s
  | .trap w => Sys2Proof.Machine.execTrap w s
  | .rtt w => Sys2Proof.Machine.execRtt w s
  | .rttNext w => Sys2Proof.Machine.execRttNext w s
  | .rttEnd w => Sys2Proof.Machine.execRttEnd w s
  | .rttSaved w => Sys2Proof.Machine.execRttSaved w s
  | .rttRpl w => Sys2Proof.Machine.execRttRpl w s
  | .ctxsv w => Sys2Proof.Machine.execCtxsv w s
  | .ctxld w => Sys2Proof.Machine.execCtxld w s
  | .timer w => Sys2Proof.Machine.execTimer w s
  | .timerrd w => Sys2Proof.Machine.execTimerrd w s
  | .snap w => Sys2Proof.Machine.execSnap w s
  | .sysrd w => Sys2Proof.Machine.execSysrd w s
  | .syswr w => Sys2Proof.Machine.execSyswr w s
  | .scrub w => Sys2Proof.Machine.execScrub w s
  | .fixedLatencyWriteback core => Sys2Proof.Machine.execFixedLatencyWriteback core s
  | .variableLatencyCompletion core op => Sys2Proof.Machine.execVariableLatencyCompletion core op s
  | .memAccessCompletion core op lanes err => Sys2Proof.Machine.execMemAccessCompletion core op lanes err s
  | .addressCheckEnd core op => Sys2Proof.Machine.execAddressCheckEnd core op s
  | .windowStoreFailure core op status => Sys2Proof.Machine.execWindowStoreFailure core op status s
  | .queueLoadCompletion core op errs => Sys2Proof.Machine.execQueueLoadCompletion core op errs s
  | .backQueueSlotFull core warp queue => Sys2Proof.Machine.execBackQueueSlotFull core warp queue s
  | .copyCompletion core op => Sys2Proof.Machine.execCopyCompletion core op s
  | .copyFailure core op chunk status landed => Sys2Proof.Machine.execCopyFailure core op chunk status landed s
  | .arrayOperationPerform core readError => Sys2Proof.Machine.execArrayOperationPerform core readError s
  | .arrayOperationCompletion core => Sys2Proof.Machine.execArrayOperationCompletion core s
  | .mstreamOrphan core => Sys2Proof.Machine.execMstreamOrphan core s
  | .barOrphan core party slot => Sys2Proof.Machine.execBarOrphan core party slot s
  | .blockEnd core => Sys2Proof.Machine.execBlockEnd core s
  | .kldWalkEnd core op => Sys2Proof.Machine.execKldWalkEnd core op s
  | .kldCompletion core op => Sys2Proof.Machine.execKldCompletion core op s
  | .kvWalkWaitTimeout core op => Sys2Proof.Machine.execKvWalkWaitTimeout core op s
  | .kvDataError core op position => Sys2Proof.Machine.execKvDataError core op position s
  | .kvPageEviction asid space coord finish => Sys2Proof.Machine.execKvPageEviction asid space coord finish s
  | .kvPageRestore asid space coord frame finish => Sys2Proof.Machine.execKvPageRestore asid space coord frame finish s
  | .kvPagePoison asid space coord => Sys2Proof.Machine.execKvPagePoison asid space coord s
  | .stackCommandStart stack k => Sys2Proof.Machine.execStackCommandStart stack k s
  | .nmxbLoadEntry stack k readable => Sys2Proof.Machine.execNmxbLoadEntry stack k readable s
  | .stackCommandTimeout stack k => Sys2Proof.Machine.execStackCommandTimeout stack k s
  | .stackCommandReport stack k => Sys2Proof.Machine.execStackCommandReport stack k s
  | .bankDmaCompletion stack k dma dataError => Sys2Proof.Machine.execBankDmaCompletion stack k dma dataError s
  | .deferralTimeout stack k entry => Sys2Proof.Machine.execDeferralTimeout stack k entry s
  | .stackKernelStart launch stack k readable => Sys2Proof.Machine.execStackKernelStart launch stack k readable s
  | .stackKernelPreempt stack k => Sys2Proof.Machine.execStackKernelPreempt stack k s
  | .stackKernelRestore stack k => Sys2Proof.Machine.execStackKernelRestore stack k s
  | .l2Eviction slice sector => Sys2Proof.Machine.execL2Eviction slice sector s
  | .bisnp module line => Sys2Proof.Machine.execBisnp module line s
  | .hostMemWrite addr data => Sys2Proof.Machine.execHostMemWrite addr data s
  | .hostMemRead addr length => Sys2Proof.Machine.execHostMemRead addr length s
  | .acqrTokenGrant core op => Sys2Proof.Machine.execAcqrTokenGrant core op s
  | .acqrTimeout core op => Sys2Proof.Machine.execAcqrTimeout core op s
  | .relrCompletion core op => Sys2Proof.Machine.execRelrCompletion core op s
  | .courierRequest port => Sys2Proof.Machine.execCourierRequest port s
  | .drainRecord asid slot entry => Sys2Proof.Machine.execDrainRecord asid slot entry s
  | .collectiveContribute asid col peer => Sys2Proof.Machine.execCollectiveContribute asid col peer s
  | .collectiveGather asid col => Sys2Proof.Machine.execCollectiveGather asid col s
  | .collectiveDecision asid col expired => Sys2Proof.Machine.execCollectiveDecision asid col expired s
  | .collectiveStatus asid col expired => Sys2Proof.Machine.execCollectiveStatus asid col expired s
  | .fabricTimeout core op => Sys2Proof.Machine.execFabricTimeout core op s
  | .linkLaneFailure port lane => Sys2Proof.Machine.execLinkLaneFailure port lane s
  | .linkRetrainComplete port replayed => Sys2Proof.Machine.execLinkRetrainComplete port replayed s
  | .linkDown port => Sys2Proof.Machine.execLinkDown port s
  | .gateOpen launch => Sys2Proof.Machine.execGateOpen launch s
  | .blockPlacement => Sys2Proof.Machine.execBlockPlacement s
  | .launchDone launch => Sys2Proof.Machine.execLaunchDone launch s
  | .batchSubmissionRetry asid slot node => Sys2Proof.Machine.execBatchSubmissionRetry asid slot node s
  | .flushTimerExpiry asid slot node => Sys2Proof.Machine.execFlushTimerExpiry asid slot node s
  | .spatialPreemptionRequest launch => Sys2Proof.Machine.execSpatialPreemptionRequest launch s
  | .handlerEntry core => Sys2Proof.Machine.execHandlerEntry core s
  | .deferredCauseInHandler core party slot => Sys2Proof.Machine.execDeferredCauseInHandler core party slot s
  | .preempt core => Sys2Proof.Machine.execPreempt core s
  | .hardwareSave core => Sys2Proof.Machine.execHardwareSave core s
  | .handlerSaveTimeout core => Sys2Proof.Machine.execHandlerSaveTimeout core s
  | .hardwareRestore saved => Sys2Proof.Machine.execHardwareRestore saved s
  | .resume saved => Sys2Proof.Machine.execResume saved s
  | .scratchEcc core => Sys2Proof.Machine.execScratchEcc core s
  | .registerFileEcc core unit => Sys2Proof.Machine.execRegisterFileEcc core unit s
  | .timerEvent core warp => Sys2Proof.Machine.execTimerEvent core warp s
  | .refreshWindowStart die => Sys2Proof.Machine.execRefreshWindowStart die s
  | .refreshWindowEnd die => Sys2Proof.Machine.execRefreshWindowEnd die s
  | .wsloadWrite launch die readable => Sys2Proof.Machine.execWsloadWrite launch die readable s
  | .weightStoreZeroing die => Sys2Proof.Machine.execWeightStoreZeroing die s
  | .timetableTick => Sys2Proof.Machine.execTimetableTick s
  | .ppsEdge => Sys2Proof.Machine.execPpsEdge s
  | .trigPinPulse nanoseconds => Sys2Proof.Machine.execTrigPinPulse nanoseconds s
  | .thermalThrottle powerWatts hottestTenths => Sys2Proof.Machine.execThermalThrottle powerWatts hottestTenths s
  | .thermalShutdown die => Sys2Proof.Machine.execThermalShutdown die s
  | .reset => Sys2Proof.Machine.execReset s
  | .selfTestPass bit => Sys2Proof.Machine.execSelfTestPass bit s
  | .readyFall bit => Sys2Proof.Machine.execReadyFall bit s
  | .contextCreate descriptor => Sys2Proof.Machine.execContextCreate descriptor s
  | .contextRegrant descriptor => Sys2Proof.Machine.execContextRegrant descriptor s
  | .contextDestroy descriptor => Sys2Proof.Machine.execContextDestroy descriptor s
  | .podcfgWrite width value => Sys2Proof.Machine.execPodcfgWrite width value s
  | .todstepWrite width value => Sys2Proof.Machine.execTodstepWrite width value s
  | .registerWrite offset width value => Sys2Proof.Machine.execRegisterWrite offset width value s
  | .mmpPageRequest => Sys2Proof.Machine.execMmpPageRequest s
  | .hostPageCallAnswer asid page hostFrame => Sys2Proof.Machine.execHostPageCallAnswer asid page hostFrame s
  | .hostCallTimeout asid page => Sys2Proof.Machine.execHostCallTimeout asid page s
  | .migratingWaitTimeout core op => Sys2Proof.Machine.execMigratingWaitTimeout core op s
  | .mmpMap asid va leaf level => Sys2Proof.Machine.execMmpMap asid va leaf level s
  | .mmpUnmap asid va => Sys2Proof.Machine.execMmpUnmap asid va s
  | .mmpProtect asid va r w x => Sys2Proof.Machine.execMmpProtect asid va r w x s
  | .mmpPlace asid target => Sys2Proof.Machine.execMmpPlace asid target s
  | .mmpEvict asid va hostFrame => Sys2Proof.Machine.execMmpEvict asid va hostFrame s
  | .mmpCreateKvSpace asid space nseq nlayer nhead npage dhg => Sys2Proof.Machine.execMmpCreateKvSpace asid space nseq nlayer nhead npage dhg s
  | .mmpCreateRegion asid region va length => Sys2Proof.Machine.execMmpCreateRegion asid region va length s
  | .mmpSaveAreas asid va count => Sys2Proof.Machine.execMmpSaveAreas asid va count s
  | .mmpPin asid va => Sys2Proof.Machine.execMmpPin asid va s
  | .mmpMigrate asid va frame finish => Sys2Proof.Machine.execMmpMigrate asid va frame finish s
  | .shootdown receiver => Sys2Proof.Machine.execShootdown receiver s
  | .portTrainingComplete port width => Sys2Proof.Machine.execPortTrainingComplete port width s

end Sys2Proof.Machine
end

