-- ==== Sys2Proof/Machine/Sched.lean ====
section
/-! DEFINITION. What takes place next: fetching a word and issuing it, alone or as a pair (R53 to R55), the selection of R359 to
R361, the events that the hardware runs by itself, and the ticks of the clocks. The agenda of the package lists the turns of a
tick; when it is empty the next tick is planned. -/

namespace Sys2Proof.Machine

/-! Fetching (R55, R394, R395). -/

/-- What a fetch finds: a word, a page that is MIGRATING, or a fault. -/
inductive Fetched where
  | word (w : BitVec 96)
  | wait
  | fault
  deriving DecidableEq, Repr, Inhabited

/-- The word at `pc`, as the stream of a site fetches it. -/
def Env.fetch (e : Env) (pc : Word64) : Fetched :=
  match e.codeAt pc with
  | some bs => .word (wordOfBytes bs)
  | none => if (fetchPages pc).any e.pageWaits then .wait else .fault

/-- FETCH_FAULT asks the MMP for the pages that are not resident (R394). -/
def Env.postFetch (e : Env) (pc : Word64) (s : State) : State :=
  (fetchPages pc).foldl (fun s p => match s.xlate e.k.tlb e.blk.asid p with
    | .notres _ => s.post e.blk.asid p (some .fetch) e.handler []
    | _ => s) s

/-! Pairs (R53, R54). -/

/-- The functions of the M pipe and of the A pipe. -/
def pipeM (f : Fn) : Bool :=
  [Fn.fadd, .faddImm, .fsub, .fmul, .fmulImm, .fma, .imul, .imulImm, .imad, .imulhi, .dot4, .dot8, .dot2].contains f
def pipeA (f : Fn) : Bool :=
  [Fn.iadd, .iaddImm, .isub, .imin, .imax, .iabs, .ineg, .andB, .andImm, .orB, .orImm, .xorB, .xorImm, .notB, .shl, .shlImm, .shr,
   .shrImm, .rot, .icmp, .icmpImm, .sel, .mov, .movImm, .popc, .clz, .ctz, .brev, .bfe, .bfi, .lea, .leaImm, .fabs, .fneg, .fmin,
   .fmax, .fcmp, .fcmpImm, .cvt, .padd, .psub, .pmin, .pmax].contains f

/-- The registers that a word writes. -/
def pairDests (f : Fn) (b : Body) : List Reg :=
  let e := formOf f b
  (if e.dPred then regsFrom .p 0 (b.dIdx % 16) 1 else []) ++ fieldRegs .compute 0 e.d 0 b.dIdx

/-- The vector registers that a word reads, one for each read (R53). -/
def pairReads (f : Fn) (b : Body) : List Nat :=
  let e := formOf f b
  let d := if e.dRead then fieldRegs .compute 0 e.d 0 b.dIdx else []
  let ab := match b with
    | .r w => fieldRegs .compute 0 e.a w.asel w.a.toNat ++ fieldRegs .compute 0 e.b w.bsel w.b.toNat
    | .i w => fieldRegs .compute 0 e.a 0 w.a.toNat
    | .event => []
  ((ab ++ d).filter (fun r => r.kind == .v)).map (·.idx)

/-- Whether a word reads an S register, and whether it reads through selector 0b11. -/
def readsS (f : Fn) (b : Body) : Bool := (wordRegs .compute 0 f b).any (fun r => r.kind == .s && !(pairDests f b).contains r)
def readsConst (f : Fn) (b : Body) : Bool := !(constReads f b).isEmpty

/-- The conditions of a legal pair (R53). -/
def legalPair (f g : Fn) (x y : Body) : Bool :=
  let c := ctlOfBody x
  let reads := pairReads f x ++ pairReads g y
  ((pipeM f && pipeA g) || (pipeA f && pipeM g)) && !(ctlOfBody y).pair && c.stall == 0 &&
    (List.range 4).all (fun bank => decide ((reads.filter (fun r => r % 4 == bank)).length ≤ 2)) &&
    !(readsS f x && readsS g y) && !(readsConst f x && readsConst g y) &&
    (wordQueues f x).isEmpty && (wordQueues g y).isEmpty &&
    (pairDests f x).all (fun r => !(wordRegs .compute 0 g y).contains r)

/-- The counters admit the issue of a pair as one unit (R47, R54). -/
def Env.pairReady (e : Env) (second : Ctl) : Bool :=
  let f := e.k.flags e.party
  let a := e.ctl.setf.toNat
  let b := second.setf.toNat
  waitOk f second.wait && (b == 0 || decide (f.get b 0 < 63)) && (a == 0 || a != b || decide (f.get a 0 < 62))

/-! Issuing a word (R55, R360). -/

/-- The package with a stream chosen to issue, and the bookkeeping of a step cleared. -/
def State.at (s : State) (a : Actor) : State := { s with actor := a, pairing := false, second := false, raised := none }

/-- The site of a stream whose word is not known. -/
def siteOf (s : State) (a : Actor) : Option Env := envOf (s.at a) .nop (.r default)

/-- A word that is refused before it is an instruction (R55, ranks 1 to 3), at `pc`; the first word's control fields gate the
issue. The spec does not say what TADDR holds after a FETCH_FAULT: it is a free value (R367, log 38). -/
def Env.refuse (e : Env) (second : Bool) (pc : Word64) (rank : Nat) (c : Cause) : Host.Outcome State Fault Refusal :=
  if e.issuable then
    if c = .fetchFault then
      let t : Trap := { plain c with addr := Config.freeWord64 e.s.fresh }
      done (raiseAt { e.postFetch pc { e.s with fresh := e.s.fresh + 1 } with second } e.c e.party e.slot pc e.handler rank t)
    else done (raiseAt { e.s with second } e.c e.party e.slot pc e.handler rank (plain c))
  else .next e.s

/-- The rank and the cause of a decoding error. -/
def errorRank (x : DecodeError) : Nat × Cause :=
  match x with
  | .illegalOpcode => (2, .illegalOpcode)
  | .illegalForm => (3, .illegalForm)

/-- The state that an outcome leaves; a stop leaves none. -/
def outcomeState (o : Host.Outcome State Fault Refusal) : Option State :=
  match o with
  | .next s => some s
  | _ => none

/-- What a fetched word of a pair shows of ranks 2 and 3 (R55), at the site of the first. -/
noncomputable def Env.pairWord (e : Env) (w : BitVec 96) : Option (Nat × Cause) :=
  match decode .compute w with
  | .error x => some (errorRank x)
  | .ok i => match fnOf i with
    | some f => { e with fn := f, body := bodyOf i, ctl := ctlOf w : Env }.wordTrap
    | none => none

/-- The first of the causes that the two words of a pair show, by rank and then by word (R55): whether it is the second's. -/
def firstOfPair (a b : Option (Nat × Cause)) : Option (Bool × Nat × Cause) :=
  match a, b with
  | some x, some y => if y.1 < x.1 then some (true, y) else some (false, x)
  | some x, none => some (false, x)
  | none, some y => some (true, y)
  | none, none => none

/-- A pair: `i` stands at the site and `j` after it. Both issue, or the first trap of R55's order is taken and neither takes
effect. -/
noncomputable def issuePair (e : Env) (i j : Instr) : Host.Outcome State Fault Refusal :=
  let b := bodyOf j
  let legal := match fnOf i, fnOf j with
    | some f, some g => legalPair f g (bodyOf i) b
    | _, _ => false
  if !legal then exec i e.s
  else if !e.issuable || !e.pairReady (ctlOfBody b) then .next e.s
  else
    let later (t : Raised) : Host.Outcome State Fault Refusal :=
      done (raiseAt { e.s with second := true } e.c e.party e.slot (e.pc + 12) e.handler t.rank t.trap)
    let first := exec i { e.s with pairing := true }
    match first with
    | .next s =>
      match s.raised with
      | none =>
        (match exec j { s with pairing := true, second := true } with
         | .next t => match t.raised with
           | none => .next t
           | some r => later r
         | o => o)
      | some r =>
        let alone := (e.goto e.s (e.pc + 12) e.ready)
        (match (outcomeState (exec j { alone with pairing := true, second := true })).bind (·.raised) with
         | some q => if q.rank < r.rank then later q else .next s
         | none => .next s)
    | o => o

/-- The word at a site run: it is fetched and decoded, and the pages that it stands in enter the TLB. -/
noncomputable def Env.issueWord (e : Env) (a : Actor) (s : State) : Host.Outcome State Fault Refusal :=
  match e.fetch e.pc with
  | .wait => .next s
  | .fault => e.refuse false e.pc 1 .fetchFault
  | .word w =>
    let s' := (s.at a).fillTlb e.c e.blk.asid (fetchPages e.pc)
    let e' : Env := { e with body := .r (rOf w), ctl := ctlOf w }
    if (ctlOf w).pair ∧ e.st = .compute then
      match e.fetch (e.pc + 12) with
      | .wait => .next s
      | .fault => e'.refuse true (e.pc + 12) 1 .fetchFault
      | .word v =>
        match firstOfPair (e.pairWord w) (e.pairWord v) with
        | some (second, rank, c) => e'.refuse second (if second then e.pc + 12 else e.pc) rank c
        | none =>
          match decode .compute w, decode .compute v with
          | .ok i, .ok j => (match envOf s' (fnOf i |>.getD .nop) (bodyOf i) with
            | some e'' => issuePair e'' i j
            | none => .next s)
          | _, _ => .next s
    else
      match decode e.st w with
      | .error x => e'.refuse false e.pc (errorRank x).1 (errorRank x).2
      | .ok i => Machine.exec i s'

/-- What shows that a stream has issued: its pc, the clock from which it may issue, and its warp's comparator. -/
def issueMark (s : State) (a : Actor) : Option (Word64 × Nat × Word64) :=
  (siteOf s a).map (fun e => (e.pc, e.ready, e.wp.cmp))

/-- Whether an outcome shows that a stream has issued, or has taken a trap at its word. -/
def hasIssued (s : State) (a : Actor) (o : Host.Outcome State Fault Refusal) : Bool :=
  match o with
  | .next t => decide (issueMark t a ≠ issueMark s a) || t.raised.isSome
  | _ => true

/-- Whether the word at a site would issue if the warp's timer were off (R373). -/
noncomputable def Env.issuesUntimed (e : Env) (a : Actor) (s : State) : Bool :=
  let s := s.onWarp e.c e.w (fun x => { x with cmp := 0 })
  match siteOf s a with
  | some e => hasIssued s a (e.issueWord a s)
  | none => false

/-- The word of a core's stream, or of the handler split, run; a pending timer event is taken in its place, in a clock in which
the word would issue (R373). -/
noncomputable def issueCore (a : Actor) (s : State) : Host.Outcome State Fault Refusal :=
  match siteOf s a with
  | none => .next s
  | some e =>
    if e.st = .compute ∧ timerTaken e.wp s.clk e.handler then
      if e.issuesUntimed a s then exec (.timerEvent e.c e.w) (s.at a) else .next s
    else e.issueWord a s

/-- The word of a stack core run (R59, R266). -/
noncomputable def issueStack (g k : Nat) (s : State) : Host.Outcome State Fault Refusal :=
  let s := s.at (.stackCore g k)
  let x := s.sc g k
  let stop (w : BitVec 96) (st : Nat) : Host.Outcome State Fault Refusal :=
    match senvOf s .nop (.r (rOf w)) with
    | some e => if e.issuable then done (s.setSc g k (x.finish st x.pc 0)) else .next s
    | none => .next s
  if 32768 < x.pc + 12 then stop 0 (stackStatus .fetchFault)
  else
    let w := wordOfBytes (x.imem.getBytes x.pc 12)
    match decode .stack w with
    | .error e => stop w (stackStatus (errorRank e).2)
    | .ok i => exec i s

/-- A stream's issue. -/
noncomputable def issueAt (a : Actor) (s : State) : Host.Outcome State Fault Refusal :=
  match a with
  | .outside => .next s
  | .stackCore g k => issueStack g k s
  | _ => issueCore a s

/-! Selection (R359, R361). -/

/-- Whether a stream would issue now. -/
noncomputable def wouldIssue (s : State) (a : Actor) : Bool := hasIssued s a (issueAt a s)

/-- The choice among candidates: their numbers with their yielding marks, all of them issuable. -/
def choose (iss : List (Nat × Bool)) (ptr : Nat) (age : FMap Nat) (n : Nat) : Option Nat :=
  let cand := iss.filter (fun e => !e.2)
  let cand := if cand.isEmpty then iss else cand
  match (iss.filter (fun e => age.get e.1 0 == 64)).map (·.1) with
  | o :: os => some (os.foldl min o)
  | [] => (List.range n).map (fun i => (ptr + i) % n) |>.find? (fun i => cand.any (fun e => e.1 == i))

/-- The ages after a clock. -/
def nextAges (all : List Nat) (iss : List (Nat × Bool)) (age : FMap Nat) (chosen : Option Nat) : FMap Nat :=
  all.foldl (fun m i =>
    m.put i (if some i = chosen ∨ ¬ iss.any (fun e => e.1 == i) then 0 else min (age.get i 0 + 1) 64) 0) []

/-- The warps of a quad, rising. -/
def quadWarps (k : Core) (q : Nat) : List Nat := (List.range k.kernel.nwarps).filter (fun w => w % 4 == q)

/-- The compute candidates of a quad, and the access candidates: number, yielding mark, stream. -/
def computeCands (c : Nat) (k : Core) (q : Nat) : List (Nat × Bool × Actor) :=
  ((quadWarps k q).map (fun w => (k.warp w).splits.map (fun e => (w / 4 * 4 + e.1, e.2.ymark, Actor.compute c w e.1)))).flatten
def accessCands (c : Nat) (k : Core) (q : Nat) : List (Nat × Bool × Actor) :=
  ((quadWarps k q).filter (fun w => k.kernel.hasAccess w && !(k.warp w).acc.aend)).map (fun w =>
    (w / 4, (k.warp w).acc.ymark, Actor.access c w))

/-- The choice of one selector on the state at the start of a clock: the stream, its pointer and its ages after. -/
noncomputable def selectOne (s : State) (cands : List (Nat × Bool × Actor)) (ptr : Nat) (age : FMap Nat) (n : Nat) :
    Option Actor × Nat × FMap Nat :=
  let able := cands.filter (fun e => wouldIssue s e.2.2)
  let iss := able.map (fun e => (e.1, e.2.1))
  let pick := choose iss ptr age n
  let who := pick.bind (fun i => (able.find? (fun e => e.1 == i)).map (·.2.2))
  (who, match pick with
    | some i => (i + 1) % n
    | none => ptr, nextAges (cands.map (·.1)) iss age pick)

/-- One quad's issues of a clock, and the quad after. -/
noncomputable def selectQuad (s : State) (c q : Nat) : List Actor × Quad :=
  let k := s.core c
  let x := k.quads.get q {}
  let r := selectOne s (computeCands c k q) x.ptr x.age 32
  let a := selectOne s (accessCands c k q) x.aptr x.aage 8
  (r.1.toList ++ a.1.toList, { ptr := r.2.1, age := r.2.2, aptr := a.2.1, aage := a.2.2 })

/-- The issues of a core in a clock: one from each quad and each access unit, the matrix stream, and the handler split. -/
noncomputable def selectCore (s : State) (c : Nat) : List Actor × FMap Quad :=
  let qs := (List.range 4).map (fun q => selectQuad s c q)
  ((qs.map (·.1)).flatten ++ [.matrix c, .handler c], qs.zipIdx.map (fun e => (e.2, e.1.2)))

/-! What the hardware does by itself. -/

/-- Whether a function accesses memory by R151 or is a signal or a shape record's move. -/
def isAccess (f : Fn) : Bool :=
  [Fn.ld, .ldNf, .ldg, .lds, .ldW, .st, .stg, .sts, .atom, .atoms, .atomg, .ldAcq, .stRel, .sigAdd, .sigSet, .sigRd, .sigWait,
   .shld, .shst].contains f

/-- The failure that a copy's engine meets by itself at its position: its chunk and status (R203, R204). -/
def copyTrouble (s : State) (c : Nat) (o : Op) : Option (Nat × Nat) :=
  match (copyChunks o)[o.pos]? with
  | some x =>
    if failsWith s c o x 1 then some (o.pos, 1)
    else if failsWith s c o x 2 then some (o.pos, 2)
    else if (chunkPages s c o x).any (fun p => p.2.2 == .fabric) then some (o.pos, 4)
    else none
  | none => none

/-- The clocks after its issue from which the model plans an operation's completion: the times that the spec calls typical
(R151, R161, R230 to R232, R250, R265). Completions may fall at any later or earlier moment that the rules allow (log 36). -/
def typicalTime (s : State) (c : Nat) (o : Op) : Nat :=
  let w := match o.body with
    | .r w => w
    | _ => default
  match o.fn with
  | .lds | .sts | .atoms => 8
  | .ldW => 40
  | .tzero => 16
  | .tld | .tst => 64
  | .tcvt => 40
  | .mmaV => let m := mmaArgs w o.args o.bytes; 40 + 6 * m.rows * m.k / 32
  | .tseqNext => 12
  | .kldK | .kldV => 30 + tilePositions o * (s.tileSpace c o).dh / 32
  | f => if isAccess f || f = .qld || f = .qldg || f = .kst then 110 else if isCopy f then 520 else 8

/-- The events of an operation in flight that may take place now. -/
noncomputable def opEvents (s : State) (c : Nat) (o : Op) : List Instr :=
  let mig : List Instr := if o.waits.isEmpty then [] else [.migratingWaitTimeout c o.id]
  match o.stage with
  | .done => []
  | .check =>
    [.deferredCauseInHandler c o.party o.slot] ++ mig ++
      (if o.fn = .kldK ∨ o.fn = .kldV then [.kvWalkWaitTimeout c o.id, .kldWalkEnd c o.id]
       else if o.fn = .kst then [.kvWalkWaitTimeout c o.id, .addressCheckEnd c o.id] else [.addressCheckEnd c o.id])
  | _ =>
    mig ++
    (if o.port.isSome then [.fabricTimeout c o.id] else []) ++
    (if s.clk < o.since + typicalTime s c o then []
     else if isAccess o.fn then [.memAccessCompletion c o.id 0 .ok]
     else if o.fn = .qld ∨ o.fn = .qldg then [.queueLoadCompletion c o.id {}]
     else if isCopy o.fn then
       (match copyTrouble s c o with
        | some (i, st) => [.copyFailure c o.id i st [], .copyCompletion c o.id]
        | none => [.copyCompletion c o.id])
     else if o.fn = .acqr then [.acqrTokenGrant c o.id, .acqrTimeout c o.id]
     else if o.fn = .relr then [.relrCompletion c o.id]
     else if o.fn = .kldK ∨ o.fn = .kldV then [.kldCompletion c o.id]
     else [.variableLatencyCompletion c o.id, .fabricTimeout c o.id])

/-- The parties of a core that stand in a barrier hold. -/
def heldParties (k : Core) : List (Party × Nat) :=
  (k.warps.map (fun w =>
    (w.2.splits.filter (fun e => e.2.bar.isSome)).map (fun e => (Party.compute w.1, e.1)) ++
      (if w.2.acc.bar.isSome then [(Party.access w.1, 0)] else []))).flatten ++
    (if k.mst.bar.isSome then [(Party.matrix, 0)] else [])

/-- The events of a core, its operations in the order in which they were issued. -/
noncomputable def coreEvents (s : State) (c : Nat) : List Instr :=
  let k := s.core c
  (k.ops.map (opEvents s c)).flatten ++ k.warps.map (fun w => Instr.mergeStep c w.1) ++
    (k.warps.map (fun w => (List.range 4).map (fun q => Instr.backQueueSlotFull c w.1 (12 + q)))).flatten ++
    [.arrayOperationPerform c false, .arrayOperationCompletion c, .mstreamOrphan c] ++
    (heldParties k).map (fun e => Instr.barOrphan c e.1 e.2) ++
    [.preempt c, .handlerEntry c, .handlerSaveTimeout c, .hardwareSave c, .blockEnd c]

/-- The events of a stack core. -/
noncomputable def stackEvents (s : State) (g k : Nat) : List Instr :=
  let x := s.sc g k
  x.dmas.map (fun d => Instr.bankDmaCompletion g k d.id false) ++
    (List.range x.deferral.length).map (fun i => Instr.deferralTimeout g k (x.deferral.length - 1 - i)) ++
    [.stackCommandTimeout g k, .stackCommandReport g k, .stackKernelPreempt g k, .nmxbLoadEntry g k true, .stackCommandStart g k,
     .stackKernelRestore g k]

/-- The restore of an evicted KV page that walks wait for (R253): the MMP finds the frame. -/
noncomputable def kvEvents (s : State) (r : KvReq) : List Instr :=
  let frame := match s.kvStatus (s.spaceOf r.asid r.space) r.coord.toNat with
    | (_, _, some e) =>
      (match s.leafOf r.asid (s.kvBack.get e default).va with
       | some (_, size, _) => (s.findRun r.asid (size / 2 ^ 16)).getD frameCount
       | none => frameCount)
    | _ => frameCount
  [.kvPageRestore r.asid r.space r.coord frame false, .kvPageRestore r.asid r.space r.coord frame true]

/-- The duties of the MMP, and the receivers' answers to shootdowns. -/
noncomputable def mmpEvents (s : State) : List Instr :=
  ((s.shoots.map (·.waiting)).flatten.eraseDups).map Instr.shootdown ++ s.mmpq.map (fun _ => Instr.mmpPageRequest) ++
    s.calls.map (fun y => Instr.hostCallTimeout y.req.asid y.req.va) ++ (s.kvq.map (kvEvents s)).flatten ++
    s.kvBad.map (fun r => Instr.kvPagePoison r.asid r.space r.coord) ++
    (s.ctxs.map (fun e => e.2.moves.map (fun m => Instr.mmpMigrate e.1 (BitVec.ofNat 64 m.1) m.2 true))).flatten

/-- The events of a context's collectives and graphs. -/
noncomputable def contextEvents (s : State) (asid : Nat) : List Instr :=
  let x := s.ctx asid
  (x.cols.map (fun e => (List.range (podN s.order)).map (fun p => Instr.collectiveContribute asid e.1 p) ++
    [.collectiveGather asid e.1, .collectiveDecision asid e.1 false, .collectiveDecision asid e.1 true,
     .collectiveStatus asid e.1 false, .collectiveStatus asid e.1 true])).flatten ++
    (x.graphs.map (fun g => (List.range 8).map (fun i => Instr.drainRecord asid g.1 i) ++
      (g.2.nodes.map (fun n => [Instr.flushTimerExpiry asid g.1 n.1, .batchSubmissionRetry asid g.1 n.1])).flatten)).flatten

/-- The events of the ports. -/
noncomputable def portEvents (s : State) : List Instr :=
  if s.order = 0 then []
  else ((List.range (s.order + 1)).map (fun j =>
    [Instr.portTrainingComplete j (((s.port j).usable).getD 0), .linkRetrainComplete j 0, .linkDown j, .courierRequest j])).flatten

/-- The launch controller's work: releases, the units that launches take, placements, requests, ends. -/
noncomputable def launchEvents (s : State) : List Instr :=
  let ids := s.launches.map (·.1)
  ids.map Instr.gateOpen ++ s.zeroing.map Instr.weightStoreZeroing ++
    (s.launches.map (fun e => (e.2.todo.map (fun u =>
      [Instr.wsloadWrite e.1 u.1 true, .stackKernelStart e.1 u.1 u.2 true])).flatten)).flatten ++
    (s.away.map (fun e => [Instr.hardwareRestore e.1, .resume e.1])).flatten ++ (List.range 96).map (fun _ => Instr.blockPlacement) ++
    ids.map Instr.spatialPreemptionRequest ++ ids.map Instr.launchDone

/-- The change of a context that goes on (R409). -/
noncomputable def changeEvents (s : State) : List Instr :=
  match s.change with
  | some x => [if x.destroy then .contextDestroy x.descriptor else .contextRegrant x.descriptor]
  | none => []

/-- Whether the arithmetic clock advances in this reference tick: a step of throttling drops one tick of twenty. -/
def State.arithTick (s : State) : Bool := decide (s.throttle ≤ s.ref % 20)

/-- Whether the stack clock advances: four ticks of five, of which a step of throttling drops one of twenty, as it does of the
arithmetic clock's (R414). -/
def State.stackTick (s : State) : Bool := decide (s.ref % 5 ≠ 4 ∧ s.throttle ≤ (s.ref / 5 * 4 + s.ref % 5) % 20)

/-- Every event that the hardware may run in a tick, in the order in which the model takes them; what belongs to a clock takes place
in the ticks in which that clock advances. -/
noncomputable def hardwareEvents (s : State) : List Instr :=
  if s.stopped then []
  else
    (List.range 6).map Instr.refreshWindowStart ++ (List.range 6).map Instr.refreshWindowEnd ++
      (if s.arithTick then (s.cores.keys.map (coreEvents s)).flatten else []) ++
      (if s.stackTick then (s.scores.keys.map (fun i => stackEvents s (i / 64) (i % 64))).flatten else []) ++ mmpEvents s ++ portEvents s ++
      (s.ctxs.keys.map (contextEvents s)).flatten ++ launchEvents s ++ changeEvents s ++ [.timetableTick]

/-! The clocks (R410, R414). -/

/-- The pages of code that a compute word which may issue looks up itself: the table and the target of an indirect branch, the
target of a TIMER (R107, R373). -/
noncomputable def wordPages (s : State) (a : Actor) (w : BitVec 96) : List Nat :=
  match decode .compute w with
  | .ok (.brx r) => pagesOf .brx (.r r)
  | .ok (.callx r) => pagesOf .callx (.r r)
  | .ok (.timer r) => pagesOf .timer (.r r)
  | _ => []
where
  pagesOf (f : Fn) (b : Body) : List Nat :=
    match envOf (s.at a) f b with
    | some e => if e.st = .compute && e.issuable && e.trap.isNone then e.codePages else []
    | none => []

/-- The pages whose fetch waits for the end of a migration, with the tick of its beginning (R395). -/
noncomputable def Core.noteFetches (s : State) (c : Nat) (k : Core) : Core :=
  let actors := (k.warps.map (fun w => (w.2.splits.map (fun e => Actor.compute c w.1 e.1)) ++ [Actor.access c w.1])).flatten ++
    [.matrix c, .handler c]
  let pages := (actors.map (fun a => match siteOf s a with
    | some e => (fetchPages e.pc ++ (match e.fetch e.pc with
        | .word w => wordPages s a w
        | _ => [])).filter (fun p => match s.xlate k.tlb e.blk.asid p with
      | .migrating _ => true
      | _ => false)
    | none => [])).flatten
  { k with fwaits := pages.foldl (fun m p => m.set (p / 2 ^ 16) (k.fwaits.get (p / 2 ^ 16) s.ref)) [] }

/-- The MIGRATING pages that the launch controller goes on waiting for (R395). -/
def State.stillMoving (s : State) : FMap Nat :=
  s.moving.keep (fun k _ => match s.xlate s.ltlb (k / 2 ^ 48) (k % 2 ^ 48 * 2 ^ 16) with
    | .migrating _ => true
    | _ => false)

/-- The end of an arithmetic clock: results that are due land in every core (R50), and the clock counts. -/
def State.endClock (s : State) : State :=
  { s with cores := s.cores.mapV (fun k => k.landDue (s.clk + 1)), clk := s.clk + 1 }

/-- The end of a reference tick: TODNS advances by 0.8 ns, as RATE corrects it (R410, R411). -/
noncomputable def State.endTick (s : State) : State :=
  let s := { s with cores := s.cores.map (fun (e : Nat × Core) => (e.1, Core.noteFetches s e.1 e.2)), moving := s.stillMoving }
  let s := if s.arithTick then s.endClock else s
  { s with ref := s.ref + 1, tod := ((s.tod : Int) + 4 * (2 ^ 32 + s.rate)).toNat }

/-- A write of another package, or of the host's pod set-up, arrives at a module: copies that the slices of this package hold of its
lines are recalled. -/
def State.moduleArrives (s : State) (m off : Nat) (bs : List Byte) : State :=
  let s := if off < 0x1000 then s.setMod m off bs else (s.moduleWrite m off bs).getD s
  s.recall m off bs.length

/-- A command of another package arrives at a module by the port of its head (R321). -/
def State.commandArrives (s : State) (m h : Nat) (x : Command) : State := (s.atPort m h x).2

/-- The records of the errors noted (R375, R415). -/
def State.logErrors (s : State) : State :=
  s.errors.foldl (fun s x => s.log { cls := x.cls, asid := x.asid, unit := some x.unit, launch := x.launch, addr := x.addr })
    { s with errors := [] }

/-- The turns of the next tick, found on the state at its start. -/
noncomputable def State.plan (s : State) : State :=
  let live := s.cores.filter (fun e => e.2.block.isSome)
  let sel := if s.arithTick && !s.stopped then live.map (fun e => (e.1, selectCore s e.1)) else []
  let s' := sel.foldl (fun t e => t.onCore e.1 (fun k => { k with quads := e.2.2 })) s
  let sturns := if s.stackTick && !s.stopped then
      (s.scores.filter (fun e => e.2.job != .idle)).map (fun e => Turn.issue (.stackCore (e.1 / 64) (e.1 % 64))) else []
  { s' with agenda := (if s.errors.isEmpty then [] else [.errorRecords]) ++ ((sel.map (·.2.1)).flatten).map Turn.issue ++ sturns ++ (hardwareEvents s).map Turn.event ++
              (if s.stackTick then [.stackClock] else []) ++ [.clock] }

/-- One turn. -/
noncomputable def runTurn (t : Turn) (s : State) : Host.Outcome State Fault Refusal :=
  match t with
  | .issue a => issueAt a s
  | .event i => exec i (s.at .outside)
  | .clock => .next s.endTick
  | .stackClock => .next { s with sclk := s.sclk + 1 }
  | .moduleWrite m off bs => .next (s.moduleArrives m off bs)
  | .moduleCommand m h op target b c data => .next (s.commandArrives m h ⟨op, target, b, c, data⟩)
  | .moduleError m off => .next { s with modBad := s.modBad.put (modKey m off / 64) true false }
  | .relayAnswer r status => .next { s with relays := s.relays.put r status 0 }
  | .errorRecords => done s.logErrors
  | .stackError g k => .next (s.stackError g k)
  | .registerRead offset width => done (s.readRegister offset width)
  | .snapshotRead place => .next (s.readSnapshot place)
  | .codeError c sector => .next ((s.noteError 3 c (some (64 * sector))).onCore c (fun k => if k.block.isSome then { k with badCode := k.badCode.put sector true false } else k))

end Sys2Proof.Machine
end

