-- ==== Sys2Proof/Machine/Boot.lean ====
section
/-! DEFINITION. A smallest running place for one instruction word: page tables with one page of code, a context, a block on core 0 or
a kernel on stack core (0, 0), and the word at the pc of the stream that its bits belong to. -/

namespace Sys2Proof.Machine

/-- The kernel of the block: every resource that a word may name. -/
def bootKernel : Kernel :=
  { w := 16, nwarps := 1, n := 1024, matrix := true, ntiles := 32, accmask := 1, scratch := 0x100000, paramsz := 64 }

/-- Page tables at the bottom of HBM that map the 64 KiB page at virtual address 0 to the frame at 0x30000 with R, W and X. -/
def bootTables (hbm : FMap Byte) : FMap Byte :=
  (((hbm.putNum 0 8 0x20001).putNum 0x20000 8 0x21001).putNum 0x21000 8 0x22001).putNum 0x22000 8 0x300E2

/-- The stream that a word's bits belong to: the first in which they decode, in the order compute, access, matrix, stack. -/
noncomputable def bootActor (w : BitVec 96) : Actor :=
  let ok (st : Stream) : Bool := match decode st w with
    | .ok _ => true
    | .error _ => false
  if ok .compute then .compute 0 0 0
  else if ok .access then .access 0 0
  else if ok .matrix then .matrix 0
  else if ok .stack then .stackCore 0 0
  else .compute 0 0 0

/-- Core 0 with the block at its start. -/
def bootCore (k : Core) (clk : Nat) : Core :=
  { k with block := some { kernel := bootKernel }, warps := [(0, warpStart bootKernel clk)], halt := none, tlb := [],
           mst := { ready := clk }, fwaits := [] }

/-- Stack core (0, 0) with the word in its instruction memory and a kernel running. -/
def bootStack (x : SCore) (bs : List Byte) (sclk : Nat) : SCore :=
  { x with pc := 0, imem := x.imem.putBytes 0 bs, job := .kernel 0, ending := none, ready := sclk }

/-- The package in which the next step issues the word. -/
noncomputable def State.boot (s : State) (w : BitVec 96) : State :=
  let bs := toLe w.toNat 12
  let a := bootActor w
  let s := { s with agenda := [.issue a], stopped := false }
  match a with
  | .stackCore _ _ => s.setSc 0 0 (bootStack (s.sc 0 0) bs s.sclk)
  | _ =>
    let s := { s with hbm := (bootTables s.hbm).putBytes 0x30000 bs, ctxs := s.ctxs.put 0 { s.ctx 0 with live := true, root := 0 } {} }
    s.onCore 0 (fun k => bootCore k s.clk)

end Sys2Proof.Machine
end

