-- ==== Sys2Proof/Machine/Step.lean ====
section
/-! DEFINITION. One step: the next turn of the agenda, or the planning of the next tick where the agenda is empty. -/

namespace Sys2Proof.Machine

/-- One step of the package. -/
noncomputable def step (s : State) : Host.Outcome State Fault Refusal :=
  match s.agenda with
  | [] => .next s.plan
  | t :: ts => runTurn t { s with agenda := ts }

/-- The package in which the next step runs the instruction whose bits are `w`: twelve bytes, the bits above `nbits` zero. -/
noncomputable def State.withFetchWord (s : State) (nbits w : Nat) : State := s.boot (BitVec.ofNat 96 (w % 2 ^ nbits))

end Sys2Proof.Machine
end

