-- ==== Sys2Proof/Certificates/Slice0/Obligations.lean ====
section
/-! DEFINITION. The statements for the provers. Sys2Proof.Spec has the vocabulary that they are written in: what a word that
may issue is, exact integer results, and what two packages have in common. Unless a docstring says otherwise a statement
holds for every state and every operand of the forms that it names. -/

namespace Sys2Proof.Spec

open Sys2Proof.Machine

/-! Words that issue. -/

/-- A word of a core's streams that stands at its site, is issuable (R360) and finds none of the common traps (R55), in a package
that has touched no memory that does not exist. -/
structure Site (i : Instr) (s : State) (e : Env) : Prop where
  fn : fnOf i = some e.fn
  env : envOf s e.fn (bodyOf i) = some e
  able : e.issuable = true
  clean : e.trap = none
  sound : s.bad = none

/-- Such a word with at least one active lane (R45). -/
structure Acts (i : Instr) (s : State) (e : Env) : Prop extends Site i s e where
  active : e.act ≠ 0

/-- A word of the stack profile that may issue and finds no trap, its guard true (R59). -/
structure StackActs (i : Instr) (s : State) (e : SEnv) : Prop where
  fn : fnOf i = some e.fn
  env : senvOf s e.fn (bodyOf i) = some e
  able : e.issuable = true
  clean : e.trap = none
  guard : e.act = true
  sound : s.bad = none

/-- The functions whose own entry can keep a word from being issuable (R182, R199 to R202, R209, R224, R291, R381, R382, R395). -/
def ownCondition : List Fn :=
  [.qld, .qldg, .abrq, .qpop, .qpush, .brx, .callx, .timer, .shld, .shst, .shset, .cpt, .cptm, .cpl, .cpw, .wbld, .waitall,
   .waitany, .waitc, .mwait, .mma, .mmaV, .cbld, .tseqNext, .tzero, .fence, .colRs, .colAg, .colWait, .ctxsv, .ctxld, .scrub]

/-- What a word of fixed latency leaves: it has issued, and `wrs` land `lat` clocks later (R50). -/
def after (e : Env) (lat : Nat) (wrs : List Wr) : Host.Outcome State Fault Refusal := .next (e.retire e.issued lat wrs)

/-! Exact integers (R70). -/

/-- The exact integer that a pattern represents under TYPE. -/
def val (ty x : Nat) : Int :=
  if tySigned ty then (BitVec.ofNat (tyWidth ty) x).toInt else ((BitVec.ofNat (tyWidth ty) x).toNat : Int)

/-- The range of an integer TYPE. -/
def lowest (ty : Nat) : Int := if tySigned ty then -(2 ^ (tyWidth ty - 1)) else 0
def highest (ty : Nat) : Int := if tySigned ty then 2 ^ (tyWidth ty - 1) - 1 else 2 ^ tyWidth ty - 1

/-- An exact result delivered into TYPE: its low bits, clamped first under SAT; and whether the clamp changed it. -/
def deliver (ty : Nat) (sat : Bool) (x : Int) : Nat × Bool :=
  if sat then ((BitVec.ofInt (tyWidth ty) (max (lowest ty) (min (highest ty) x))).toNat, decide (x < lowest ty ∨ highest ty < x))
  else ((BitVec.ofInt (tyWidth ty) x).toNat, false)

/-- What an integer word computes: from TYPE, SAT, A, B and old D, the result and whether it saturated. -/
abbrev IntFn := Nat → Bool → Nat → Nat → Nat → Nat × Bool

/-- An operation on exact integers, `w` being the width of TYPE (R117). -/
def exact (f : Nat → Int → Int → Int → Int) : IntFn := fun ty sat a b d =>
  deliver ty sat (f (tyWidth ty) (val ty a) (val ty b) (val ty d))

/-- An operation on patterns of the width of TYPE (R118 to R120). -/
def pattern (f : (w : Nat) → BitVec w → BitVec w → BitVec w → BitVec w) : IntFn := fun ty _ a b d =>
  let w := tyWidth ty
  ((f w (BitVec.ofNat w a) (BitVec.ofNat w b) (BitVec.ofNat w d)).toNat, false)

def addFn : IntFn := exact (fun _ a b _ => a + b)
def subFn : IntFn := exact (fun _ a b _ => a - b)
def mulFn : IntFn := exact (fun _ a b _ => a * b)
def madFn : IntFn := exact (fun _ a b d => a * b + d)
def minFn : IntFn := exact (fun _ a b _ => min a b)
def maxFn : IntFn := exact (fun _ a b _ => max a b)
def absFn : IntFn := exact (fun _ a _ _ => (a.natAbs : Int))
def negFn : IntFn := exact (fun _ a _ _ => -a)

/-- IMULHI: the high half of the exact product; SAT does not act on it. -/
def mulhiFn : IntFn := fun ty _ a b d => exact (fun w a b _ => a * b / 2 ^ w) ty false a b d

def andFn : IntFn := pattern (fun _ a b _ => a &&& b)
def orFn : IntFn := pattern (fun _ a b _ => a ||| b)
def xorFn : IntFn := pattern (fun _ a b _ => a ^^^ b)
def notFn : IntFn := pattern (fun _ a _ _ => ~~~a)
def selFn : IntFn := pattern (fun _ a b d => (a &&& d) ||| (b &&& ~~~d))
def movFn : IntFn := pattern (fun _ a _ _ => a)
def immFn : IntFn := pattern (fun _ _ b _ => b)

/-- The shifts and the rotate (R118): the count is the low 32 bits of B. -/
def shlFn : IntFn := fun ty _ a b _ => ((BitVec.ofNat (tyWidth ty) a <<< (b % 2 ^ 32)).toNat, false)
def shrFn : IntFn := fun ty _ a b _ =>
  let x := BitVec.ofNat (tyWidth ty) a
  ((if tySigned ty then x.sshiftRight (b % 2 ^ 32) else x >>> (b % 2 ^ 32)).toNat, false)
def rotFn : IntFn := fun ty _ a b _ => (((BitVec.ofNat (tyWidth ty) a).rotateLeft (b % 2 ^ 32)).toNat, false)

/-- BFE and BFI (R120). -/
def bfeFn : IntFn := fun ty _ a b _ =>
  let w := tyWidth ty
  let len := min (b / 2 ^ 8 % 2 ^ 8) w
  let f : Int := val ty a / 2 ^ (b % 2 ^ 8) % 2 ^ len
  let g : Int := if tySigned ty ∧ 0 < len ∧ 2 ^ (len - 1) ≤ f then f - 2 ^ len else f
  ((BitVec.ofInt w g).toNat, false)
def bfiFn : IntFn := fun ty _ a b d =>
  let w := tyWidth ty
  let len := min (b / 2 ^ 8 % 2 ^ 8) w
  let mask := BitVec.ofNat w ((2 ^ len - 1) * 2 ^ (b % 2 ^ 8))
  (((BitVec.ofNat w d &&& ~~~mask) ||| ((BitVec.ofNat w a <<< (b % 2 ^ 8)) &&& mask)).toNat, false)

/-- The counts of bits (R120): of 1 bits, of 0 bits above the highest 1, and below the lowest. -/
def popcFn : IntFn := fun ty _ a _ _ => (((List.range (tyWidth ty)).filter (fun i => a.testBit i)).length, false)
def clzFn : IntFn := fun ty _ a _ _ =>
  (tyWidth ty - (((List.range (tyWidth ty)).filter (fun i => a.testBit i)).getLast?.map (· + 1)).getD 0, false)
def ctzFn : IntFn := fun ty _ a _ _ => (((List.range (tyWidth ty)).filter (fun i => a.testBit i)).head?.getD (tyWidth ty), false)
def brevFn : IntFn := fun ty _ a _ _ => ((BitVec.ofNat (tyWidth ty) a).reverse.toNat, false)

/-- An R-form integer word: whether it writes tag RAW, whether its B is one 32-bit operand, whether it belongs to the multiplies, and
what it computes. -/
structure IntForm where
  form : RWord → Instr
  raw : Bool
  count : Bool
  mul : Bool
  op : IntFn

/-- The arithmetic instructions (R117). -/
def arithForms : List IntForm :=
  [⟨.iadd, false, false, false, addFn⟩, ⟨.isub, false, false, false, subFn⟩, ⟨.imul, false, false, true, mulFn⟩,
   ⟨.imad, false, false, true, madFn⟩, ⟨.imulhi, false, false, true, mulhiFn⟩, ⟨.imin, false, false, false, minFn⟩,
   ⟨.imax, false, false, false, maxFn⟩, ⟨.iabs, false, false, false, absFn⟩, ⟨.ineg, false, false, false, negFn⟩]

/-- The logic, shift, select, move and bit-count instructions (R118 to R120, R122). -/
def logicForms : List IntForm :=
  [⟨.andB, true, false, false, andFn⟩, ⟨.orB, true, false, false, orFn⟩, ⟨.xorB, true, false, false, xorFn⟩,
   ⟨.notB, true, false, false, notFn⟩, ⟨.sel, false, false, false, selFn⟩, ⟨.mov, false, false, false, movFn⟩,
   ⟨.shl, false, true, false, shlFn⟩, ⟨.shr, false, true, false, shrFn⟩, ⟨.rot, true, true, false, rotFn⟩]
def bitForms : List IntForm :=
  [⟨.popc, false, false, false, popcFn⟩, ⟨.clz, false, false, false, clzFn⟩, ⟨.ctz, false, false, false, ctzFn⟩,
   ⟨.brev, true, false, false, brevFn⟩, ⟨.bfe, false, true, false, bfeFn⟩, ⟨.bfi, true, true, false, bfiFn⟩]

/-- The I-form integer words (R44): B is IMM32. -/
structure IntImmForm where
  form : IWord → Instr
  raw : Bool
  count : Bool
  mul : Bool
  op : IntFn

def immForms : List IntImmForm :=
  [⟨.iaddImm, false, false, false, addFn⟩, ⟨.imulImm, false, false, true, mulFn⟩, ⟨.andImm, true, false, false, andFn⟩,
   ⟨.orImm, true, false, false, orFn⟩, ⟨.xorImm, true, false, false, xorFn⟩, ⟨.shlImm, false, true, false, shlFn⟩,
   ⟨.shrImm, false, true, false, shrFn⟩, ⟨.movImm, false, false, false, immFn⟩]

/-- The uniform instructions (R124). -/
def uniformForms : List IntForm :=
  [⟨.sadd, false, false, false, addFn⟩, ⟨.ssub, false, false, false, subFn⟩, ⟨.smul, false, false, false, mulFn⟩,
   ⟨.sand, false, false, false, andFn⟩, ⟨.sor, false, false, false, orFn⟩, ⟨.sxor, false, false, false, xorFn⟩,
   ⟨.sshl, false, true, false, shlFn⟩, ⟨.sshr, false, true, false, shrFn⟩, ⟨.smov, false, false, false, movFn⟩,
   ⟨.ssel, false, false, false, selFn⟩]
def uniformImmForms : List IntImmForm := [⟨.saddImm, false, false, false, addFn⟩, ⟨.smovImm, false, false, false, immFn⟩]

/-- IMM32 as the second source of an integer TYPE (R44). -/
def imm (ty : Nat) (x : BitVec 32) : Nat :=
  if ty = 6 then (x.signExtend 64).toNat else if ty = 7 then x.toNat else x.toNat % 2 ^ tyWidth ty

/-- The latency of an integer word (R50, R116): ALU 4; the multiplies 6, and 10 for a 64-bit TYPE. -/
def intLatency (mul : Bool) (ty : Nat) : Nat := if mul then (if ty = 6 ∨ ty = 7 then 10 else 6) else 4

/-- The tag that a result takes (R80, R81). -/
def resultTag (raw : Bool) (ty : Nat) : BitVec 4 := if raw then 0 else tagOf ty

/-- FLAGS.SAT (R129) when an active lane saturated. -/
def satFlag (e : Env) (c : Nat → Bool) : List Wr := if e.active.any c then [.flagsOr e.w 0x20] else []

/-- The result of an integer word in an X register (R125): a 32-bit result is extended by its type's sign. -/
def xValue (ty v : Nat) : Word64 :=
  if ty = 6 ∨ ty = 7 then BitVec.ofNat 64 v
  else if tySigned ty then (BitVec.ofNat 32 v).signExtend 64 else (BitVec.ofNat 32 v).setWidth 64

/-- A stack core with a condition bit of its flags register written (R125). -/
def setCond (x : SCore) (i : Nat) (b : Bool) : SCore := { x with sflags := putBit x.sflags i b }

/-- A stack core whose command or kernel ends with a status and a result at an instruction (R266, R269, R346): of a command the
status word keeps its status, its sticky bits and that PC; of a kernel the launch is told the PC. -/
def endedAt (x : SCore) (pc status : Nat) (result : Word64) : SCore :=
  match x.job with
  | .kernel _ => { x with ending := some status, result, kpc := pc, stopping := false }
  | _ => { x with ending := some status, result, lastPc := pc, sticky := x.sflags.toNat / 16 % 128, code := status }

/-- The condition codes of integer compares (R119). -/
def intHolds (cc : Nat) (a b : Int) : Bool :=
  match cc with
  | 0 => decide (a = b)
  | 1 => !decide (a = b)
  | 2 => decide (a < b)
  | 3 => !decide (b < a)
  | 4 => decide (b < a)
  | _ => !decide (a < b)

end Sys2Proof.Spec

open Sys2Proof Sys2Proof.Machine Sys2Proof.Spec

namespace Sys2Proof.Spec

open Sys2Proof.Machine

/-! What two packages have in common. -/

/-- The byte memories of the package: HBM, the modules, the host's memory, the weight stores, and, in a core or a stack core, the
scratchpad, the write buffer, the shape records and the instruction memory. -/
inductive Spot where
  | hbm (a : Nat)
  | module (a : Nat)
  | host (a : Nat)
  | weights (a : Nat)
  | scratch (core a : Nat)
  | buffer (core a : Nat)
  | shape (core a : Nat)
  | near (stack k a : Nat)
  | imem (stack k a : Nat)

/-- The read of one byte of any memory. -/
def byteAt (s : State) (p : Spot) : Byte :=
  match p with
  | .hbm a => s.hbm.get a 0
  | .module a => s.mods.get a 0
  | .host a => s.host.get a 0
  | .weights a => s.ws.get a 0
  | .scratch c a => (s.core c).scratch.get a 0
  | .buffer c a => (s.core c).wbuf.get a 0
  | .shape c a => (s.core c).shapes.get a 0
  | .near g k a => (s.sc g k).scratch.get a 0
  | .imem g k a => (s.sc g k).imem.get a 0

/-- Every byte of every memory reads as before. -/
def sameBytes (s t : State) : Prop := ∀ p, byteAt t p = byteAt s p

/-- A byte of HBM whose sector a holder's slice held newer has been written back, and has left the slice (R303, R311). -/
def writtenBack (s t : State) (p : Spot) : Prop :=
  ∃ a cl x, p = .hbm a ∧ s.heldBytes.find (heldKey cl (a / 64)) = some x ∧ x.m = true ∧
    t.heldBytes.find (heldKey cl (a / 64)) = none ∧ byteAt t p = (x.bytes[a % 64]?).getD 0

/-- Every byte outside `q` reads as before, but for what slices write back to make room (R303). -/
def keepsBut (s t : State) (q : Spot → Prop) : Prop := ∀ p, ¬q p → byteAt t p = byteAt s p ∨ writtenBack s t p
def keepsBytes (s t : State) : Prop := keepsBut s t (fun _ => False)

/-- No slice of a cluster holds the `n` bytes at `pa` newer than HBM does (R311). -/
def settledAt (s : State) (pa n : Nat) : Prop :=
  ∀ a cl x, pa ≤ a → a < pa + n → s.heldBytes.find (heldKey cl (a / 64)) = some x → x.m = false

/-- The registers of a warp, without what issuing moves (the pc and the distance of its streams, its counters and queues, and the
latches of the clock's high halves). -/
def sameWarp (x y : Warp) : Prop :=
  y.v = x.v ∧ y.s = x.s ∧ y.p = x.p ∧ y.pstack = x.pstack ∧ y.en = x.en ∧ y.live = x.live ∧ y.flags = x.flags ∧ y.gen = x.gen ∧
    y.kvs = x.kvs ∧ y.akvs = x.akvs ∧ y.lp = x.lp ∧ y.arvd = x.arvd ∧ y.alp = x.alp ∧ y.aarvd = x.aarvd ∧ y.cmp = x.cmp ∧
    y.tt = x.tt ∧ y.acc.a = x.acc.a ∧ y.acc.c = x.acc.c ∧ y.acc.slip = x.acc.slip ∧ y.acc.aend = x.acc.aend

/-- The registers of a core apart from its warps': the matrix stream's registers, condition bits and sequencer, accumulators,
the codebook, tags and their records, barriers, the system registers of the trap state, and the block itself. -/
def sameUnit (x y : Core) : Prop :=
  y.mst.m = x.mst.m ∧ y.mst.c = x.mst.c ∧ y.mst.seq = x.mst.seq ∧ y.mst.mend = x.mst.mend ∧ y.tiles = x.tiles ∧
    y.codebook = x.codebook ∧ y.tags = x.tags ∧ y.busy = x.busy ∧ y.tagerr = x.tagerr ∧ y.tagrec = x.tagrec ∧ y.bars = x.bars ∧
    y.sys = x.sys ∧ y.ptrap = x.ptrap ∧ y.block = x.block

/-- Every register of every core reads as before. -/
def sameRegisters (s t : State) : Prop :=
  ∀ c, sameUnit (s.core c) (t.core c) ∧ ∀ w, sameWarp ((s.core c).warp w) ((t.core c).warp w)

/-- The stack cores, the regions of the chip, the contexts, the ports, the launches and the host's registers read as before. -/
def sameRest (s t : State) : Prop :=
  t.scores = s.scores ∧ t.regions = s.regions ∧ t.pins = s.pins ∧ t.ctxs = s.ctxs ∧ t.ports = s.ports ∧
    t.launches = s.launches ∧ t.away = s.away ∧ t.host0 = s.host0 ∧ t.ready = s.ready ∧ t.podcfg = s.podcfg ∧
    t.frames = s.frames ∧ t.stopped = s.stopped ∧ t.clk = s.clk ∧ t.ref = s.ref ∧ t.sclk = s.sclk ∧ t.tod = s.tod ∧ t.bad = s.bad

/-- The same, and the sectors of held regions in the slices. -/
def sameChip (s t : State) : Prop := t.heldBytes = s.heldBytes ∧ sameRest s t

/-- No register, no byte and nothing of the rest of the chip has changed. -/
def untouched (s t : State) : Prop := sameRegisters s t ∧ sameBytes s t ∧ sameChip s t

/-- No register and nothing of the rest of the chip has changed, and no byte but what slices write back to make room. -/
def keeps (s t : State) : Prop := sameRegisters s t ∧ keepsBytes s t ∧ sameRest s t

/-- The stream instance of a site stands at the next word, its distance run from this clock (R46). -/
def moved (s : State) (e : Env) (t : State) : Prop :=
  ∃ n, envOf t e.fn e.body = some n ∧ n.pc = e.pc + 12 ∧ n.ready = s.clk + 1 + e.ctl.stall.toNat ∧ n.held = none

/-- The stream instance of a site is held at its word by the operation that the word has launched (R153). -/
def heldThere (s : State) (e : Env) (t : State) : Prop :=
  ∃ n, envOf t e.fn e.body = some n ∧ n.pc = e.pc ∧ n.held = some s.opId

/-- The counter that the word raises has risen by one (R47). -/
def counted (s : State) (e : Env) (t : State) : Prop :=
  e.ctl.setf.toNat ≠ 0 →
    ((t.core e.c).flags e.party).get e.ctl.setf.toNat 0 = ((s.core e.c).flags e.party).get e.ctl.setf.toNat 0 + 1

/-- An operation of the word is in flight, the youngest of its core, at a stage. -/
def launched (s : State) (e : Env) (t : State) (stage : Stage) (p : Op → Prop) : Prop :=
  ∃ o, (t.core e.c).ops = (s.core e.c).ops ++ [o] ∧ o.id = s.opId ∧ o.party = e.party ∧ o.slot = e.slot ∧ o.handler = e.handler ∧
    o.fn = e.fn ∧ o.body = e.body ∧ o.pc = e.pc ∧ o.since = s.clk ∧ o.flag = e.ctl.setf.toNat ∧ o.stage = stage ∧ p o

/-- The 32-bit word `j` of a loaded number, a narrow number extended by SGN (R148). -/
def loadedWord (w : RWord) (size v j : Nat) : Word :=
  if size ≤ 2 ∧ w.mb 18 then (BitVec.ofNat (8 * size) v).signExtend 32 else BitVec.ofNat 32 (v / 2 ^ (32 * j))

/-- The number that the bytes of a place make. -/
def numberAt (s : State) (p : Nat → Spot) (a n : Nat) : Nat := leNat ((List.range n).map (fun j => byteAt s (p (a + j))))

/-- The operation is complete: it has left (one of an engine class leaves in issue order, R209), and its counter has fallen (R47). -/
def completed (s t : State) (c : Nat) (o : Op) : Prop :=
  (o.eng = none → (t.core c).ops = (s.core c).ops.filter (fun x => x.id != o.id)) ∧
    (∀ x ∈ (t.core c).ops, x.id = o.id → x.stage = .done) ∧
    (o.flag ≠ 0 → ((t.core c).flags o.party).get o.flag 0 = ((s.core c).flags o.party).get o.flag 0 - 1)

/-- Control fields with YLD and PAIR 0. -/
def ctl (g : BitVec 5) (stall : BitVec 4) (wait : BitVec 12) (setf : BitVec 4) (reuse : BitVec 3) : Ctl :=
  ⟨g, stall, wait, setf, reuse, false, false⟩

/-- Worked examples of the spec, at least one for every class of instructions: the 96 bits of a word and the instruction that
the spec's field table gives for it. -/
noncomputable def workedExamples : List (Nat × Instr) :=
  [(0x2140A0100718000026A00428, .fma ⟨10, 4, 7, 0x600000, ctl 0x13 5 0x002 1 2⟩),
   (0x004000000000000C02000000, .bra ⟨0, 0, 3, 0, ctl 0x01 0 0 0 0⟩),
   (0x1881404005100000DE800000, .lea ⟨20, 16, 5, 0x400003, ctl 0x0F 4 0 0 0⟩),
   (0x3000700C000B10421EA00000, .cvt ⟨7, 3, 0, 0x2C4108, ctl 0x0F 5 0 0 0⟩),
   (0x51808010024456041E600040, .ldg ⟨8, 4, 2, 0x1115810, ctl 0x0F 3 0 2 0⟩),
   (0x4000C010050410009EA00000, .dot4 ⟨12, 4, 5, 0x104002, ctl 0x0F 5 0 0 0⟩),
   (0x424040100B1208015E000000, .slide ⟨4, 4, 11, 0x482005, ctl 0x0F 0 0 0 0⟩),
   (0x634030200C2456001E000000, .qldg ⟨3, 8, 12, 0x915800, ctl 0x0F 0 0 0 0⟩),
   (0x70C020200C5140001E000060, .cpt ⟨2, 8, 12, 0x1450000, ctl 0x0F 0 0 3 0⟩),
   (0x80002010080124401E000028, .mma ⟨2, 4, 8, 0x49100, ctl 0x0F 0 0 1 2⟩),
   (0x90000020004F8C001E000080, .kldK ⟨0, 8, 0, 0x13E3000, ctl 0x0F 0 0 4 0⟩),
   (0xA000401802CF814202000040, .nmx ⟨4, 6, 2, 0x33E0508, ctl 0x01 0 0 2 0⟩),
   (0xAA803004020900001E000000, .zmul ⟨3, 1, 2, 0x240000, ctl 0x0F 0 0 0 0⟩),
   (0xB0803020004400805E000020, .stRel ⟨3, 8, 0, 0x1100201, ctl 0x0F 0 0 1 0⟩),
   (0xC1000050165400001E000020, .wbinv ⟨0, 20, 22, 0x1500000, ctl 0x0F 0 0 1 0⟩),
   (0xD08140780850040A1E000020, .matom ⟨20, 30, 8, 0x1401028, ctl 0x0F 0 0 1 0⟩),
   (0xE0004050004000001E000020, .launch ⟨4, 20, 0, 0x1000000, ctl 0x0F 0 0 1 0⟩),
   (0xF0C003E0004001F8DE000040, .ctxsv ⟨0, 248, 0, 0x10007E3, ctl 0x0F 0 0 2 0⟩)]

end Sys2Proof.Spec

/-! Decoding, the step, and what every word has in common. -/

/-- The worked examples of the spec decode to the instructions that their field tables give. -/
def Obligations.WorkedExamplesDecode : Prop := ∀ x ∈ workedExamples, decodeTableWord 96 x.1 = some x.2

/-- Decoding and encoding agree: a well-formed instruction of a stream has a word, and that word decodes in that stream to the
instruction, whatever its fields hold. -/
def Obligations.EncodedWordsDecodeBack : Prop :=
  ∀ (st : Stream) (i : Instr), wellFormed st i = true → ∃ x, encode i = some x ∧ decode st x = .ok i

/-- The other direction: what a stream decodes is well-formed there, and its encoding is the word it was read from, so that no bit
of a word is dropped and no two words of a stream are one instruction. -/
def Obligations.DecodedWordsEncodeBack : Prop :=
  ∀ (st : Stream) (x : BitVec 96) (i : Instr), decode st x = .ok i → wellFormed st i = true ∧ encode i = some x

/-- A step runs the next turn of the agenda. Where it is the issue of a stream of a core whose word decodes (and which is no
pair, and finds no timer event), the step is exec of that instruction, with the pages of the word entered in the core's
TLB; a stack core's word is read from its instruction memory; an event is exec of that event. -/
def Obligations.StepRunsDecodedInstruction : Prop :=
  (∀ (s : State) (a : Actor) (ts : List Turn) (e : Env) (x : BitVec 96) (i : Instr),
    let u : State := { s with agenda := ts }
    s.agenda = .issue a :: ts → siteOf u a = some e → ¬(e.st = .compute ∧ timerTaken e.wp u.clk e.handler = true) →
    e.fetch e.pc = .word x → decode e.st x = .ok i → ¬((ctlOf x).pair = true ∧ e.st = .compute) →
    step s = exec i ((u.at a).fillTlb e.c e.blk.asid (fetchPages e.pc))) ∧
  (∀ (s : State) (g k : Nat) (ts : List Turn) (i : Instr),
    let u : State := { s with agenda := ts }
    let x := s.sc g k
    s.agenda = .issue (.stackCore g k) :: ts → x.pc + 12 ≤ 32768 → decode .stack (wordOfBytes (x.imem.getBytes x.pc 12)) = .ok i →
    step s = exec i (u.at (.stackCore g k))) ∧
  (∀ (s : State) (i : Instr) (ts : List Turn), s.agenda = .event i :: ts →
    step s = exec i (({ s with agenda := ts } : State).at .outside))

/-- R388: no step goes on past an access to physical memory that does not exist. Where no such access is on record before a step,
none is on record in the state that the step leaves: an instruction that makes one ends in the fault instead. -/
def Obligations.NoStepPassesAMissingAddress : Prop := ∀ s t : State, s.bad = none → step s = .next t → t.bad = none

/-- The package right after reset has no such access on record, and no instruction has run: no core has a block, no stack core a
kernel, no context is live, and READY is clear (R405). PWRCAP is 5,600 W, TTBASE and TTLEN are 0 (R404). -/
def Obligations.ResetState : Prop :=
  let s := State.reset
  s.bad = none ∧ s.agenda = [] ∧ s.ready = 0 ∧ s.host0.pwrcap = 5600 ∧ s.host0.ttbase = 0 ∧ s.host0.ttlen = 0 ∧ s.host0.ppscnt = 0 ∧
    (∀ c, (s.core c).block = none) ∧ (∀ g k, (s.sc g k).job = .idle) ∧ (∀ n, (s.ctx n).live = false) ∧ Memory.wf s = true

/-- R53 and R54: a legal pair that may issue, of which neither word traps, issues as one unit: both words in one step, the second
on what the first leaves. R360: a word of a core's streams that is not issuable does nothing at all, whichever of the instructions
it is; nor does a word of a stack core that may not issue (R59). R55, R363 and R364: an issuable word that finds one of the common
traps takes it instead of any effect: one of ranks 2 to 5 whichever of the instructions it is, one that the state decides where
the entry of the instruction adds no condition of its own to R360. Outside a halt and outside the handler the halt begins with
this clock, at this word, with the lanes done so far where the word is being retried; a trap without a storage error behind it
changes nothing else. In a stack core a common trap ends the command or kernel with its status, at this word (R266). What issuing
a word of fixed latency changes (R46 to R50, R56): its stream stands at the next word, at least STALL + 1 clocks later; its
counter rises by one; each forward queue that it names is popped once; its results wait to land. No register and no byte of memory
changes yet, and nothing of the rest of the package. -/
def Obligations.IssueRules : Prop :=
  (∀ (e : Env) (i j : Instr) (f g : Fn) (t u : State),
    fnOf i = some f → fnOf j = some g → legalPair f g (bodyOf i) (bodyOf j) = true → e.issuable = true →
    e.pairReady (ctlOfBody (bodyOf j)) = true →
    exec i { e.s with pairing := true } = .next t → t.raised = none →
    exec j { t with pairing := true, second := true } = .next u → u.raised = none →
    issuePair e i j = .next u) ∧
  ((∀ (i : Instr) (s : State) (f : Fn) (e : Env), fnOf i = some f → envOf s f (bodyOf i) = some e → e.issuable = false →
    exec i s = .next s) ∧
  (∀ (i : Instr) (s : State) (f : Fn) (e : SEnv), fnOf i = some f → senvOf s f (bodyOf i) = some e → e.issuable = false →
    exec i s = .next s)) ∧
  ((∀ (i : Instr) (s : State) (f : Fn) (e : Env) (r : Nat) (x : Trap), fnOf i = some f → envOf s f (bodyOf i) = some e →
    e.issuable = true → s.bad = none → e.formTrap = some (r, x) ∨ (f ∉ ownCondition ∧ e.trap = some (r, x)) →
    exec i s = .next (e.raise s r x)) ∧
  (∀ (s : State) (f : Fn) (b : Body) (e : Env) (r : Nat) (x : Trap), envOf s f b = some e → x.cause ≠ .dataError →
    e.handler = false → e.k.halt = none →
    e.raise s r x = ({ s with raised := some ⟨r, x⟩ } : State).onCore e.c (fun k =>
      { k with halt := some { found := s.clk, party := e.party, slot := e.slot, pair2 := s.second, pc := e.pc,
                              trap := k.retryDone e.party e.slot e.pc x },
               haltclk := s.clk })) ∧
  (∀ (i : Instr) (s : State) (f : Fn) (e : SEnv) (st : Nat), fnOf i = some f → validIn .stack f = true →
    senvOf s f (bodyOf i) = some e → e.issuable = true → e.trap = some st → s.bad = none →
    exec i s = .next (s.setSc e.g e.k (endedAt e.sc e.sc.pc st 0)))) ∧
  (∀ (i : Instr) (s : State) (e : Env) (lat : Nat) (wrs : List Wr), Site i s e →
    let t := e.retire e.issued lat wrs
    let k := t.core e.c
    (∃ n, envOf t e.fn e.body = some n ∧ n.pc = e.pc + 12 ∧ n.ready = s.clk + 1 + e.ctl.stall.toNat) ∧
    (e.ctl.setf.toNat ≠ 0 → (k.flags e.party).get e.ctl.setf.toNat 0 = ((s.core e.c).flags e.party).get e.ctl.setf.toNat 0 + 1) ∧
    k.pends = (s.core e.c).pends ++ [{ due := s.clk + lat, party := e.party, flag := e.ctl.setf.toNat, wrs }] ∧
    (e.st = .compute → ∀ q ∈ wordQueues e.fn e.body, (k.warp e.w).queue q = ((s.core e.c).warp e.w |>.queue q).pop) ∧
    sameRegisters s t ∧ sameBytes s t ∧ sameChip s t)

/-! Class CTL. -/

namespace Sys2Proof.Spec

open Sys2Proof.Machine

/-- A predicate's bit in a lane, negated by its NEG bit (R98). -/
def predBit (e : Env) (i : Nat) (neg : Bool) (l : Nat) : Bool := xor ((e.wp.pred i).getLsbD l) neg

/-- The five predicate instructions of R99. -/
def predForms : List ((RWord → Instr) × (Bool → Bool → Bool)) :=
  [(.pand, fun a b => a && b), (.por, fun a b => a || b), (.pxor, fun a b => xor a b), (.pnot, fun a _ => !a), (.pmov, fun a _ => a)]

/-- The first clock at which the target of a taken branch may issue (R46, R50: class BRANCH reaches it at t + 4). -/
def landsAt (e : Env) : Nat := max (e.clk + 1 + e.ctl.stall.toNat) (e.clk + 4)

/-- The issuing split, or the handler split, goes on at `pc` from clock `ready` with all of its lanes and the return stack `rs`, and
no register and no byte of memory changes. -/
def goesOn (s : State) (e : Env) (t : State) (pc : Word64) (ready : Nat) (rs : List Word64) : Prop :=
  (∃ n, envOf t e.fn e.body = some n ∧ n.pc = pc ∧ n.ready = ready ∧ n.rets = rs ∧ n.m = e.m ∧ n.exec = e.exec) ∧
    sameRegisters s t ∧ sameBytes s t ∧ sameChip s t

/-- The target of a direct branch (R102). -/
def target (pc : Word64) (imm : BitVec 32) : Word64 := BitVec.ofInt 64 ((pc.toNat : Int) + 12 * imm.toInt)

end Sys2Proof.Spec

/-- R98 to R100: the predicate instructions write, in the active lanes, the bit that they compute from the predicates named (PT
reads 1), each negated by its NEG bit; P2V writes 1 or 0 under tag I32, V2P tests a lane for zero, and VOTE counts the active
lanes. All have latency 4. R101: PUSHP, INVP and POPP act on every lane of the issuing split, whatever its enable bits, and on
no other lane; the depth of the split rises or falls, and the stream stands at the next word. A full or an empty stack traps
instead, and in handler mode the three are ILLEGAL_FORM (R366). -/
def Obligations.PredicateWords : Prop :=
  ((∀ f ∈ predForms, ∀ (w : RWord) (s : State) (e : Env), Acts (f.1 w) s e →
    exec (f.1 w) s = after e 4 [.p e.w w.d.toNat e.act (maskOf 64 e.width (fun l =>
      f.2 (predBit e w.a.toNat (w.mb 21) l) (predBit e w.b.toNat (w.mb 20) l)))]) ∧
  (∀ (w : RWord) (s : State) (e : Env), Acts (.p2v w) s e →
    exec (.p2v w) s = after e 4 (e.vecWr false w.d.toNat 1 (fun l => if predBit e w.a.toNat (w.mb 21) l then 1 else 0))) ∧
  (∀ (w : RWord) (s : State) (e : Env), Acts (.v2p w) s e → e.badCheck = none →
    exec (.v2p w) s = after e 4 [.p e.w w.d.toNat e.act (maskOf 64 e.width (fun l => decide (e.srcA false l ≠ 0)))]) ∧
  (∀ (w : RWord) (s : State) (e : Env), Acts (.vote w) s e →
    let bal : Lanes := e.act &&& maskOf 64 64 (predBit e w.a.toNat (w.mb 21))
    let all (b : Bool) : List Wr := [.p e.w w.d.toNat e.act (maskOf 64 e.width (fun _ => b))]
    exec (.vote w) s = after e 4 (match w.fld 1 0 with
      | 0 => all (bal != 0)
      | 1 => all (bal == e.act)
      | 2 => all (bal == 0 || bal == e.act)
      | _ => [.s e.w w.d.toNat (bal.setWidth 32), .s e.w (w.d.toNat + 1) ((bal >>> 32).setWidth 32)]))) ∧
  (∀ (i : Instr) (w : RWord) (s : State) (e : Env), i = .pushp w ∨ i = .invp w ∨ i = .popp w → Site i s e →
    let x := (s.core e.c).warp e.w
    let d := e.depth
    (e.handler = true → exec i s = .next (e.raise s 7 (plain .illegalForm))) ∧
    (e.handler = false → i = .pushp w → 16 ≤ d → exec i s = .next (e.raise s 7 (plain .pstackOverflow))) ∧
    (e.handler = false → i ≠ .pushp w → d = 0 → exec i s = .next (e.raise s 7 (plain .pstackEmpty))) ∧
    (e.handler = false → (i = .pushp w → d < 16) → (i ≠ .pushp w → d ≠ 0) →
      ∃ t, exec i s = .next t ∧ (
        let y := (t.core e.c).warp e.w
        (∃ n, envOf t e.fn e.body = some n ∧ n.pc = e.pc + 12 ∧
          n.depth = if i = .pushp w then d + 1 else if i = .popp w then d - 1 else d) ∧
        (∀ l < 64, e.m.getLsbD l = true →
          (i = .pushp w → (y.pstack.get d 0).getLsbD l = x.en.getLsbD l ∧
            y.en.getLsbD l = (x.en.getLsbD l && predBit e w.a.toNat (w.mb 21) l)) ∧
          (i = .invp w → y.en.getLsbD l = ((x.pstack.get (d - 1) 0).getLsbD l && !x.en.getLsbD l)) ∧
          (i = .popp w → y.en.getLsbD l = (x.pstack.get (d - 1) 0).getLsbD l)) ∧
        (∀ l < 64, e.m.getLsbD l = false → y.en.getLsbD l = x.en.getLsbD l ∧
          ∀ j, (y.pstack.get j 0).getLsbD l = (x.pstack.get j 0).getLsbD l) ∧
        (∀ j, i = .pushp w ∧ j = d ∨ y.pstack.get j 0 = x.pstack.get j 0) ∧
        sameWarp { x with en := y.en, pstack := y.pstack } y ∧ sameBytes s t ∧ sameChip s t)))

/-- R103, R107, R112: BRA, CALL, RET, BRX and CALLX of a split all of whose enabled lanes are active (or of the handler) move it to
their target with its lanes: BRA and CALL to pc + 12 × IMM32, RET to the top of its return stack, BRX and CALLX to the target
that their table gives. CALL and CALLX push pc + 12, RET pops. CALL_DEPTH and RET_EMPTY trap instead. BRX and CALLX do not issue
while they wait for a page of the table or of the target that is MIGRATING (R395). R107: where the target of an indirect branch
comes from. A table that is aligned and readable, whose header has a zero high half and more entries than the
index, gives base + 12 × its entry; the word that stands there must be a landing NOP, unless it cannot be fetched (the fetch
then faults there). Otherwise the branch traps with the table's address and the index. -/
def Obligations.WholeSplitTransfers : Prop :=
  ((∀ (w : IWord) (s : State) (e : Env), Acts (.bra w) s e → e.handler = true ∨ e.exec = e.act →
    ∃ t, exec (.bra w) s = .next t ∧ goesOn s e t (target e.pc w.imm) (landsAt e) e.rets) ∧
  (∀ (w : IWord) (s : State) (e : Env), Acts (.call w) s e → e.handler = true ∨ e.exec = e.act →
    (e.retLimit ≤ e.rets.length → exec (.call w) s = .next (e.raise s 7 (plain .callDepth))) ∧
    (e.rets.length < e.retLimit →
      ∃ t, exec (.call w) s = .next t ∧ goesOn s e t (target e.pc w.imm) (landsAt e) ((e.pc + 12) :: e.rets))) ∧
  (∀ (w : RWord) (s : State) (e : Env), Acts (.ret w) s e → e.handler = true ∨ e.exec = e.act →
    (e.rets = [] → exec (.ret w) s = .next (e.raise s 7 (plain .retEmpty))) ∧
    (∀ a rs, e.rets = a :: rs → ∃ t, exec (.ret w) s = .next t ∧ goesOn s e t a (landsAt e) rs)) ∧
  (∀ (w : RWord) (s : State) (e : Env), Acts (.brx w) s e → e.handler = true ∨ e.exec = e.act →
    (e.codeReady = false → exec (.brx w) s = .next s) ∧
    (e.codeReady = true → ∀ x, e.indirect = .error x → exec (.brx w) s = .next (e.raise s 7 x)) ∧
    (e.codeReady = true → ∀ a, e.indirect = .ok a → ∃ t, exec (.brx w) s = .next t ∧ goesOn s e t a (landsAt e) e.rets)) ∧
  (∀ (w : RWord) (s : State) (e : Env), Acts (.callx w) s e → e.handler = true ∨ e.exec = e.act →
    (e.codeReady = false → exec (.callx w) s = .next s) ∧
    (e.codeReady = true → ∀ x, e.indirect = .error x → exec (.callx w) s = .next (e.raise s 7 x)) ∧
    (e.codeReady = true → ∀ a, e.indirect = .ok a → e.retLimit ≤ e.rets.length →
      exec (.callx w) s = .next (e.raise s 7 (plain .callDepth))) ∧
    (e.codeReady = true → ∀ a, e.indirect = .ok a → e.rets.length < e.retLimit →
      ∃ t, exec (.callx w) s = .next t ∧ goesOn s e t a (landsAt e) ((e.pc + 12) :: e.rets)))) ∧
  (∀ (e : Env) (hd off : Nat),
    let i := e.srcA false 0
    let b := e.srcB true 0
    (b % 4 ≠ 0 → e.indirect = .error (tableTrap .targetFault b i)) ∧
    (b % 4 = 0 → e.tableWord b = none → e.indirect = .error (tableTrap .targetFault b i)) ∧
    (b % 4 = 0 → e.tableWord b = some hd → 2 ^ 16 ≤ hd ∨ hd % 2 ^ 16 ≤ i → e.indirect = .error (tableTrap .targetRange b i)) ∧
    (b % 4 = 0 → e.tableWord b = some hd → hd < 2 ^ 16 → i < hd →
      (e.tableWord (b + 4 + 4 * i) = none → e.indirect = .error (tableTrap .targetFault b i)) ∧
      (e.tableWord (b + 4 + 4 * i) = some off →
        let a := target (BitVec.ofNat 64 b) (BitVec.ofNat 32 off)
        (∀ bs, e.codeAt a = some bs →
          e.indirect = if isLanding (wordOfBytes bs) then .ok a else .error (tableTrap .targetLand b i)) ∧
        (e.codeAt a = none → e.indirect = .ok a))))

/-- R103 and R105: a BRA of which some enabled lanes are not active divides its split where the deferral stack is empty and a slot
is free: the active lanes go to the target in the old slot, the others to the next word in the lowest free slot. Else the split
serialises: the others wait on its deferral stack; a stack of four entries raises SPLIT_OVERFLOW. R104, R108 and R109: BRU moves
the whole split when it is taken (ANY: a lane is active; ALL: every enabled lane is); LOOP lowers its counter, which lands at t
+ 4, and moves the split unless the counter becomes 0; NOP and YIELD go on to the next word, YIELD not before clock t + 1 +
max(STALL, n). R106 and R110: at a MERGE with nothing deferred the split waits; a pending path on top of its deferral
stack runs next and the lanes that came wait in its place; a parked path that stands at this MERGE at the same depth joins.
MERGE_STEP releases a warp whose one split waits. EXIT ends the active lanes: a split none of whose lanes remains ends, and with
the last lane of a warp without an access stream the warp ends. Both are ILLEGAL_FORM in the handler (R366). -/
def Obligations.SplitsDivideMergeAndEnd : Prop :=
  (∀ (w : IWord) (s : State) (e : Env) (p : Split), Acts (.bra w) s e → e.handler = false → e.exec ≠ e.act →
    e.st = .compute → e.wp.splits.find e.slot = some p →
    let aim := target e.pc w.imm
    let rest := p.m &&& ~~~e.act
    (∀ j, p.defer = [] → e.wp.splits.firstFree 0 4 = some j →
      ∃ t, exec (.bra w) s = .next t ∧ sameRegisters s t ∧ sameBytes s t ∧ sameChip s t ∧
        (∃ a b, ((t.core e.c).warp e.w).splits.find e.slot = some a ∧ ((t.core e.c).warp e.w).splits.find j = some b ∧
          a.pc = aim ∧ a.m = e.act ∧ a.rets = p.rets ∧ a.depth = p.depth ∧ a.ready = landsAt e ∧ a.defer = [] ∧
          b.pc = e.pc + 12 ∧ b.m = rest ∧ b.rets = p.rets ∧ b.depth = p.depth ∧
          b.ready = s.clk + 1 + e.ctl.stall.toNat ∧ b.defer = [])) ∧
    (p.defer ≠ [] ∨ e.wp.splits.firstFree 0 4 = none → p.defer.length < 4 →
      ∃ t a, exec (.bra w) s = .next t ∧ sameRegisters s t ∧ sameBytes s t ∧ sameChip s t ∧
        ((t.core e.c).warp e.w).splits.find e.slot = some a ∧ a.pc = aim ∧ a.m = e.act ∧ a.rets = p.rets ∧ a.ready = landsAt e ∧
        a.defer = { parked := false, lanes := rest, pc := e.pc + 12, depth := p.depth } :: p.defer) ∧
    (4 ≤ p.defer.length → exec (.bra w) s = .next (e.raise s 7 (plain .splitOverflow)))) ∧
  ((∀ (w : IWord) (s : State) (e : Env), Site (.bru w) s e →
    let taken := if w.modi = 0 then decide (e.act ≠ 0) else decide (e.exec = e.act)
    ∃ t, exec (.bru w) s = .next t ∧
      if taken then goesOn s e t (target e.pc w.imm) (landsAt e) e.rets
      else goesOn s e t (e.pc + 12) (e.clk + 1 + e.ctl.stall.toNat) e.rets) ∧
  (∀ (w : IWord) (s : State) (e : Env), Acts (.loop w) s e →
    let v := ((s.core e.c).warp e.w).s.get w.a.toNat 0 - 1
    ∃ t, exec (.loop w) s = .next t ∧
      (∃ x ∈ (t.core e.c).pends, x.due = e.clk + 4 ∧ x.wrs = [.s e.w w.a.toNat v]) ∧
      if v = 0 then goesOn s e t (e.pc + 12) (e.clk + 1 + e.ctl.stall.toNat) e.rets
      else goesOn s e t (target e.pc w.imm) (landsAt e) e.rets) ∧
  (∀ (w : RWord) (s : State) (e : Env), Site (.nop w) s e → exec (.nop w) s = after e 1 []) ∧
  (∀ (w : RWord) (s : State) (e : Env), Acts (.yield w) s e →
    ∃ t, exec (.yield w) s = .next t ∧
      goesOn s e t (e.pc + 12) (e.clk + 1 + max e.ctl.stall.toNat (w.mod.toNat % 256)) e.rets)) ∧
  ((∀ (w : RWord) (s : State) (e : Env), Site (.merge w) s e → e.handler = true →
    exec (.merge w) s = .next (e.raise s 7 (plain .illegalForm))) ∧
  (∀ (w : RWord) (s : State) (e : Env), Site (.exit w) s e → e.handler = true →
    exec (.exit w) s = .next (e.raise s 7 (plain .illegalForm))) ∧
  (∀ (w : RWord) (s : State) (e : Env) (p : Split), Site (.merge w) s e → e.handler = false → e.st = .compute →
    e.wp.splits.find e.slot = some p →
    ∃ t a, exec (.merge w) s = .next t ∧ ((t.core e.c).warp e.w).splits.find e.slot = some a ∧
      sameRegisters s t ∧ sameBytes s t ∧ sameChip s t ∧
      (p.defer = [] → a.waiting = true ∧ a.pc = e.pc ∧ a.m = p.m ∧ a.defer = []) ∧
      (∀ d ds, p.defer = d :: ds → d.parked = false → a.waiting = p.waiting ∧ a.pc = d.pc ∧ a.m = d.lanes ∧ a.depth = d.depth ∧
        a.defer = { parked := true, lanes := p.m, pc := e.pc, depth := p.depth } :: ds) ∧
      (∀ d, p.defer = [d] → d.parked = true → d.pc = e.pc → d.depth = p.depth →
        a.waiting = true ∧ a.pc = e.pc ∧ a.m = p.m ||| d.lanes ∧ a.defer = [])) ∧
  (∀ (c v n : Nat) (p : Split) (s : State), s.bad = none → ((s.core c).warp v).splits = [(n, p)] → p.waiting = true →
    ∃ t, exec (.mergeStep c v) s = .next t ∧
      ((t.core c).warp v).splits.find n = some { p with waiting := false, pc := p.pc + 12 } ∧
      sameRegisters s t ∧ sameBytes s t ∧ sameChip s t) ∧
  (∀ (w : RWord) (s : State) (e : Env) (p : Split), Acts (.exit w) s e → e.handler = false → e.st = .compute →
    e.wp.splits.find e.slot = some p → p.defer = [] → e.wp.pendings = [] → e.k.tagerr = 0 →
    ∃ t, exec (.exit w) s = .next t ∧ sameBytes s t ∧ sameChip s t ∧ (
      let x := (s.core e.c).warp e.w
      let y := (t.core e.c).warp e.w
      y.live = x.live &&& ~~~e.act ∧ sameWarp { x with live := y.live } y ∧
      (p.m &&& ~~~e.act ≠ 0 → ∃ a, y.splits.find e.slot = some a ∧ a.m = p.m &&& ~~~e.act ∧ a.pc = e.pc + 12) ∧
      (p.m &&& ~~~e.act = 0 → y.splits.find e.slot = none) ∧
      (y.live = 0 → e.kernel.hasAccess e.w = false → y.ended = true))))

/-! Class INT. -/

/-- R117 in a compute stream: each of the nine arithmetic instructions issues, and in every active lane its result is the exact
integer result, wrapped, or clamped under SAT with FLAGS.SAT set when a clamp changes the value; its latency is that of
R116, its tag that of TYPE. The sources are not poisoned (R375). -/
def Obligations.IntegerArithmeticIsExact : Prop :=
  ∀ f ∈ arithForms, ∀ (w : RWord) (s : State) (e : Env), Acts (f.form w) s e → e.badCheck = none →
    let g := wide w.ty
    let r (l : Nat) : Nat × Bool := f.op w.ty (w.mb 14) (e.srcA g l) (e.srcB g l) (e.srcD g l)
    exec (f.form w) s = after e (intLatency f.mul w.ty)
      (e.vecWr g w.d.toNat (tagOf w.ty) (fun l => (r l).1) ++ satFlag e (fun l => (r l).2))

/-- R118, R119 and R122 in a compute stream: the logic, shift, rotate, select and move instructions, as operations on bit vectors.
AND, OR, XOR, NOT and ROT write tag RAW, the others the tag of TYPE; no flag is raised. R120 in a compute stream: POPC, CLZ, CTZ,
BREV, BFE and BFI, the high half of a field descriptor ignored. R44 in a compute stream: the I-forms of class INT, B being IMM32
extended by TYPE, or the count of a shift. R119, R121 and R123 in a compute stream: ICMP and ICMP# write the condition on the
exact integers into the active lanes of the predicate D[3:0]; LEA and LEA# write the 64-bit sum of A and the extended, scaled
index under tag I64; VREAD copies lane B mod W of V[A] to S registers, whatever its mask bit, unless that lane is poisoned; VWRITE
writes that one lane of V[D]. R124: the uniform instructions compute once for the warp, with an active lane, at latency 3; a
saturating one sets FLAGS.SAT. SCMP writes 1 or 0 to one S register, whatever the width of TYPE. -/
def Obligations.IntegerLogicAddressAndUniformWords : Prop :=
  (∀ f ∈ logicForms, ∀ (w : RWord) (s : State) (e : Env), Acts (f.form w) s e → e.badCheck = none →
    let g := wide w.ty
    exec (f.form w) s = after e 4 (e.vecWr g w.d.toNat (resultTag f.raw w.ty)
      (fun l => (f.op w.ty false (e.srcA g l) (e.srcB (g && !f.count) l) (e.srcD g l)).1))) ∧
  (∀ f ∈ bitForms, ∀ (w : RWord) (s : State) (e : Env), Acts (f.form w) s e → intBad e.fn e = none →
    let g := wide w.ty
    exec (f.form w) s = after e 4 (e.vecWr g w.d.toNat (resultTag f.raw w.ty)
      (fun l => (f.op w.ty false (e.srcA g l) (e.srcB (g && !f.count) l) (e.srcD g l)).1))) ∧
  (∀ f ∈ immForms, ∀ (w : IWord) (s : State) (e : Env), Acts (f.form w) s e → e.badCheck = none →
    let ty := w.modi.toNat
    let g := wide ty
    let b := if f.count then w.imm.toNat else imm ty w.imm
    exec (f.form w) s = after e (intLatency f.mul ty) (e.vecWr g w.d.toNat (resultTag f.raw ty)
      (fun l => (f.op ty false (e.wp.lane g w.a.toNat l) b 0).1))) ∧
  ((∀ (w : RWord) (s : State) (e : Env), Acts (.icmp w) s e → e.badCheck = none →
    exec (.icmp w) s = after e 4 [.p e.w (w.d.toNat % 16) e.act (maskOf 64 e.width (fun l =>
      intHolds (w.d.toNat / 16 % 8) (val w.ty (e.srcA (wide w.ty) l)) (val w.ty (e.srcB (wide w.ty) l))))]) ∧
  (∀ (w : IWord) (s : State) (e : Env), Acts (.icmpImm w) s e → e.badCheck = none →
    let ty := w.modi.toNat
    exec (.icmpImm w) s = after e 4 [.p e.w (w.d.toNat % 16) e.act (maskOf 64 e.width (fun l =>
      intHolds (w.d.toNat / 16 % 8) (val ty (e.wp.lane (wide ty) w.a.toNat l)) (val ty (imm ty w.imm))))]) ∧
  (∀ (w : RWord) (s : State) (e : Env), Acts (.lea w) s e → e.badCheck = none →
    let ext (b : Nat) : BitVec 64 := if w.ty = 0 then (BitVec.ofNat 32 b).signExtend 64
      else if w.ty = 1 then (BitVec.ofNat 32 b).setWidth 64 else BitVec.ofNat 64 b
    exec (.lea w) s = after e 4 (e.vecWr true w.d.toNat 5 (fun l =>
      (BitVec.ofNat 64 (e.srcA true l) + (ext (e.srcB (wide w.ty) l) <<< w.fld 2 0)).toNat))) ∧
  (∀ (w : IWord) (s : State) (e : Env), Acts (.leaImm w) s e → e.badCheck = none →
    let x : BitVec 64 := if w.modi.toNat = 0 ∨ w.modi.toNat = 6 then w.imm.signExtend 64 else w.imm.setWidth 64
    exec (.leaImm w) s = after e 4 (e.vecWr true w.d.toNat 5 (fun l =>
      (BitVec.ofNat 64 (e.wp.lane true w.a.toNat l) + x).toNat))) ∧
  (∀ (w : RWord) (s : State) (e : Env), Acts (.vread w) s e →
    let l := e.srcB false 0 % e.width
    badTrap (BitVec.ofNat 64 (2 ^ l)) 3 e.sourcesA = none →
    exec (.vread w) s = after e 3 (e.uniWr (wide w.ty) w.d.toNat (e.wp.lane (wide w.ty) w.a.toNat l))) ∧
  (∀ (w : RWord) (s : State) (e : Env), Acts (.vwrite w) s e →
    let l := e.srcB false 0 % e.width
    let x := e.srcA (wide w.ty) 0
    exec (.vwrite w) s = after e 4 ([Wr.v e.w w.d.toNat [(l, BitVec.ofNat 32 x)] (tagOf w.ty)] ++
      if wide w.ty then [.v e.w (w.d.toNat + 1) [(l, BitVec.ofNat 32 (x / 2 ^ 32))] (tagOf w.ty)] else []))) ∧
  ((∀ f ∈ uniformForms, ∀ (w : RWord) (s : State) (e : Env), Acts (f.form w) s e →
    let g := wide w.ty
    let r := f.op w.ty (w.mb 14) (e.srcA g 0) (e.srcB (g && !f.count) 0) (e.wp.sreg g w.d.toNat)
    exec (f.form w) s = after e 3 (e.uniWr g w.d.toNat r.1 ++ if r.2 then [.flagsOr e.w 0x20] else [])) ∧
  (∀ f ∈ uniformImmForms, ∀ (w : IWord) (s : State) (e : Env), Acts (f.form w) s e →
    let ty := w.modi.toNat
    exec (f.form w) s = after e 3 (e.uniWr (wide ty) w.d.toNat
      (f.op ty false (e.wp.sreg (wide ty) w.a.toNat) (imm ty w.imm) 0).1)) ∧
  (∀ (w : RWord) (s : State) (e : Env), Acts (.scmp w) s e →
    let g := wide w.ty
    exec (.scmp w) s = after e 3 [.s e.w w.d.toNat
      (if intHolds (w.fld 2 0) (val w.ty (e.srcA g 0)) (val w.ty (e.srcB g 0)) then 1 else 0)]))

/-- R112 and R45 on a stack core: BRA, BRU, CALL, RET, LOOP, EXIT and NOP with a true guard. A taken branch reaches its target at
t + 4 or later; the return stack holds 16 addresses; EXIT ends the command or kernel with status 0. A false guard only steps to
the next word. R125: on a stack core the integer instructions act on X registers, one 64-bit lane each. A 32-bit result is
extended by its type's sign; SAT sets bit 9 of the flags register; ICMP writes the condition bit D[3:0]. The word's results land
with it, and nothing of the package changes but its own stack core. -/
def Obligations.ControlAndIntegerWordsOnStackCores : Prop :=
  ((∀ (w : IWord) (s : State) (e : SEnv), StackActs (.bra w) s e →
    exec (.bra w) s = .next (s.setSc e.g e.k { e.issued with
      pc := (target (BitVec.ofNat 64 e.sc.pc) w.imm).toNat, ready := max e.issued.ready (s.sclk + 4) })) ∧
  (∀ (w : IWord) (s : State) (e : SEnv), StackActs (.bru w) s e →
    exec (.bru w) s = .next (s.setSc e.g e.k { e.issued with
      pc := (target (BitVec.ofNat 64 e.sc.pc) w.imm).toNat, ready := max e.issued.ready (s.sclk + 4) })) ∧
  (∀ (w : IWord) (s : State) (e : SEnv), StackActs (.call w) s e → e.sc.rets.length < 16 →
    exec (.call w) s = .next (s.setSc e.g e.k { e.issued with
      pc := (target (BitVec.ofNat 64 e.sc.pc) w.imm).toNat, rets := (e.sc.pc + 12) :: e.sc.rets,
      ready := max e.issued.ready (s.sclk + 4) })) ∧
  (∀ (w : RWord) (s : State) (e : SEnv) (a : Nat) (rs : List Nat), StackActs (.ret w) s e → e.sc.rets = a :: rs →
    exec (.ret w) s = .next (s.setSc e.g e.k { e.issued with
      pc := a, rets := rs, ready := max e.issued.ready (s.sclk + 4) })) ∧
  (∀ (w : IWord) (s : State) (e : SEnv), StackActs (.loop w) s e →
    let v := e.sc.xreg w.a.toNat - 1
    let x := e.issued.setX w.a.toNat v
    exec (.loop w) s = .next (s.setSc e.g e.k (if v = 0 then x else { x with
      pc := (target (BitVec.ofNat 64 e.sc.pc) w.imm).toNat, ready := max x.ready (s.sclk + 4) }))) ∧
  (∀ (w : RWord) (s : State) (e : SEnv), StackActs (.exit w) s e →
    exec (.exit w) s = .next (s.setSc e.g e.k (endedAt e.issued e.sc.pc 0 0))) ∧
  (∀ (w : RWord) (s : State) (e : SEnv), StackActs (.nop w) s e → exec (.nop w) s = .next (s.setSc e.g e.k e.issued)) ∧
  (∀ (i : Instr) (s : State) (f : Fn) (e : SEnv), fnOf i = some f → validIn .stack f = true →
    senvOf s f (bodyOf i) = some e → e.issuable = true → e.trap = none → e.act = false → s.bad = none →
    exec i s = .next (s.setSc e.g e.k e.issued))) ∧
  ((∀ f ∈ arithForms ++ logicForms ++ bitForms, ∀ (w : RWord) (s : State) (e : SEnv), StackActs (f.form w) s e →
    let r := f.op w.ty (w.mb 14) (e.src w.asel w.a.toNat) (e.src w.bsel w.b.toNat) (e.sc.xreg w.d.toNat).toNat
    let x := e.issued.setX w.d.toNat (xValue w.ty r.1)
    exec (f.form w) s = .next (s.setSc e.g e.k (if r.2 then { x with sflags := x.sflags ||| 0x200 } else x))) ∧
  (∀ f ∈ immForms, ∀ (w : IWord) (s : State) (e : SEnv), StackActs (f.form w) s e →
    let ty := w.modi.toNat
    let b := if f.count then w.imm.toNat else imm ty w.imm
    exec (f.form w) s = .next (s.setSc e.g e.k
      (e.issued.setX w.d.toNat (xValue ty (f.op ty false (e.sc.xreg w.a.toNat).toNat b 0).1)))) ∧
  (∀ (w : RWord) (s : State) (e : SEnv), StackActs (.icmp w) s e →
    exec (.icmp w) s = .next (s.setSc e.g e.k (setCond e.issued (w.d.toNat % 16)
      (intHolds (w.d.toNat / 16 % 8) (val w.ty (e.src w.asel w.a.toNat)) (val w.ty (e.src w.bsel w.b.toNat)))))) ∧
  (∀ (w : IWord) (s : State) (e : SEnv), StackActs (.icmpImm w) s e →
    let ty := w.modi.toNat
    exec (.icmpImm w) s = .next (s.setSc e.g e.k (setCond e.issued (w.d.toNat % 16)
      (intHolds (w.d.toNat / 16 % 8) (val ty (e.sc.xreg w.a.toNat).toNat) (val ty (imm ty w.imm)))))) ∧
  (∀ (w : RWord) (s : State) (e : SEnv), StackActs (.lea w) s e →
    let b := e.src w.bsel w.b.toNat
    let ext : BitVec 64 := if w.ty = 0 then (BitVec.ofNat 32 b).signExtend 64
      else if w.ty = 1 then (BitVec.ofNat 32 b).setWidth 64 else BitVec.ofNat 64 b
    exec (.lea w) s = .next (s.setSc e.g e.k
      (e.issued.setX w.d.toNat (BitVec.ofNat 64 (e.src w.asel w.a.toNat) + (ext <<< w.fld 2 0))))) ∧
  (∀ (w : IWord) (s : State) (e : SEnv), StackActs (.leaImm w) s e →
    let x : BitVec 64 := if w.modi.toNat = 0 ∨ w.modi.toNat = 6 then w.imm.signExtend 64 else w.imm.setWidth 64
    exec (.leaImm w) s = .next (s.setSc e.g e.k (e.issued.setX w.d.toNat (e.sc.xreg w.a.toNat + x)))))

/-! Classes FLT, CVT, PKX and the cross-lane instructions. -/

namespace Sys2Proof.Spec

open Sys2Proof.Machine

/-- What one element of a float or packed word is: from the elements of A, B and old D, the result and its flags. -/
abbrev ElementFn := Nat → Nat → Nat → Nat × Nat

/-- A 32-bit lane and its flags, element by element of TYPE (R71): the elements of the result are those that `op` gives, and a flag is
raised when an element raises it. -/
def elementwise (ty : Nat) (op : ElementFn) (a b d : Nat) (r : Nat × Nat) : Prop :=
  let x (i : Nat) := op (elem (tyWidth ty) a i) (elem (tyWidth ty) b i) (elem (tyWidth ty) d i)
  (∀ i < perLane ty, elem (tyWidth ty) r.1 i = (x i).1 % 2 ^ tyWidth ty) ∧ r.1 < 2 ^ (tyWidth ty * perLane ty) ∧
    ∀ k, r.2.testBit k = (List.range (perLane ty)).any (fun i => (x i).2.testBit k)

/-- The R-form float words of one element function (R131 to R134): latency and function, by the word. -/
structure FloatForm where
  form : RWord → Instr
  lat : Nat
  op : RWord → ElementFn

/-- FADD, FSUB, FMUL and FMA round the exact result once, by RND and SAT; FMIN and FMAX choose an operand by PROP; FABS clears and FNEG
inverts the sign bit. -/
def floatForms : List FloatForm :=
  [⟨.fadd, 6, fun w a b _ => addF (fmtOf w.ty) (rmode (w.fld 17 16)) (w.mb 14) a b⟩,
   ⟨.fsub, 6, fun w a b _ => subF (fmtOf w.ty) (rmode (w.fld 17 16)) (w.mb 14) a b⟩,
   ⟨.fmul, 6, fun w a b _ => mulF (fmtOf w.ty) (rmode (w.fld 17 16)) (w.mb 14) a b⟩,
   ⟨.fma, 6, fun w a b d => fmaF (fmtOf w.ty) (rmode (w.fld 17 16)) (w.mb 14) a b d⟩,
   ⟨.fmin, 4, fun w a b _ => minMaxF (fmtOf w.ty) false (w.mb 0) a b⟩,
   ⟨.fmax, 4, fun w a b _ => minMaxF (fmtOf w.ty) true (w.mb 0) a b⟩,
   ⟨.fabs, 4, fun w a _ _ => (a % 2 ^ (tyWidth w.ty - 1), 0)⟩,
   ⟨.fneg, 4, fun w a _ _ => (a ^^^ 2 ^ (tyWidth w.ty - 1), 0)⟩,
   ⟨.exp2, 18, fun w a _ _ => exp2F (rmode (w.fld 17 16)) (w.mb 14) a⟩,
   ⟨.log2, 18, fun w a _ _ => log2F (rmode (w.fld 17 16)) (w.mb 14) a⟩,
   ⟨.rcp, 18, fun w a _ _ => rcpF (rmode (w.fld 17 16)) (w.mb 14) a⟩,
   ⟨.rsq, 18, fun w a _ _ => rsqF (rmode (w.fld 17 16)) (w.mb 14) a⟩,
   ⟨.sqrt, 18, fun w a _ _ => sqrtF (rmode (w.fld 17 16)) (w.mb 14) a⟩]

/-- An exact integer result of an element as a pattern and FLAGS.SAT. -/
def intElement (ty : Nat) (sat : Bool) (f : Int → Int → Int) : ElementFn := fun a b _ =>
  let r := deliver ty sat (f (val ty a) (val ty b))
  (r.1, if r.2 then 0x20 else 0)

/-- The packed integer words (R168). -/
def packedForms : List FloatForm :=
  [⟨.padd, 4, fun w => intElement w.ty (w.mb 14) (fun a b => a + b)⟩, ⟨.psub, 4, fun w => intElement w.ty (w.mb 14) (fun a b => a - b)⟩,
   ⟨.pmin, 4, fun w => intElement w.ty (w.mb 14) (fun a b => min a b)⟩, ⟨.pmax, 4, fun w => intElement w.ty (w.mb 14) (fun a b => max a b)⟩]

/-- A word of fixed latency whose results wait to land, its stream at the next word, and every byte and the chip as before. -/
def queued (s : State) (e : Env) (t : State) (lat : Nat) (wrs : List Wr) : Prop :=
  (t.core e.c).pends = (s.core e.c).pends ++ [{ due := s.clk + lat, party := e.party, flag := e.ctl.setf.toNat, wrs }] ∧
    (∃ n, envOf t e.fn e.body = some n ∧ n.pc = e.pc + 12) ∧ sameBytes s t ∧ sameChip s t

/-- An element of a dot product (R167): signed or natural by SGA and SGB. -/
def dotElement (w : Nat) (sg : Bool) (x : Nat) : Int := if sg then (BitVec.ofNat w x).toInt else ((BitVec.ofNat w x).toNat : Int)

/-- A 32-bit lane as signed or natural, by the sign of TYPE. -/
def val32 (ty x : Nat) : Int := if tySigned ty then (BitVec.ofNat 32 x).toInt else ((BitVec.ofNat 32 x).toNat : Int)

/-- The lane that lane `l` of a shuffle reads (R171): IDX, UP, DN or XOR by control word `b`. -/
def shuffled (width b l : Nat) : Nat :=
  let k := b % 64
  match b / 256 % 4 with
  | 0 => k % width
  | 1 => if l < k then l else l - k
  | 2 => if width ≤ l + k then l else l + k
  | _ => if (l ^^^ (k % width)) < width then l ^^^ (k % width) else l

/-- The element that SLIDE takes for place `k` of `n` elements (R170). -/
def slid (n fill : Nat) (a c : Nat → Nat) (k : Int) : Nat :=
  if 0 ≤ k ∧ k < n then a k.toNat
  else match fill with
    | 0 => 0
    | 1 => if k < 0 then a 0 else a (n - 1)
    | _ => if (n : Int) ≤ k ∧ k < 2 * n then c (k - n).toNat else if -(n : Int) ≤ k ∧ k < 0 then c (k + n).toNat else 0

/-- The tree of R172: `n` levels over adjacent places, a place without a value being EMPTY. -/
def tree (f : Node → Node → Node) : Nat → (Nat → Option Node) → Option Node
  | 0, v => v 0
  | n + 1, v => tree f n (fun m => match v (2 * m), v (2 * m + 1) with
    | some x, some y => some (f x y)
    | some x, none => some x
    | none, y => y)

/-- The chain of R173: for each value, what stood before it and what stands after it. -/
def runChain (f : Node → Node → Node) : Option Node → List Nat → List (Option Node × Node)
  | _, [] => []
  | acc, x :: xs =>
    let a : Node := match acc with
      | none => (x, 0)
      | some y => f y (x, 0)
    (acc, a) :: runChain f (some a) xs

/-- The entry `i` of a list of `k` after the insertion of an entry at the first place that it is better than (R175). -/
def inserted (ty : Nat) (min : Bool) (k : Nat) (old : Nat → Nat × Nat) (c x i : Nat) : Nat × Nat :=
  match (List.range k).find? (fun p => topkBetter ty min c (old p).1) with
  | none => old i
  | some p => if i < p then old i else if i = p then (c, x) else old (i - 1)

end Sys2Proof.Spec

/-- R44, R131 and R135: FADD# and FMUL# with IMM32 rounded to TYPE; FCMP and FCMP# write the condition of one element of each lane
into a predicate; FCLASS writes the class bit of an element under tag I32. Only the tag and the half that is read are checked.
R129 and R130: FLGRD reads FLAGS as it stands when the word issues; FLGWR writes the bits of A that FLAGS has, FLGCLR clears the
bits that are 1 in A. -/
def Obligations.FloatImmediatesComparesAndFlags : Prop :=
  ((∀ (w : IWord) (s : State) (e : Env) (i : Instr) (op : ElementFn),
    (i = .faddImm w ∧ op = (fun a b _ => addF (fmtOf w.modi.toNat) .rn false a b) ∨
     i = .fmulImm w ∧ op = (fun a b _ => mulF (fmtOf w.modi.toNat) .rn false a b)) →
    Acts i s e → e.typeCheck (tagOf w.modi.toNat) = none →
    ∃ r : Nat → Nat × Nat,
      (∀ l ∈ e.active, elementwise w.modi.toNat op (e.wp.lane false w.a.toNat l) (immFloat w.imm w.modi.toNat) 0 (r l)) ∧
      exec i s = after e 6
        (e.vecWr false w.d.toNat (tagOf w.modi.toNat) (fun l => (r l).1) ++ e.flagWr (e.lanesFlags (fun l => (r l).2)))) ∧
  (∀ (w : RWord) (s : State) (e : Env), Acts (.fcmp w) s e →
    tagTrap 1 (tagOf w.ty) e.sourcesA = none → tagTrap 2 (tagOf w.ty) e.sourcesB = none →
    badTrap e.act (halvesUsed (tyWidth w.ty) (w.fld 2 0) 1) e.sourcesA = none →
    badTrap e.act (halvesUsed (tyWidth w.ty) (w.fld 2 0) 1) e.sourcesB = none →
    let x (l : Nat) := floatCond (w.d.toNat / 16 % 8) (decodeF (fmtOf w.ty) (elem (tyWidth w.ty) (e.srcA false l) (w.mod.toNat % 8)))
      (decodeF (fmtOf w.ty) (elem (tyWidth w.ty) (e.srcB false l) (w.mod.toNat % 8)))
    exec (.fcmp w) s = after e 4 ([.p e.w (w.d.toNat % 16) e.act (maskOf 64 e.width (fun l => (x l).1))] ++
      e.flagWr (e.lanesFlags (fun l => (x l).2)))) ∧
  (∀ (w : IWord) (s : State) (e : Env), Acts (.fcmpImm w) s e →
    tagTrap 1 (tagOf w.modi.toNat) e.sourcesA = none →
    badTrap e.act (halvesUsed (tyWidth w.modi.toNat) 0 1) e.sourcesA = none →
    let ty := w.modi.toNat
    let x (l : Nat) := floatCond (w.d.toNat / 16 % 8) (decodeF (fmtOf ty) (elem (tyWidth ty) (e.wp.lane false w.a.toNat l) 0))
      (decodeF (fmtOf ty) (elem (tyWidth ty) (immFloat w.imm ty) 0))
    exec (.fcmpImm w) s = after e 4 ([.p e.w (w.d.toNat % 16) e.act (maskOf 64 e.width (fun l => (x l).1))] ++
      e.flagWr (e.lanesFlags (fun l => (x l).2)))) ∧
  (∀ (w : RWord) (s : State) (e : Env), Acts (.fclass w) s e →
    tagTrap 1 (tagOf w.ty) e.sourcesA = none →
    badTrap e.act (halvesUsed (tyWidth w.ty) (w.fld 2 0) 1) e.sourcesA = none →
    exec (.fclass w) s = after e 6 (e.vecWr false w.d.toNat 1 (fun l =>
      classBit (fmtOf w.ty) (elem (tyWidth w.ty) (e.srcA false l) (w.mod.toNat % 8)))))) ∧
  (∀ (w : RWord) (s : State) (e : Env),
    (Acts (.flgrd w) s e → exec (.flgrd w) s = after e 4 [.s e.w w.d.toNat ((s.core e.c).warp e.w).flags]) ∧
    (Acts (.flgwr w) s e → exec (.flgwr w) s = after e 4 [.flagsSet e.w 0 (BitVec.ofNat 32 (e.srcA false 0) &&& 0x000100FF)]) ∧
    (Acts (.flgclr w) s e → exec (.flgclr w) s = after e 4 [.flagsSet e.w (~~~BitVec.ofNat 32 (e.srcA false 0)) 0]))

/-- R73: each rounding mode takes the exact magnitude m × 2^e, e below q, to the multiple n × 2^q that the mode names: RN the
nearest, ties to the even one; RZ the largest not above; RD and RU the one on their side; and the result is inexact exactly when
the magnitude is no multiple. R126 to R134, R141, R168: the element-wise float, special-function and packed integer words. In each
active lane the elements of the result are those of the instruction's element function, the flags those that any element of an
active lane raises; the result has the tag of TYPE. The sources have that tag or RAW, and are not poisoned. R68 and R132: the
special values of FADD and FMUL in every format: a NaN operand, opposite infinities added and zero times infinity give the
canonical NaN, the last two with NV. -/
def Obligations.FloatWords : Prop :=
  (∀ (neg : Bool) (m : Nat) (e q : Int), e < q →
    let u : Nat := 2 ^ (q - e).toNat
    (∀ mode, (mode = .rn ∨ mode = .rz ∨ mode = .rd ∨ mode = .ru) →
      (roundQ mode neg m e q).2 = decide ((roundQ .rz neg m e q).1 * u ≠ m)) ∧
    (let n := (roundQ .rz neg m e q).1; n * u ≤ m ∧ m < (n + 1) * u) ∧
    (let n := (roundQ .rn neg m e q).1
     2 * (n * u) ≤ 2 * m + u ∧ 2 * m ≤ 2 * (n * u) + u ∧ ((2 * m + u = 2 * (n * u) ∨ 2 * (n * u) + u = 2 * m) → n % 2 = 0)) ∧
    (let n := (roundQ (if neg then .rd else .ru) neg m e q).1; m ≤ n * u ∧ n * u < m + u) ∧
    (let n := (roundQ (if neg then .ru else .rd) neg m e q).1; n * u ≤ m ∧ m < (n + 1) * u)) ∧
  (∀ f ∈ floatForms ++ packedForms, ∀ (w : RWord) (s : State) (e : Env), Acts (f.form w) s e → e.typeCheck (tagOf w.ty) = none →
    ∃ r : Nat → Nat × Nat,
      (∀ l ∈ e.active, elementwise w.ty (f.op w) (e.srcA false l) (e.srcB false l) (e.srcD false l) (r l)) ∧
      exec (f.form w) s = after e f.lat
        (e.vecWr false w.d.toNat (tagOf w.ty) (fun l => (r l).1) ++ e.flagWr (e.lanesFlags (fun l => (r l).2)))) ∧
  (∀ (ty : Nat) (mode : RMode) (sat : Bool) (a b : Nat), 8 ≤ ty → ty ≤ 12 →
    let f := fmtOf ty
    let x := decodeF f a
    let y := decodeF f b
    (isNaN x = true ∨ isNaN y = true → (addF f mode sat a b).1 = canonNaN f ∧ (mulF f mode sat a b).1 = canonNaN f) ∧
    (∀ n, x = .inf n → y = .inf (!n) → (addF f mode sat a b) = (canonNaN f, fNV)) ∧
    (∀ n m k, x = .inf n → y = .fin m 0 k → (mulF f mode sat a b) = (canonNaN f, fNV)))

/-- R136 to R140: CVT, QCVT and DQCVT convert the elements that SSEL names into the elements that DSEL names, one generator step for
each inexact element under SR; the generators step at issue, and only in the active lanes. R78, R138 and R140: PACK joins the
low halves of A and B, UNPACK takes one half, SCALE finds the E8M0 code of an F32 value, AMAX the largest magnitude of the
active lanes, and SRSEED sets the generators of the active lanes at issue, 0x9E3779B9 for a seed of 0. R167 and R169: DOT4, DOT8
and DOT2 add the exact products of the elements, signed or natural by SGA and SGB, to the old D, wrapped or clamped to I32;
SHR.RND, SHR.RND# and SHR.SAT round the exact quotient by a power of two once, SHR.SAT clamping it to TYPE. -/
def Obligations.ConversionPackAndDotWords : Prop :=
  (∀ (w : RWord) (s : State) (e : Env) (i : Instr) (lat : Nat) (dst : Bool) (conv : Nat → Word → Conv),
    (i = .cvt w ∧ lat = 6 ∧ dst = wide w.ty ∧ conv = (fun l g =>
        convLane (w.fld 3 0) w.ty (w.fld 6 4) (w.fld 9 7) (convK (w.fld 3 0) w.ty)
          (fun x g => convElem w.ty (w.fld 3 0) (w.fld 17 16) (w.mb 15) (w.mb 14) x g) (e.srcA (wide (w.fld 3 0)) l) g) ∧
        tagTrap 1 (tagOf (w.fld 3 0)) e.sourcesA = none ∧
        badTrap e.act (halvesUsed (tyWidth (w.fld 3 0)) (w.fld 6 4 * convK (w.fld 3 0) w.ty) (convK (w.fld 3 0) w.ty)) e.sourcesA = none ∨
     i = .qcvt w ∧ lat = 8 ∧ dst = false ∧ conv = (fun l g =>
        let x := decodeF (fmtOf 8) (e.srcA false l)
        convLane 8 w.ty 0 (w.fld 9 7) 1 (fun _ g =>
          let r := convOne w.ty (w.fld 17 16) (w.mb 15) (w.mb 14) (scaleDown x (e.srcB false l % 256)) g
          ⟨r.val, r.fl ||| sigFlag x, r.g⟩) 0 g) ∧
        tagTrap 1 6 e.sourcesA = none ∧ tagTrap 2 12 e.sourcesB = none ∧ badTrap e.act 3 e.sourcesA = none ∧
        badTrap e.act 1 e.sourcesB = none ∨
     i = .dqcvt w ∧ lat = 8 ∧ dst = false ∧ conv = (fun l g =>
        convLane (w.fld 3 0) w.ty (w.fld 6 4) (w.fld 9 7) (convK (w.fld 3 0) w.ty) (fun y g =>
          let r := convOne w.ty (w.fld 17 16) (w.mb 15) (w.mb 14) (scaleUp (numOf (w.fld 3 0) y) (e.srcB false l % 256)) g
          ⟨r.val, r.fl ||| sigFlag (numOf (w.fld 3 0) y), r.g⟩) (e.srcA false l) g) ∧
        tagTrap 1 (tagOf (w.fld 3 0)) e.sourcesA = none ∧ tagTrap 2 12 e.sourcesB = none ∧
        badTrap e.act (halvesUsed (tyWidth (w.fld 3 0)) (w.fld 6 4 * convK (w.fld 3 0) w.ty) (convK (w.fld 3 0) w.ty)) e.sourcesA = none ∧
        badTrap e.act 1 e.sourcesB = none) →
    Acts i s e →
    let x := (s.core e.c).warp e.w
    let r (l : Nat) : Conv := conv l (x.genAt e.w l)
    ∃ t, exec i s = .next t ∧
      queued s e t lat (e.vecWr dst w.d.toNat (tagOf w.ty) (fun l => (r l).val) ++ e.flagWr (e.lanesFlags (fun l => (r l).fl))) ∧
      (∀ l, ((t.core e.c).warp e.w).genAt e.w l = if w.mb 15 ∧ l ∈ e.active then (r l).g else x.genAt e.w l) ∧
      sameWarp { x with gen := ((t.core e.c).warp e.w).gen } ((t.core e.c).warp e.w)) ∧
  ((∀ (w : RWord) (s : State) (e : Env), Acts (.pack w) s e → tagTrap 1 (tagOf w.ty) e.sourcesA = none →
    tagTrap 2 (tagOf w.ty) e.sourcesB = none → badTrap e.act 1 e.sourcesA = none → badTrap e.act 1 e.sourcesB = none →
    exec (.pack w) s = after e 6 (e.vecWr false w.d.toNat (tagOf w.ty) (fun l =>
      (BitVec.ofNat 16 (e.srcB false l) ++ BitVec.ofNat 16 (e.srcA false l)).toNat))) ∧
  (∀ (w : RWord) (s : State) (e : Env), Acts (.unpack w) s e → tagTrap 1 (tagOf w.ty) e.sourcesA = none →
    badTrap e.act (if w.mb 0 then 2 else 1) e.sourcesA = none →
    exec (.unpack w) s = after e 6 (e.vecWr false w.d.toNat (tagOf w.ty) (fun l =>
      if w.mb 0 then e.srcA false l / 2 ^ 16 % 2 ^ 16 else e.srcA false l % 2 ^ 16))) ∧
  (∀ (w : RWord) (s : State) (e : Env), Acts (.scale w) s e → tagTrap 1 6 e.sourcesA = none → e.badCheck = none →
    exec (.scale w) s = after e 6 (e.vecWr false w.d.toNat 12 (fun l => scaleCode w.ty (decodeF (fmtOf 8) (e.srcA false l))))) ∧
  (∀ (w : RWord) (s : State) (e : Env), Acts (.amax w) s e → tagTrap 1 (tagOf w.ty) e.sourcesA = none → e.badCheck = none →
    let r := maxMagnitude ((e.active.map (fun l => (List.range (perLane w.ty)).map (fun i =>
      decodeF (fmtOf w.ty) (elem (tyWidth w.ty) (e.srcA false l) i)))).flatten)
    exec (.amax w) s = after e (if e.width = 16 then 8 else if e.width = 32 then 10 else 12)
      (e.vecWr false w.d.toNat 6 (fun _ => r.1) ++ e.flagWr r.2)) ∧
  (∀ (w : RWord) (s : State) (e : Env), Acts (.srseed w) s e → e.badCheck = none →
    let x := (s.core e.c).warp e.w
    ∃ t, exec (.srseed w) s = .next t ∧ queued s e t 6 [] ∧
      (∀ l, ((t.core e.c).warp e.w).genAt e.w l = if l ∈ e.active then
        (if e.srcA false l = 0 then 0x9E3779B9 else BitVec.ofNat 32 (e.srcA false l)) else x.genAt e.w l) ∧
      sameWarp { x with gen := ((t.core e.c).warp e.w).gen } ((t.core e.c).warp e.w))) ∧
  ((∀ (i : Instr) (w : RWord) (s : State) (e : Env), i = .dot4 w ∨ i = .dot8 w ∨ i = .dot2 w → Acts i s e →
    tagTrap 0 1 e.sourcesD = none → tagTrap 1 (tagOf w.ty) e.sourcesA = none → tagTrap 2 (tagOf w.ty) e.sourcesB = none →
    e.badCheck = none →
    let n := tyWidth w.ty
    let r (l : Nat) : Nat × Bool := deliver 0 (w.mb 14) ((BitVec.ofNat 32 (e.srcD false l)).toInt +
      ((List.range (32 / n)).map (fun j => dotElement n (w.mb 1) (elem n (e.srcA false l) j) *
        dotElement n (w.mb 0) (elem n (e.srcB false l) j))).sum)
    exec i s = after e 6 (e.vecWr false w.d.toNat 1 (fun l => (r l).1) ++ satFlag e (fun l => (r l).2))) ∧
  (∀ (w : RWord) (s : State) (e : Env), Acts (.shrRnd w) s e → tagTrap 1 1 e.sourcesA = none → tagTrap 2 1 e.sourcesB = none →
    e.badCheck = none →
    exec (.shrRnd w) s = after e 6 (e.vecWr false w.d.toNat (tagOf w.ty) (fun l =>
      (BitVec.ofInt 32 (shiftRound (rmode (w.fld 17 16)) (val32 w.ty (e.srcA false l)) (e.srcB false l))).toNat))) ∧
  (∀ (w : IWord) (s : State) (e : Env), Acts (.shrRndImm w) s e → tagTrap 1 1 e.sourcesA = none → e.badCheck = none →
    exec (.shrRndImm w) s = after e 6 (e.vecWr false w.d.toNat (tagOf w.modi.toNat) (fun l =>
      (BitVec.ofInt 32 (shiftRound .rn (val32 w.modi.toNat (e.wp.lane false w.a.toNat l)) w.imm.toNat)).toNat))) ∧
  (∀ (w : RWord) (s : State) (e : Env), Acts (.shrSat w) s e → tagTrap 1 1 e.sourcesA = none → tagTrap 2 1 e.sourcesB = none →
    e.badCheck = none →
    let r (l : Nat) : Nat × Bool := deliver w.ty true (shiftRound (rmode (w.fld 17 16)) (val32 w.ty (e.srcA false l)) (e.srcB false l))
    exec (.shrSat w) s = after e 6 (e.vecWr false w.d.toNat (tagOf w.ty) (fun l =>
      (r l).1 * 2 ^ (tyWidth w.ty * w.fld 9 7)) ++ satFlag e (fun l => (r l).2))))

/-- R170 and R171: the cross-lane words read source lanes whatever their mask bits (R174). SLIDE and SLIDE# move elements along the
lanes and fill as FILL says; SHFL and SHFL# take the lane that the control word names; BCAST gives every active lane one lane of
A, or one element of it. All have latency 8 and write the tag of TYPE. No half of a lane that they read is poisoned. R172
and R173: RED gives every active lane the root of the tree over adjacent lanes, the exact sum for an integer ADD; SCAN gives
each active lane the chain over the active lanes up to it, or before it under EXCL. FLAGS gets what the nodes raise. -/
def Obligations.CrossLaneWords : Prop :=
  ((∀ (i : Instr) (s : State) (e : Env) (ty d fill : Nat) (n : Int) (a c : Nat → Nat) (check : Option Trap),
    ((∃ w : RWord, i = .slide w ∧ ty = w.ty ∧ d = w.d.toNat ∧ fill = w.fld 13 12 ∧ n = (BitVec.ofNat 32 (e.srcB false 0)).toInt ∧
        a = e.srcA false ∧ c = e.wp.lane false (w.fld 9 0) ∧
        check = firstTrap [tagTrap 1 (tagOf ty) e.sourcesA, tagTrap 3 (tagOf ty) (if fill = 2 then [e.wp.vreg (w.fld 9 0)] else []),
          badElems (tyWidth ty) (slideElems (tyWidth ty) (e.width * (32 / tyWidth ty)) fill false n e.active) e.sourcesA,
          badElems (tyWidth ty) (slideElems (tyWidth ty) (e.width * (32 / tyWidth ty)) fill true n e.active)
            (if fill = 2 then [e.wp.vreg (w.fld 9 0)] else [])]) ∨
     (∃ w : IWord, i = .slideImm w ∧ ty = w.modi.toNat ∧ d = w.d.toNat ∧ fill = 0 ∧ n = w.imm.toInt ∧
        a = e.wp.lane false w.a.toNat ∧ c = (fun _ => 0) ∧
        check = firstTrap [tagTrap 1 (tagOf ty) e.sourcesA,
          badElems (tyWidth ty) (slideElems (tyWidth ty) (e.width * (32 / tyWidth ty)) fill false n e.active) e.sourcesA])) →
    Acts i s e → check = none →
    let ew := tyWidth ty
    let per := 32 / ew
    let place (f : Nat → Nat) (j : Nat) : Nat := elem ew (f (j / per)) (j % per)
    ∃ r : Nat → Nat, (∀ l ∈ e.active, ∀ j < per, elem ew (r l) j = slid (e.width * per) fill (place a) (place c) ((l * per + j : Nat) + n)) ∧
      exec i s = after e 8 (e.vecWr false d (tagOf ty) r)) ∧
  (∀ (w : RWord) (s : State) (e : Env), Acts (.shfl w) s e → tagTrap 1 (tagOf w.ty) e.sourcesA = none →
    badLanes (e.active.map (fun l => shuffled e.width (e.srcB false l) l)) e.sourcesA = none → badTrap e.act 1 e.sourcesB = none →
    exec (.shfl w) s = after e 8 (e.vecWr false w.d.toNat (tagOf w.ty) (fun l => e.srcA false (shuffled e.width (e.srcB false l) l)))) ∧
  (∀ (w : IWord) (s : State) (e : Env), Acts (.shflImm w) s e → tagTrap 1 (tagOf w.modi.toNat) e.sourcesA = none →
    badLanes (e.active.map (fun l => shuffled e.width w.imm.toNat l)) e.sourcesA = none →
    exec (.shflImm w) s = after e 8 (e.vecWr false w.d.toNat (tagOf w.modi.toNat)
      (fun l => e.wp.lane false w.a.toNat (shuffled e.width w.imm.toNat l)))) ∧
  (∀ (w : RWord) (s : State) (e : Env), Acts (.bcast w) s e → tagTrap 1 (tagOf w.ty) e.sourcesA = none →
    let ew := tyWidth w.ty
    let n := e.srcB false 0 % e.width
    let x := e.srcA false n
    (w.mb 3 = false → badLanes [n] e.sourcesA = none →
      exec (.bcast w) s = after e 8 (e.vecWr false w.d.toNat (tagOf w.ty) (fun _ => x))) ∧
    (w.mb 3 = true → badElems ew [n * (32 / ew) + w.fld 2 0] e.sourcesA = none → ∃ r, (∀ j < 32 / ew, elem ew r j = elem ew x (w.fld 2 0)) ∧
      exec (.bcast w) s = after e 8 (e.vecWr false w.d.toNat (tagOf w.ty) (fun _ => r))))) ∧
  ((∀ (w : RWord) (s : State) (e : Env), Acts (.red w) s e → tagTrap 1 (tagOf w.ty) e.sourcesA = none → e.badCheck = none →
    e.width = 16 ∨ e.width = 32 ∨ e.width = 64 →
    let ew := tyWidth w.ty
    let op := w.fld 2 0
    let x (j l : Nat) : Nat := elem ew (e.srcA false l) j
    let node (j : Nat) : Node :=
      if op = 0 ∧ tyFloat w.ty = false then
        let r := deliver w.ty (w.mb 14) ((e.active.map (fun l => val w.ty (x j l))).sum)
        (r.1, if r.2 then 0x20 else 0)
      else (tree (combNode w.ty op (rmode (w.fld 17 16)) (w.mb 14)) (Nat.log2 e.width)
        (fun l => if l < e.width ∧ e.act.getLsbD l = true then some (x j l, 0) else none)).getD (0, 0)
    ∃ r fl : Nat, (∀ j < 32 / ew, elem ew r j = (node j).1 % 2 ^ ew) ∧
      (∀ k, fl.testBit k = (List.range (32 / ew)).any (fun j => (node j).2.testBit k)) ∧
      exec (.red w) s = after e (if e.width = 16 then 8 else if e.width = 32 then 10 else 12)
        (e.vecWr false w.d.toNat (tagOf w.ty) (fun _ => r) ++ e.flagWr fl)) ∧
  (∀ (w : RWord) (s : State) (e : Env), Acts (.scan w) s e → tagTrap 1 (tagOf w.ty) e.sourcesA = none → e.badCheck = none →
    let ew := tyWidth w.ty
    let op := w.fld 2 0
    let x (j : Nat) : List Nat := e.active.map (fun l => elem ew (e.srcA false l) j)
    let before (j n : Nat) : Int := (((x j).take n).map (val w.ty)).sum
    let out (j n : Nat) : Nat :=
      if op = 0 ∧ tyFloat w.ty = false then (deliver w.ty (w.mb 14) (before j (if w.mb 3 then n else n + 1))).1
      else match (runChain (combNode w.ty op (rmode (w.fld 17 16)) (w.mb 14)) none (x j))[n]? with
        | some y => if w.mb 3 then (y.1.map (·.1)).getD (scanIdentity w.ty op) else y.2.1
        | none => 0
    ∃ (r : Nat → Nat) (fl : Nat),
      (∀ n < e.active.length, ∀ j < 32 / ew, elem ew (r n) j = out j n % 2 ^ ew) ∧
      exec (.scan w) s = after e (if e.width = 16 then 8 else if e.width = 32 then 10 else 12)
        ([.v e.w w.d.toNat (e.active.zipIdx.map (fun y => (y.1, BitVec.ofNat 32 (r y.2)))) (tagOf w.ty)] ++ e.flagWr fl)))

/-- R175: TOPK.CLR writes the worst value and index 0xFFFFFFFF into every entry; TOPK.INS inserts the candidate before the first
entry that it is better than and drops the last one; a NaN candidate leaves the list, a signalling one with FLAGS.NV. -/
def Obligations.TopKLists : Prop :=
  (∀ (w : RWord) (s : State) (e : Env), Acts (.topkClr w) s e →
    exec (.topkClr w) s = after e 8 ((List.range (w.fld 2 0 + 1)).flatMap (fun j =>
      e.vecWr false (w.d.toNat + 2 * j) (tagOf w.ty) (fun _ => topkWorst w.ty (w.mb 3)) ++
      e.vecWr false (w.d.toNat + 2 * j + 1) 1 (fun _ => 0xFFFFFFFF)))) ∧
  (∀ (w : RWord) (s : State) (e : Env), Acts (.topkIns w) s e →
    let k := w.fld 2 0 + 1
    let d := w.d.toNat
    tagTrap 1 (tagOf w.ty) e.sourcesA = none → tagTrap 2 1 e.sourcesB = none → e.badCheck = none →
    (∀ j < k, tagTrap 3 (tagOf w.ty) [e.wp.vreg (d + 2 * j)] = none ∧ tagTrap 3 1 [e.wp.vreg (d + 2 * j + 1)] = none) →
    let old (l j : Nat) : Nat × Nat := (e.wp.lane false (d + 2 * j) l, e.wp.lane false (d + 2 * j + 1) l)
    let cand (l : Nat) : Machine.Num := decodeF (fmtOf 8) (e.srcA false l)
    let entry (l j : Nat) : Nat × Nat :=
      if w.ty = 8 ∧ isNaN (cand l) = true then old l j else inserted w.ty (w.mb 3) k (old l) (e.srcA false l) (e.srcB false l) j
    exec (.topkIns w) s = after e 8 ((List.range k).flatMap (fun j =>
      e.vecWr false (d + 2 * j) (tagOf w.ty) (fun l => (entry l j).1) ++ e.vecWr false (d + 2 * j + 1) 1 (fun l => (entry l j).2)) ++
      (if w.ty = 8 ∧ ∃ l ∈ e.active, cand l = .nan true then [.flagsOr e.w 1] else [])))

/-! Class ACC and the queues. -/

namespace Sys2Proof.Spec

open Sys2Proof.Machine

/-- The R-form scalar words: whether each is encoded so, and what D becomes, from TYPE and the 64-bit values of A and B (R179). -/
def accForms : List ((RWord → Instr) × (Nat → BitVec 64 → BitVec 64 → BitVec 64)) :=
  [(.aadd, fun _ a b => a + b), (.asub, fun _ a b => a - b), (.amul, fun _ a b => a * b), (.aand, fun _ a b => a &&& b),
   (.ashl, fun _ a b => a <<< b.toNat),
   (.ashr, fun ty a b => if tySigned ty then a.sshiftRight (b.toNat % 2 ^ 32) else a >>> (b.toNat % 2 ^ 32)), (.amov, fun _ a _ => a)]

/-- The results of a word wait to land `lat` clocks after it issued. -/
def lands (s : State) (e : Env) (t : State) (lat : Nat) (wrs : List Wr) : Prop :=
  (t.core e.c).pends = (s.core e.c).pends ++ [{ due := s.clk + lat, party := e.party, flag := e.ctl.setf.toNat, wrs }]

/-- The stream instance of a site stands at `pc`, which may issue from clock `ready` on. -/
def standsAt (e : Env) (t : State) (pc : Word64) (ready : Nat) : Prop :=
  ∃ n, envOf t e.fn e.body = some n ∧ n.pc = pc ∧ n.ready = ready ∧ n.held = none

/-- Queue `q` of the warp has changed as `f` says, and no other of its queues that `also` does not name. -/
def queueTurned (s : State) (e : Env) (t : State) (q : Nat) (also : List Nat) (f : Queue → Queue) : Prop :=
  ((t.core e.c).warp e.w).queue q = f (((s.core e.c).warp e.w).queue q) ∧
    ∀ r, r ≠ q → ¬ r ∈ also → ((t.core e.c).warp e.w).queue r = ((s.core e.c).warp e.w).queue r

/-- Every warp but one, and every other register of the cores, as before. -/
def onlyWarp (s t : State) (c w : Nat) (x : Warp → Warp) : Prop :=
  sameWarp (x ((s.core c).warp w)) ((t.core c).warp w) ∧
    ∀ c', sameUnit (s.core c') (t.core c') ∧ ∀ w', ¬(c' = c ∧ w' = w) → sameWarp ((s.core c').warp w') ((t.core c').warp w')

/-- Lane `l` of the head entry of queue `q`. -/
def headWord (e : Env) (q l : Nat) : BitVec 32 := (e.wp.queue q).headSlot.reg.lane l

end Sys2Proof.Spec

/-- R178 to R180 and R44: the scalar words of an access stream write, two clocks later, the result of their operation on 64-bit
values; ACMP a condition bit. ABR goes to pc + 12 × IMM32 when its guard holds, at t + 4 or later, and to the next word when it
does not. -/
def Obligations.AccessScalarInstructions : Prop :=
  (∀ f ∈ accForms, ∀ (w : RWord) (s : State) (e : Env), Acts (f.1 w) s e →
    exec (f.1 w) s = after e 2 [.a e.w w.d.toNat (f.2 w.ty (BitVec.ofNat 64 (e.srcA true 0)) (BitVec.ofNat 64 (e.srcB true 0)))]) ∧
  (∀ (w : IWord) (s : State) (e : Env), Acts (.aaddImm w) s e →
    exec (.aaddImm w) s = after e 2 [.a e.w w.d.toNat
      (e.wp.acc.a.get w.a.toNat 0 + BitVec.ofNat 64 (imm w.modi.toNat w.imm))]) ∧
  (∀ (w : IWord) (s : State) (e : Env), Acts (.amovImm w) s e →
    exec (.amovImm w) s = after e 2 [.a e.w w.d.toNat (BitVec.ofNat 64 (imm w.modi.toNat w.imm))]) ∧
  (∀ (w : RWord) (s : State) (e : Env), Acts (.acmp w) s e →
    exec (.acmp w) s = after e 2 [.c e.w w.d.toNat (intHolds (w.fld 2 0) (val w.ty (e.srcA true 0)) (val w.ty (e.srcB true 0)))]) ∧
  (∀ (w : IWord) (s : State) (e : Env), Site (.abr w) s e →
    (e.act = 0 → exec (.abr w) s = after e 1 []) ∧
    (e.act ≠ 0 → ∃ t, exec (.abr w) s = .next t ∧ untouched s t ∧ counted s e t ∧ standsAt e t (target e.pc w.imm) (landsAt e)))

/-- R189 to R193: QPOP and ABRQ pop the head entry of a FULL back queue, into A registers and into the condition of a branch;
QPUSH fills the tail slot of a back queue, which is PENDING for two clocks; SLIP sets the slip register between 8 and 96; AEXIT
ends the access stream, and the warp with it where its compute stream has ended. -/
def Obligations.QueueWords : Prop :=
  (∀ (w : RWord) (s : State) (e : Env), Acts (.qpop w) s e → (e.wp.queue w.a.toNat).headSlot.st = .full →
    ∃ t, exec (.qpop w) s = .next t ∧ untouched s t ∧ moved s e t ∧ counted s e t ∧ queueTurned s e t w.a.toNat [] Queue.pop ∧
      lands s e t 3 ((List.range (w.fld 5 0 + 1)).map (fun i => .a e.w (w.d.toNat + i)
        (if w.mb 6 then (headWord e w.a.toNat i).signExtend 64 else (headWord e w.a.toNat i).setWidth 64)))) ∧
  (∀ (w : IWord) (s : State) (e : Env), Site (.abrq w) s e → (e.wp.queue w.a.toNat).headSlot.st = .full →
    let q := w.a.toNat
    let c : Bool := match w.modi.toNat % 4 with
      | 0 => decide (headWord e q 0 ≠ 0)
      | 1 => decide (∃ l, l < e.width ∧ headWord e q l ≠ 0)
      | _ => decide (∀ l, l < e.width → headWord e q l ≠ 0)
    ∃ t, exec (.abrq w) s = .next t ∧ untouched s t ∧ counted s e t ∧ queueTurned s e t q [] Queue.pop ∧
      (if xor c (w.modi.getLsbD 3) then standsAt e t (target e.pc w.imm) (landsAt e)
       else standsAt e t (e.pc + 12) (s.clk + 1 + e.ctl.stall.toNat)) ∧
      (w.modi.getLsbD 2 = true → lands s e t 4 [.a e.w w.d.toNat ((headWord e q 0).setWidth 64)])) ∧
  (∀ (w : RWord) (s : State) (e : Env), Acts (.qpush w) s e → e.badCheck = none → e.wp.acc.aend = false →
    (e.wp.queue w.d.toNat).count < 8 → 12 ≤ w.d.toNat →
    ∃ t x, exec (.qpush w) s = .next t ∧ untouched s t ∧ moved s e t ∧ counted s e t ∧
      queueTurned s e t w.d.toNat (wordQueues e.fn e.body) (fun q => q.push x) ∧
      x.st = .pending ∧ x.due = s.clk + 2 ∧ x.reg.tag = (e.sourcesA.head?.map (·.tag)).getD 0 ∧
      ∀ l < 64, x.reg.lane l = if l ∈ e.active then BitVec.ofNat 32 (e.srcA false l) else 0) ∧
  (∀ (c v q i : Nat) (s : State), s.bad = none → 12 ≤ q →
    let x := ((s.core c).warp v).queue q
    (x.slot i).st = .pending → (x.slot i).due ≤ s.clk + 1 →
    ∃ t, exec (.backQueueSlotFull c v q) s = .next t ∧ untouched s t ∧
      (((t.core c).warp v).queue q).slot i = { x.slot i with st := .full, due := 0 }) ∧
  (∀ (w : RWord) (s : State) (e : Env), Acts (.slip w) s e →
    ∃ t, exec (.slip w) s = .next t ∧ moved s e t ∧ counted s e t ∧ sameBytes s t ∧ sameChip s t ∧
      onlyWarp s t e.c e.w (fun x => { x with acc := { x.acc with slip := max 8 (min 96 (e.srcA true 0)) } })) ∧
  (∀ (w : RWord) (s : State) (e : Env), Site (.aexit w) s e → (e.wp.live = 0 → e.wp.pendings = [] ∧ e.k.tagerr = 0) →
    ∃ t, exec (.aexit w) s = .next t ∧ counted s e t ∧ sameBytes s t ∧ sameChip s t ∧
      onlyWarp s t e.c e.w (fun x => { x with acc := { x.acc with aend := true } }) ∧
      (e.wp.live = 0 → ((t.core e.c).warp e.w).ended = true))

/-- R181 to R186: QLD and QLDG reserve the tail slot of their forward queue and launch their access, with the addresses that LEN
or the index vector of a popped back queue gives. Performed, the access leaves its slot FULL with its lanes' data under its tag
(zero in the others), or, where a lane fails a check, POISON with the record of the failure. It is not performed before what it
must follow (R150, R194). -/
def Obligations.QueueLoads : Prop :=
  (∀ (i : Instr) (w : RWord) (s : State) (e : Env), i = .qld w ∨ i = .qldg w → Acts i s e →
    e.computeEnded = false → e.canPush w.d.toNat = true →
    (i = .qldg w → (e.wp.queue w.b.toNat).headSlot.st = .full ∧ 12 ≤ w.b.toNat) → w.d.toNat < 12 →
    let q := w.d.toNat
    let tail := (e.wp.queue q).tail
    let size := 2 ^ w.fld 21 19
    let base := e.srcA true 0
    let live (l : Nat) : Prop := l < e.width ∧
      if i = .qld w then l < e.srcB false 0 % 2 ^ 32 else ¬(w.mb 14 = true ∧ (headWord e w.b.toNat l).toInt < 0)
    let index (l : Nat) : Int := if i = .qld w then l * size else (headWord e w.b.toNat l).toInt
    ∃ t, exec i s = .next t ∧ untouched s t ∧ moved s e t ∧ counted s e t ∧
      queueTurned s e t q (if i = .qldg w then [w.b.toNat] else []) (fun x => x.push { st := .pending }) ∧
      (i = .qldg w → ((t.core e.c).warp e.w).queue w.b.toNat = (e.wp.queue w.b.toNat).pop) ∧
      ((t.core e.c).warp e.w).acc.slipCount = e.wp.acc.slipCount + 1 ∧
      launched s e t .go (fun o => o.pos = tail ∧ o.args = [BitVec.ofNat 64 base] ∧ ∀ l < 64,
        (o.lanes.getLsbD l = true ↔ live l) ∧
        (live l → o.addr.get l 0 = BitVec.ofInt 64 ((base : Int) + index l * 2 ^ w.fld 17 15 + moff w * (size : Int))))) ∧
  (∀ (s : State) (c id v : Nat) (o : Op) (w : RWord) (pa : Nat → Nat),
    let u := s.fillTlb c (s.core c).asid ((opLanes o).map (fun l => (o.addr.get l 0).toNat))
    (s.core c).findOp id = some o → o.fn = .qld ∨ o.fn = .qldg → o.body = .r w → o.party = .access v → s.bad = none →
    ((s.core c).warp v).ended = false → w.fld 9 8 ≠ 0 → w.fld 21 19 ≤ 2 → o.pos < 8 →
    (∀ l ∈ opLanes o, s.laneCheck c o.fn false (o.status != 0) o.regions (msize w) (o.addr.get l 0) = .ok ∧
      ∃ x, tlbFind (o.xl ++ (u.core c).tlb) (s.core c).asid (o.addr.get l 0).toNat = some x ∧
        placeOf x.leaf x.va (o.addr.get l 0).toNat = .hbm (pa l) ∧ s.heldBy c x.leaf = none ∧ pa l + msize w ≤ hbmTop ∧
        settledAt s (pa l) (msize w)) →
    s.mayPerform c o = true → s.windowWaits c o = false → s.badLanes c o = 0 →
    ∃ t x, exec (.queueLoadCompletion c id {}) s = .next t ∧ keeps s t ∧ completed s t c o ∧
      x = (((t.core c).warp v).queue w.d.toNat).slot o.pos ∧ x.st = .full ∧ x.reg.tag = BitVec.ofNat 4 (w.fld 13 10) ∧
      ∀ l < 64, x.reg.lane l = if l ∈ opLanes o then loadedWord w (msize w) (numberAt s .hbm (pa l) (msize w)) 0 else 0) ∧
  (∀ (s : State) (c id v : Nat) (o : Op) (w : RWord) (x : Trap),
    let ys := (opLanes o).map (fun l =>
      (l, o.addr.get l 0, s.laneCheck c o.fn false (o.status != 0) o.regions (msize w) (o.addr.get l 0)))
    (s.core c).findOp id = some o → o.fn = .qld ∨ o.fn = .qldg → o.body = .r w → o.party = .access v → s.bad = none →
    ((s.core c).warp v).ended = false → o.pos < 8 → (∀ y ∈ ys, y.2.2 ≠ .wait) → s.mayPerform c o = true →
    s.windowWaits c o = false → checkTrap ys = some x →
    ∃ t y, exec (.queueLoadCompletion c id {}) s = .next t ∧ untouched s t ∧ completed s t c o ∧
      y = (((t.core c).warp v).queue w.d.toNat).slot o.pos ∧ y.st = .poison ∧ y.record.apc = o.pc ∧
      y.record.base = o.args.head?.getD 0 ∧ y.record.faddr = x.addr ∧ y.record.fmask = x.fmask ∧
      y.record.word.toNat % 16 = poisonCause x.cause)

/-! Landing, exceptions and class SYS. -/

namespace Sys2Proof.Spec

open Sys2Proof.Machine

/-- A word that issues in the handler split, whose halt is `h`. -/
structure Handles (i : Instr) (s : State) (e : Env) (h : Halt) : Prop extends Acts i s e where
  handler : e.handler = true
  halt : e.k.halt = some h

/-- The shadows of the handler warp are back in it: S248 to S255, P13, P14 and FLAGS; the rest of it is as before (R372). -/
def unshadowed (s t : State) (c w : Nat) : Prop :=
  let k := s.core c
  let x := k.warp w
  let y := (t.core c).warp w
  (∀ i < 4, y.s.get (248 + 2 * i) 0 = (k.sysReg (0x010 + i)).setWidth 32 ∧
    y.s.get (249 + 2 * i) 0 = (k.sysReg (0x010 + i) >>> 32).setWidth 32) ∧
  (∀ i, i < 248 → y.s.get i 0 = x.s.get i 0) ∧ y.p.get 13 0 = k.sysReg 0x014 &&& lowLanes k.kernel.w ∧
  y.p.get 14 0 = k.sysReg 0x015 &&& lowLanes k.kernel.w ∧ (∀ i, i < 13 → y.p.get i 0 = x.p.get i 0) ∧
  y.flags = (k.sysReg 0x016).setWidth 32 &&& 0x000100FF ∧ sameWarp { x with s := y.s, p := y.p, flags := y.flags } y

/-- What a system register reads as (R367 to R369). -/
def systemRegister (s : State) (e : Env) (i : Nat) : Word64 :=
  if i = 0x100 then (s.ctx e.blk.asid).handler
  else if i = 0x101 then BitVec.ofNat 64 (e.blk.relaunch % 256 * 256 + (if e.k.ptrap then 4 else 0) + 2)
  else if i = 0x102 then BitVec.ofNat 64 e.blk.savebase
  else if i = 0x103 then BitVec.ofNat 64 e.k.haltclk
  else e.k.sysReg i

/-- The page checks of a context part find nothing (R381). -/
def partReady (e : Env) (w : RWord) (need : Need) : Prop := e.srcA true 0 % 2 ^ 16 = 0 ∧ e.partCheck w need = .ok

end Sys2Proof.Spec

/-- R50, R47 and R81: at the end of its clock every result that is due is in its register, under its tag, in its lanes, and no
result is lost: what waits longer still waits. Where one word's single result is due, it writes that register and nothing else. -/
def Obligations.ResultsLandWhenDue : Prop :=
  (∀ (s : State) (c : Nat), s.bad = none → ∃ t, exec (.fixedLatencyWriteback c) s = .next t ∧ sameChip s t ∧
    (t.core c).pends = (s.core c).pends.filter (fun p => !decide (p.due ≤ s.clk + 1)) ∧
    (∀ c', c' ≠ c → t.core c' = s.core c') ∧
    ((∀ p ∈ (s.core c).pends, s.clk + 1 < p.due) → untouched s t)) ∧
  (∀ (s : State) (c : Nat) (p : Pend) (x : Wr), s.bad = none → p ∈ (s.core c).pends → p.due ≤ s.clk + 1 → p.wrs = [x] →
    (∀ q ∈ (s.core c).pends, q ≠ p → s.clk + 1 < q.due) → (s.core c).pends.count p = 1 →
    ∃ t, exec (.fixedLatencyWriteback c) s = .next t ∧
      (∀ v r ws tag, x = .v v r ws tag → ws ≠ [] → ws.Pairwise (fun a b => a.1 ≠ b.1) →
        let y := ((t.core c).warp v).vreg r
        y.tag = tag ∧ (∀ l z, (l, z) ∈ ws → y.lane l = z) ∧
          (∀ l, (∀ z, ¬(l, z) ∈ ws) → y.lane l = (((s.core c).warp v).vreg r).lane l) ∧ sameBytes s t ∧
          (∀ r', r' ≠ r → ((t.core c).warp v).vreg r' = ((s.core c).warp v).vreg r') ∧
          sameWarp { (s.core c).warp v with v := ((t.core c).warp v).v } ((t.core c).warp v)) ∧
      (∀ v r z, x = .s v r z → sameBytes s t ∧ onlyWarp s t c v (fun y => { y with s := y.s.put r z 0 })) ∧
      (∀ v r ls z, x = .p v r ls z → sameBytes s t ∧
        onlyWarp s t c v (fun y => { y with p := y.p.put r ((y.p.get r 0 &&& ~~~ls) ||| (z &&& ls)) 0 })) ∧
      (∀ v r z, x = .a v r z → sameBytes s t ∧ onlyWarp s t c v (fun y => { y with acc := { y.acc with a := y.acc.a.put r z 0 } })) ∧
      (∀ v z, x = .flagsOr v z → sameBytes s t ∧ onlyWarp s t c v (fun y => { y with flags := y.flags ||| z })))

/-- R364, R365, R367 and R368: from clock t + 5 on a halt whose cause has a handler warp enters the handler of its context.
TCAUSE, TPC, TADDR, TFMASK, TDONE and TAUX are written, S248 to S255, P13, P14 and FLAGS are shadowed, and the handler split
stands at HANDLER with the trapping split's lanes, or every live lane. No register of a warp and no byte changes. With HANDLER = 0
or with no warp to run it the block ends with the cause. -/
def Obligations.TakingAnException : Prop :=
  (∀ (s : State) (c hw : Nat) (b : Block) (h : Halt),
    let k := s.core c
    s.bad = none → k.block = some b → k.halt = some h → h.entered = false → h.save = false → h.found + 5 ≤ s.clk →
    handlerWarp k h = some hw → (s.ctx b.asid).handler ≠ 0 →
    let async : Prop := h.trap.cause = .preempt ∨ h.trap.cause = .resume
    ∃ t, exec (.handlerEntry c) s = .next t ∧ sameBytes s t ∧ sameChip s t ∧
      (∀ c' w, sameWarp ((s.core c').warp w) ((t.core c').warp w)) ∧ (
      let n := t.core c
      (∃ g x, n.halt = some g ∧ g.entered = true ∧ g.trap = h.trap ∧ g.pc = h.pc ∧ g.party = h.party ∧ g.slot = h.slot ∧
        g.handler = some x ∧ x.warp = hw ∧ x.pc = (s.ctx b.asid).handler ∧ x.ready = s.clk ∧ x.rets = [] ∧
        (∀ v p, h.party = .compute v → ¬async → (k.warp v).splits.find h.slot = some p → x.m = p.m) ∧
        (async → x.m = (k.warp hw).live)) ∧
      n.sysReg 0 = tcause h hw ∧ n.sysReg 1 = (if h.trap.cause = .preempt ∨ h.trap.cause = .resume then 0 else h.pc) ∧
      n.sysReg 2 = h.trap.addr ∧ n.sysReg 3 = h.trap.fmask ∧ n.sysReg 4 = h.trap.done ∧ n.sysReg 5 = h.trap.taux ∧
      (∀ i < 4, n.sysReg (0x010 + i) = shadowPair (k.warp hw) i) ∧ n.sysReg 0x014 = (k.warp hw).p.get 13 0 ∧
      n.sysReg 0x015 = (k.warp hw).p.get 14 0 ∧ n.sysReg 0x016 = (k.warp hw).flags.setWidth 64)) ∧
  (∀ (s : State) (c : Nat) (b : Block) (h : Halt),
    let k := s.core c
    s.bad = none → k.block = some b → k.halt = some h → h.entered = false → h.save = false → h.found + 5 ≤ s.clk →
    b.failed = none → h.trap.cause ≠ .preempt → handlerWarp k h = none ∨ (s.ctx b.asid).handler = 0 →
    ∃ t x, exec (.handlerEntry c) s = .next t ∧ (t.core c).block = some x ∧ x.failed = some h.trap.cause ∧ sameBytes s t)

/-- R371: TRAP raises the cause TRAP at itself, with CODE in AUX, and the handler continues past it with RTT.NEXT: its split then
stands at the following word (past both words of a pair), the shadows are back, and the halt has ended. -/
def Obligations.TrapAndContinuePastIt : Prop :=
  (∀ (w : RWord) (s : State) (e : Env), Acts (.trap w) s e → e.handler = false → e.k.halt = none →
    let x : Trap := { cause := .trap, aux := BitVec.ofNat 32 (w.fld 15 0) }
    let h : Halt := { found := s.clk, party := e.party, slot := e.slot, pair2 := s.second, pc := e.pc,
                      trap := e.k.retryDone e.party e.slot e.pc x }
    exec (.trap w) s = .next (({ s with raised := some ⟨7, x⟩ } : State).onCore e.c (fun k =>
      { k with halt := some h, haltclk := s.clk }))) ∧
  (∀ (w : RWord) (s : State) (e : SEnv), StackActs (.trap w) s e →
    exec (.trap w) s = .next (s.setSc e.g e.k (endedAt e.sc e.sc.pc 0x9B 0))) ∧
  (∀ (w : RWord) (s : State) (e : Env) (h : Halt) (v : Nat) (p : Split), Handles (.rttNext w) s e h → e.k.preempt = none →
    h.trap.cause ≠ .preempt → h.trap.cause ≠ .resume → h.party = .compute v → (e.k.warp v).splits.find h.slot = some p →
    ∃ t q, exec (.rttNext w) s = .next t ∧ (t.core e.c).halt = none ∧ sameBytes s t ∧ sameChip s t ∧ unshadowed s t e.c e.w ∧
      ((t.core e.c).warp v).splits.find h.slot = some q ∧ q = { p with pc := q.pc, bar := none } ∧
      (h.pair2 = true → q.pc = h.pc + 12) ∧
      (∀ bs, h.pair2 = false → h.trap.cause ≠ .barOrphan → s.fetchWord e.k.tlb e.k.asid h.pc.toNat false = some bs →
        q.pc = if (wordOfBytes bs).getLsbD 0 then h.pc + 24 else h.pc + 12))

/-- R372 and R188: RTT ends the halt: the shadows are back, and the trapping instruction stands to issue again. RTT.END ends the
block with the cause; RTT.SAVED lets it leave its core. RTT.RPL with ZERO makes the poisoned slot FULL of zeros under the load's
tag; without it the slot is PENDING and the load is in flight again, with its base and payload of the record. -/
def Obligations.ReturnsFromTheHandler : Prop :=
  (∀ (w : RWord) (s : State) (e : Env) (h : Halt), Handles (.rtt w) s e h → e.k.preempt = none →
    ∃ t, exec (.rtt w) s = .next t ∧ (t.core e.c).halt = none ∧ sameBytes s t ∧ sameChip s t ∧ unshadowed s t e.c e.w ∧
      (∀ v, ((t.core e.c).warp v).splits = ((s.core e.c).warp v).splits) ∧
      (∀ v, v ≠ e.w → sameWarp ((s.core e.c).warp v) ((t.core e.c).warp v))) ∧
  (∀ (w : RWord) (s : State) (e : Env) (h : Halt), Handles (.rttEnd w) s e h → e.blk.failed = none →
    ∃ t x, exec (.rttEnd w) s = .next t ∧ sameBytes s t ∧ sameChip s t ∧ (t.core e.c).block = some x ∧
      x.failed = some h.trap.cause ∧ (t.core e.c).halt.bind (·.handler) = none) ∧
  (∀ (w : RWord) (s : State) (e : Env) (h : Halt), Handles (.rttSaved w) s e h →
    (e.k.preempt = none → exec (.rttSaved w) s = .next (e.raise s 7 (plain .illegalForm))) ∧
    (e.k.preempt ≠ none → ∃ t x, exec (.rttSaved w) s = .next t ∧ untouched s t ∧ (t.core e.c).halt = some x ∧
      x.handler = none ∧ x.save = true ∧ x.soft = true)) ∧
  (∀ (w : RWord) (s : State) (e : Env) (h : Halt) (v : Nat) (bs : List Byte), Handles (.rttRpl w) s e h →
    h.trap.cause = .queuePoison → h.party = .compute v → e.k.preempt = none →
    s.fetchWord e.k.tlb e.k.asid (e.k.sysReg 0x008).toNat false = some bs →
    opcOf (wordOfBytes bs) = Fn.opc .qld ∨ opcOf (wordOfBytes bs) = Fn.opc .qldg →
    let n := (e.k.sysReg 0x00C).toNat
    let q := n / 16 % 16
    let i := n / 256 % 8
    let x := (e.k.warp v).queue q
    (x.slot i).st = .poison →
    ∃ t, exec (.rttRpl w) s = .next t ∧ (t.core e.c).halt = none ∧ sameBytes s t ∧ sameChip s t ∧ unshadowed s t e.c e.w ∧ (
      let y := (((t.core e.c).warp v).queue q).slot i
      (w.mb 0 = true → y.st = .full ∧ (∀ l, y.reg.lane l = 0) ∧ y.reg.tag = BitVec.ofNat 4 ((rOf (wordOfBytes bs)).fld 13 10)) ∧
      (w.mb 0 = false → y.st = .pending ∧ ∃ o ∈ (t.core e.c).ops, o.id = s.opId ∧ o.party = .access v ∧ o.pc = e.k.sysReg 0x008 ∧
        o.args = [e.k.sysReg 0x009] ∧ o.pos = i ∧ o.stage = .go)))

/-- R367 to R370 and R386: SYSRD reads a system register into S[D] and S[D+1] at t + 3; a SYSWR of TDONE or of a shadow holds for
the next word, and one of a read-only register changes nothing. Outside the handler both, and every other handler-only word, raise
PRIV_OP. SNAP on a stack core fires the trigger and writes its status and sequence number. R373: TIMER with a delay sets CMP to
the clock plus the delay and TT to its landing target, and with delay 0 turns the comparator off; TIMERRD gives the clocks that
remain. The event, taken in place of the warp's next word, pushes that word's PC, goes to TT and clears CMP, with nothing else
changed. -/
def Obligations.SystemRegistersAndTimer : Prop :=
  ((∀ (w : RWord) (s : State) (e : Env) (h : Halt), Handles (.sysrd w) s e h → h.handler ≠ none →
    let v := systemRegister s e (w.fld 11 0)
    exec (.sysrd w) s = after e 3 [.s e.w w.d.toNat (v.setWidth 32), .s e.w (w.d.toNat + 1) ((v >>> 32).setWidth 32)]) ∧
  (∀ (w : RWord) (s : State) (e : Env) (h : Halt), Handles (.syswr w) s e h →
    let i := w.fld 11 0
    ∃ t, exec (.syswr w) s = .next t ∧ moved s e t ∧ counted s e t ∧ sameBytes s t ∧ sameChip s t ∧
      (i = 0x004 ∨ 0x010 ≤ i ∧ i ≤ 0x015 → (t.core e.c).sysReg i = BitVec.ofNat 64 (e.srcA true 0) ∧
        ∀ j, j ≠ i → (t.core e.c).sysReg j = e.k.sysReg j) ∧
      (i < 0x004 ∨ i = 0x100 ∨ i = 0x102 ∨ i = 0x103 → sameRegisters s t)) ∧
  (∀ (i : Instr) (w : RWord) (s : State) (e : Env), fnOf i = some e.fn → envOf s e.fn (bodyOf i) = some e → e.issuable = true →
    s.bad = none → e.formTrap = none → schedTrap e.k e.kernel e.party e.ctl.wait (wordRegs e.st e.w e.fn e.body) = none →
    e.handler = false →
    i ∈ [.rtt w, .rttNext w, .rttEnd w, .rttSaved w, .ctxsv w, .ctxld w, .sysrd w, .syswr w, .scrub w] →
    exec i s = .next (e.raise s 7 (plain .privOp))) ∧
  (∀ (w : RWord) (s : State) (e : Env), Acts (.snap w) s e →
    ∃ t, exec (.snap w) s = .next t ∧ untouched s t ∧ moved s e t ∧ counted s e t ∧ launched s e t .go (fun o => o.lanes = e.act)) ∧
  (∀ (w : RWord) (s : State) (e : SEnv), StackActs (.snap w) s e → s.host0.armed = true →
    ∃ t, exec (.snap w) s = .next t ∧ t.host0 = { s.host0 with armed := false, snaps := s.host0.snaps + 1, snapclk := s.clk } ∧
      t.sc e.g e.k = e.issued.setX w.d.toNat (BitVec.ofNat 64 ((s.host0.snaps + 1) * 2 ^ 32)) ∧ sameBytes s t ∧ sameRegisters s t)) ∧
  ((∀ (w : RWord) (s : State) (e : Env), Acts (.timer w) s e →
    let delay := e.srcA true 0
    let found := e.codeAt (BitVec.ofNat 64 (e.srcB true 0))
    (e.codeReady = false → exec (.timer w) s = .next s) ∧
    (delay = 0 → ∃ t, exec (.timer w) s = .next t ∧ moved s e t ∧ counted s e t ∧ sameBytes s t ∧ sameChip s t ∧
      onlyWarp s t e.c e.w (fun x => { x with cmp := 0 })) ∧
    (delay ≠ 0 → e.codeReady = true → (∀ bs, found = some bs → isLanding (wordOfBytes bs) = true →
      ∃ t, exec (.timer w) s = .next t ∧ moved s e t ∧ counted s e t ∧ sameBytes s t ∧ sameChip s t ∧
        onlyWarp s t e.c e.w (fun x => { x with cmp := BitVec.ofNat 64 (s.clk + delay), tt := BitVec.ofNat 64 (e.srcB true 0) })) ∧
      (∀ bs, found = some bs → isLanding (wordOfBytes bs) = false →
        exec (.timer w) s = .next (e.raise s 7 (plain .targetLand))) ∧
      (found = none →
        exec (.timer w) s = .next (e.raise s 7 (plain .targetFault))))) ∧
  (∀ (w : RWord) (s : State) (e : Env), Acts (.timerrd w) s e →
    let v : Word64 := BitVec.ofNat 64 (if e.wp.cmp = 0 then 0 else e.wp.cmp.toNat - s.clk)
    exec (.timerrd w) s = after e 3 [.s e.w w.d.toNat (v.setWidth 32), .s e.w (w.d.toNat + 1) ((v >>> 32).setWidth 32)]) ∧
  (∀ (s : State) (c v n : Nat) (p : Split) (bs : List Byte),
    let k := s.core c
    let x := k.warp v
    s.bad = none → x.splits = [(n, p)] → x.cmp ≠ 0 → x.cmp.toNat ≤ s.clk → p.defer = [] → p.rets.length < 16 → p.ready ≤ s.clk →
    p.waiting = false → p.held = none → p.bar = none → k.halt = none → (∃ b, k.block = some b ∧ b.failed = none) →
    s.fetchWord k.tlb k.asid p.pc.toNat false = some bs → waitOk x.f (rOf (wordOfBytes bs)).ctl.wait = true →
    ∃ t, exec (.timerEvent c v) s = .next t ∧ sameBytes s t ∧ sameChip s t ∧ onlyWarp s t c v (fun x => { x with cmp := 0 }) ∧
      ((t.core c).warp v).splits = [(n, { p with pc := x.tt, rets := p.pc :: p.rets })]))

/-- R381, R384 and R385: CTXSV writes the bytes of its part at their offsets of the area, and marks the part in the header; CTXLD
writes a part back from the area; SCRUB zeroes what PARTS names and leaves the rest. Each waits until the block is drained. A part
that holds a poisoned half, and a header of another block, are not covered here. A split that is saved comes back as it was. -/
def Obligations.ContextParts : Prop :=
  (∀ (w : RWord) (s : State) (e : Env) (h : Halt), Handles (.ctxsv w) s e h → partReady e w .write → e.k.drained = true →
    (∀ o ∈ e.k.ops, o.fn ≠ .sigWait) → w.fld 4 0 ≠ 0 →
    let part := w.fld 4 0
    let base := e.srcA true 0
    let ws := e.partWarps w
    let u := e.launchOp e.issued .go (fun o => o)
    let xs := partBytes u e.c false part 1 ws
    let mark := leNat (u.areaRead e.blk.asid base 0 8) ||| 2 ^ (16 + part)
    let v := (u.areaPut e.blk.asid base xs).areaPut e.blk.asid base [(0, toLe mark 8)]
    e.k.partPoisoned part ws = false → v.bad = none →
    ∃ t, exec (.ctxsv w) s = .next t ∧ moved s e t ∧ counted s e t ∧ sameRegisters s t ∧ sameBytes v t) ∧
  (∀ (w : RWord) (s : State) (e : Env) (h : Halt), Handles (.ctxld w) s e h → partReady e w .read → w.fld 4 0 = 5 →
    ∃ t, exec (.ctxld w) s = .next t ∧ moved s e t ∧ counted s e t ∧ sameRegisters s t ∧
      (∀ a < e.kernel.scratch, byteAt t (.scratch e.c a) =
        ((s.areaRead e.blk.asid (e.srcA true 0) 0x248000 e.kernel.scratch)[a]?).getD 0) ∧
      (∀ p, (∀ a, p ≠ .scratch e.c a) → byteAt t p = byteAt s p)) ∧
  (∀ (w : RWord) (s : State) (e : Env) (h : Halt), Handles (.scrub w) s e h → e.k.drained = true → (∀ o ∈ e.k.ops, o.fn ≠ .sigWait) →
    let m := w.fld 7 0
    ∃ t, exec (.scrub w) s = .next t ∧ moved s e t ∧ counted s e t ∧ sameChip s t ∧ (
      let k := t.core e.c
      k.scratch = (if m.testBit 0 then [] else e.k.scratch) ∧ k.tiles = (if m.testBit 1 then [] else e.k.tiles) ∧
      k.wbuf = (if m.testBit 2 then [] else e.k.wbuf) ∧ k.codebook = (if m.testBit 3 then [] else e.k.codebook) ∧
      k.tags = (if m.testBit 5 then 0 else e.k.tags) ∧ k.tagerr = (if m.testBit 5 then 0 else e.k.tagerr) ∧
      k.shapes = (if m.testBit 6 then [] else e.k.shapes) ∧
      ∀ v, (k.warp v).v = (if m.testBit 7 then [] else (e.k.warp v).v) ∧ (k.warp v).s = (e.k.warp v).s ∧ (k.warp v).p = (e.k.warp v).p ∧
        ∀ q, (k.warp v).queue q = if m.testBit 4 then {} else (e.k.warp v).queue q)) ∧
  (∀ (p : Split) (clk : Nat), p.rets.length ≤ 16 → p.defer.length ≤ 4 → p.depth < 32 → (∀ d ∈ p.defer, d.depth < 32) →
    (∀ b q, p.bar = some (b, q) → b < 32) →
    splitOf (splitBytes (some p) clk) clk =
      some { pc := p.pc, m := p.m, depth := p.depth, waiting := p.waiting, ready := clk + min (p.ready - clk) 15, landed := clk,
             bar := p.bar, rets := p.rets, defer := p.defer })

/-! Class MEM. -/

namespace Sys2Proof.Spec

open Sys2Proof.Machine

/-- The memory words of the address mould (R146, R147): whether the base is 64 bits wide, whether they store, and their OFF. -/
structure MemForm where
  form : RWord → Instr
  far : Bool
  store : Bool
  off : RWord → Int

def memForms : List MemForm :=
  let off8 (w : RWord) : Int := (w.mod.extractLsb' 0 8).toInt
  let off7 (w : RWord) : Int := (w.mod.extractLsb' 0 7).toInt
  [⟨.ld, true, false, off8⟩, ⟨.st, true, true, off8⟩, ⟨.ldg, true, false, off8⟩, ⟨.stg, true, true, off8⟩,
   ⟨.lds, false, false, off8⟩, ⟨.sts, false, true, off8⟩, ⟨.ldW, false, false, off8⟩, ⟨.ldNf, true, false, fun _ => 0⟩,
   ⟨.ldAcq, true, false, off7⟩, ⟨.stRel, true, true, off7⟩]

/-- A sum of an address, modulo 2^64 or 2^32. -/
def wrapped (far : Bool) (x : Int) : Word64 := if far then BitVec.ofInt 64 x else (BitVec.ofInt 32 x).setWidth 64

/-- The address of a lane (R147): base, index shifted by SCL, and OFF in units of the access size. -/
def laneAddress (f : MemForm) (w : RWord) (e : Env) (l : Nat) : Word64 :=
  let idx : Int := if w.mb 14 then (BitVec.ofNat 32 (e.srcB false l)).toInt else 0
  wrapped f.far ((e.srcA f.far l : Int) + idx * 2 ^ w.fld 17 15 + f.off w * 2 ^ w.fld 21 19)

/-- No retry of an earlier run of its word is outstanding for the stream instance (R154, R252). -/
def noRetry (s : State) (e : Env) : Prop := ∀ r ∈ (s.core e.c).replays, ¬(r.party = e.party ∧ r.slot = e.slot)

/-- Byte `j` of the data that lane `l` of a store captured. -/
def storedByte (o : Op) (l j : Nat) : Byte :=
  BitVec.ofNat 8 ((o.data.get (4 * l + j / 4) 0).toNat / 2 ^ (8 * (j % 4)))

/-- Of the registers, only the lanes of the operation in `n` vector registers from `d` on have changed. -/
def onlyVectors (s t : State) (c w d n : Nat) (lanes : Lanes) : Prop :=
  ∀ c', sameUnit (s.core c') (t.core c') ∧ ∀ w',
    let x := (s.core c').warp w'
    let y := (t.core c').warp w'
    sameWarp { x with v := y.v } y ∧
      ∀ r, (c' = c ∧ w' = w ∧ d ≤ r ∧ r < d + n → ∀ l, lanes.getLsbD l = false → (y.vreg r).lane l = (x.vreg r).lane l) ∧
        (¬(c' = c ∧ w' = w ∧ d ≤ r ∧ r < d + n) → y.vreg r = x.vreg r)

/-- An operation in flight, with the number `id`, that may be performed: its checks have passed and nothing holds it back, the stores
before a release of WARP or BLOCK scope being performed at the core (R291). -/
structure Performs (s : State) (c id : Nat) (o : Op) (w : RWord) : Prop where
  found : (s.core c).findOp id = some o
  stage : o.stage = .go
  body : o.body = .r w
  free : (s.nearRelease c o).accessWaits c o = false
  shown : (s.nearRelease c o).publishWait c o = none
  whole : o.fail = none
  sound : s.bad = none

/-- Lane `l` of an operation lies at `pa` of HBM by the translation that its checks found, on a page of no held region, and no slice
holds its bytes newer. -/
def inHbm (s : State) (c : Nat) (o : Op) (size l pa : Nat) : Prop :=
  ∃ x, tlbFind o.xl (s.core c).asid (o.addr.get l 0).toNat = some x ∧ placeOf x.leaf x.va (o.addr.get l 0).toNat = .hbm pa ∧
    s.heldBy c x.leaf = none ∧ pa + size ≤ hbmTop ∧ settledAt s pa size

end Sys2Proof.Spec

/-- R146 to R154, R292: a memory word of the address mould issues, and its stream instance is held at the word by the checks of
its operation. The operation has the active lanes, the address of each, and, of a store, the registers of its data; no register
and no byte has changed. Its sources are not poisoned; typed store data has its tag. R162, R163, R293: ATOM, ATOMS and ATOMG
launch their checks with the address of each active lane, base and OFF in units of the size, and with the operands B and, for CAS,
D. R157 and R161: PGREQ posts a request for the page of each active lane, under W with the lane as its waiter; PREF changes no
register and, but for what a slice writes back to make room, no byte, whatever its page; WSREF gives the clocks to the next
refresh window of the die and its 320, or 0 and what is left of this one. -/
def Obligations.MemoryWordsLaunch : Prop :=
  (∀ f ∈ memForms, ∀ (w : RWord) (s : State) (e : Env), Acts (f.form w) s e → noRetry s e →
    badTrap e.act 3 e.sourcesA = none → badTrap e.act 3 e.sourcesB = none →
    (f.store = true → badTrap e.act (if w.fld 21 19 ≤ 1 then 1 else 3) e.sourcesD = none ∧
      (w.fld 13 10 = 0 ∨ tagTrap 0 (BitVec.ofNat 4 (w.fld 13 10)) e.sourcesD = none)) →
    ∃ t, exec (f.form w) s = .next t ∧ untouched s t ∧ heldThere s e t ∧ counted s e t ∧
      launched s e t .check (fun o => o.lanes = e.act ∧ (∀ l ∈ e.active, o.addr.get l 0 = laneAddress f w e l) ∧
        (f.store = true → ∀ l ∈ e.active, ∀ j < 4, 4 * j < 2 ^ w.fld 21 19 →
          o.data.get (4 * l + j) 0 = (((s.core e.c).warp e.w).vreg (w.d.toNat + j)).lane l))) ∧
  (∀ (i : Instr) (w : RWord) (s : State) (e : Env) (far : Bool) (off : Int),
    (i = .atom w ∧ far = true ∧ off = (w.mod.extractLsb' 0 9).toInt ∨ i = .atoms w ∧ far = false ∧ off = (w.mod.extractLsb' 0 9).toInt ∨
      i = .atomg w ∧ far = true ∧ off = (w.mod.extractLsb' 0 4).toInt) →
    Acts i s e → noRetry s e → (w.fld 17 14 = 4 → tagTrap 0 (tagOf w.ty) e.sourcesD = none) →
    tagTrap 2 (tagOf w.ty) e.sourcesB = none → e.badCheck = none →
    ∃ t, exec i s = .next t ∧ untouched s t ∧ heldThere s e t ∧ counted s e t ∧
      launched s e t .check (fun o => o.lanes = e.act ∧ ∀ l ∈ e.active,
        o.addr.get l 0 = wrapped far ((e.srcA far l : Int) + off * (tyWidth w.ty / 8 : Nat)) ∧
        atomOperand o 0 l = e.srcB (wide w.ty) l % 2 ^ 64 ∧
        (w.fld 17 14 = 4 → atomOperand o 2 l = e.srcD (wide w.ty) l % 2 ^ 64))) ∧
  ((∀ (w : RWord) (s : State) (e : Env), Acts (.pgreq w) s e → e.badCheck = none →
    ∃ t, exec (.pgreq w) s = .next t ∧ untouched s t ∧ moved s e t ∧ counted s e t ∧
      launched s e t .go (fun o => o.lanes = e.act) ∧
      ∀ l ∈ e.active, ∃ r ∈ t.mmpq, r.asid = e.blk.asid ∧ r.va = (e.byteAddr w l).toNat / 2 ^ 16 * 2 ^ 16 ∧ r.kind = none ∧
        r.ho = e.handler ∧ (w.mb 8 = true → { core := e.c, op := s.opId, lane := l } ∈ r.waiters)) ∧
  (∀ (w : RWord) (s : State) (e : Env), Acts (.pref w) s e → e.badCheck = none →
    ∃ t, exec (.pref w) s = .next t ∧ keeps s t ∧ moved s e t ∧ counted s e t) ∧
  (∀ (w : RWord) (s : State) (e : Env), Acts (.wsref w) s e →
    let ph := (s.clk + 9750 - 1625 * (e.c / 16) % 9750) % 9750
    exec (.wsref w) s = after e 4 (if ph < 320 then [.s e.w w.d.toNat 0, .s e.w (w.d.toNat + 1) (BitVec.ofNat 32 (320 - ph))]
      else [.s e.w w.d.toNat (BitVec.ofNat 32 (9750 - ph)), .s e.w (w.d.toNat + 1) 320])))

/-- R153: an operation all of whose lanes pass their checks is released at the end of clock t + 3: its split stands at the next
word, held no longer, and the operation may be performed; no register and no byte has changed. R152 and R364: an operation of
which a lane fails a check, none having to wait, leaves with the trap that its checks give, and the halt begins with this clock at
its word; nothing of it has been performed, and the lanes done are those of an earlier run of the word. A gather or a scatter
first performs the lanes that pass (R154); that is not stated here. R152: of the causes that the lanes find the trap takes the one
of the highest priority, FMASK the lanes that find a cause of that priority, TADDR the address of the lowest of them. -/
def Obligations.AddressChecks : Prop :=
  (∀ (s : State) (c id v : Nat) (o : Op) (w : RWord) (p : Split),
    o.fn ∈ [.ld, .st, .ldg, .stg, .lds, .sts, .ldW, .ldNf, .ldAcq, .stRel, .atom, .atoms, .atomg, .sigSet, .shld, .shst] →
    (s.core c).findOp id = some o → o.stage = .check → o.body = .r w → o.since + 3 ≤ s.clk → s.bad = none →
    o.party = .compute v → o.handler = false → ((s.core c).warp v).splits.find o.slot = some p →
    (∀ l ∈ opLanes o, s.laneCheck c o.fn o.handler (o.status != 0) o.regions (opSize o) (o.addr.get l 0) = .ok) →
    ∃ t, exec (.addressCheckEnd c id) s = .next t ∧ untouched s t ∧
      (∃ q, (t.core c).findOp id = some q ∧ q.stage = .go ∧ q.addr = o.addr ∧ q.data = o.data ∧ q.lanes = o.lanes ∧ q.fn = o.fn) ∧
      ((t.core c).warp v).splits.find o.slot = some { p with held := none, pc := o.pc + 12 }) ∧
  (∀ (s : State) (c id : Nat) (o : Op) (w : RWord) (x : Trap),
    o.fn ∈ [.ld, .st, .lds, .sts, .ldW, .ldNf, .ldAcq, .stRel, .atom, .atoms, .atomg] →
    (s.core c).findOp id = some o → o.stage = .check → o.body = .r w → o.since + 3 ≤ s.clk → s.bad = none →
    (s.core c).halt = none → o.handler = false →
    (∀ l ∈ opLanes o, s.laneCheck c o.fn o.handler (o.status != 0) o.regions (opSize o) (o.addr.get l 0) ≠ .wait) →
    checkTrap ((opLanes o).map (fun l => (l, o.addr.get l 0,
      s.laneCheck c o.fn o.handler (o.status != 0) o.regions (opSize o) (o.addr.get l 0)))) = some x →
    ∃ t d, exec (.addressCheckEnd c id) s = .next t ∧ untouched s t ∧ completed s t c o ∧
      (t.core c).halt = some { found := s.clk, party := o.party, slot := o.slot, pair2 := s.second, pc := o.pc,
                               trap := { x with done := d } } ∧
      (o.again = false → (∀ r ∈ (s.core c).replays, ¬(r.party = o.party ∧ r.slot = o.slot)) → d = 0)) ∧
  (∀ (xs : List (Nat × Word64 × LaneCheck)) (x : Trap), xs.Pairwise (fun a b => a.1 < b.1) →
    (∀ y ∈ xs, ∀ p c b, y.2.2 = .bad p c b → p < 99) → (∀ y ∈ xs, y.1 < 64) → checkTrap xs = some x →
    ∃ p y, y ∈ xs ∧ (∃ b, y.2.2 = .bad p x.cause b) ∧ x.addr = y.2.1 ∧
      (∀ z ∈ xs, ∀ q c b, z.2.2 = .bad q c b → p ≤ q) ∧
      (∀ z ∈ xs, ∀ c b, z.2.2 = .bad p c b → y.1 ≤ z.1) ∧
      (∀ l, x.fmask.getLsbD l = true ↔ ∃ z ∈ xs, z.1 = l ∧ ∃ c b, z.2.2 = .bad p c b))

/-- R148, R151 and R158: an LDS whose checks have passed writes, at its completion, the little-endian bytes of the block's
scratchpad into its registers, in its lanes, under its TAG; an STS writes its data there, a higher lane's byte standing, and
every other byte of every memory reads as before. R154, R158 and R161: an LD.W outside a refresh window reads the weight store
of its core's die; an LD.NF of one lane writes it where its page is resident and says in its predicate whether it is. Neither
changes a byte, but for what a slice writes back to make room. -/
def Obligations.CoreLocalLoadsAndStores : Prop :=
  ((∀ (s : State) (c id v : Nat) (o : Op) (w : RWord) (lanes : Lanes), Performs s c id o w → o.fn = .lds → o.party = .compute v →
    o.lanes ≠ 0 → w.fld 21 19 ≤ 4 →
    let size := 2 ^ w.fld 21 19
    ∃ t, exec (.memAccessCompletion c id lanes .ok) s = .next t ∧ completed s t c o ∧ sameBytes s t ∧
      onlyVectors s t c v w.d.toNat ((size + 3) / 4) o.lanes ∧
      ∀ j < (size + 3) / 4, (((t.core c).warp v).vreg (w.d.toNat + j)).tag = BitVec.ofNat 4 (w.fld 13 10) ∧
        ∀ l ∈ opLanes o, (((t.core c).warp v).vreg (w.d.toNat + j)).lane l =
          loadedWord w size (numberAt s (.scratch c) (o.addr.get l 0).toNat size) j) ∧
  (∀ (s : State) (c id : Nat) (o : Op) (w : RWord) (lanes : Lanes), Performs s c id o w → o.fn = .sts → w.fld 21 19 ≤ 4 →
    let size := 2 ^ w.fld 21 19
    let meets (l a : Nat) : Prop := (o.addr.get l 0).toNat ≤ a ∧ a < (o.addr.get l 0).toNat + size
    ∃ t, exec (.memAccessCompletion c id lanes .ok) s = .next t ∧ completed s t c o ∧ sameRegisters s t ∧
      (∀ a, ∀ l ∈ opLanes o, meets l a → (∀ k ∈ opLanes o, l < k → ¬meets k a) →
        byteAt t (.scratch c a) = storedByte o l (a - (o.addr.get l 0).toNat)) ∧
      (∀ p, (∀ a, p = .scratch c a → ∀ l ∈ opLanes o, ¬meets l a) → byteAt t p = byteAt s p))) ∧
  ((∀ (s : State) (c id v : Nat) (o : Op) (w : RWord), Performs s c id o w → o.fn = .ldW → o.party = .compute v → o.lanes ≠ 0 →
    w.fld 21 19 ≤ 4 → s.refreshing (dieOf c) = false →
    let size := 2 ^ w.fld 21 19
    ∃ t, exec (.memAccessCompletion c id 0 .ok) s = .next t ∧ completed s t c o ∧ sameBytes s t ∧ sameChip s t ∧
      onlyVectors s t c v w.d.toNat ((size + 3) / 4) o.lanes ∧
      ∀ j < (size + 3) / 4, (((t.core c).warp v).vreg (w.d.toNat + j)).tag = BitVec.ofNat 4 (w.fld 13 10) ∧
        ∀ l ∈ opLanes o, (((t.core c).warp v).vreg (w.d.toNat + j)).lane l =
          loadedWord w size (numberAt s .weights (wsKey (dieOf c) (o.addr.get l 0).toNat) size) j) ∧
  (∀ (s : State) (c id v l pa : Nat) (o : Op) (w : RWord), Performs s c id o w → o.fn = .ldNf → o.party = .compute v → opLanes o = [l] →
    w.fld 21 19 ≤ 2 → w.fld 3 0 < 15 →
    let size := 2 ^ w.fld 21 19
    (o.done.getLsbD l = true → s.windowWaits c o = false → s.badLanes c o = 0 →
      ∃ t, exec (.memAccessCompletion c id 0 .ok) s = .next t ∧ completed s t c o ∧ sameBytes s t ∧
        (((t.core c).warp v).p.get (w.fld 3 0) 0).getLsbD l = false) ∧
    (o.done.getLsbD l = false → w.fld 9 8 ≠ 0 → inHbm s c o size l pa →
      ∃ t, exec (.memAccessCompletion c id 0 .ok) s = .next t ∧ completed s t c o ∧ keepsBytes s t ∧
        (((t.core c).warp v).p.get (w.fld 3 0) 0).getLsbD l = true ∧
        (((t.core c).warp v).vreg w.d.toNat).lane l = loadedWord w size (numberAt s .hbm pa size) 0)))

/-- R148 to R151 and R292: an LD or LDG that is not of the default cache policy, and an LD.ACQ, read their bytes from HBM at the
point of coherence; an ST, STG or ST.REL writes its data there, a higher lane's byte standing, and every other byte of every
memory reads as before, but for what slices write back to make room. The lanes lie in HBM, on pages of no held region. -/
def Obligations.HbmLoadsAndStores : Prop :=
  (∀ (s : State) (c id v : Nat) (o : Op) (w : RWord) (pa : Nat → Nat), Performs s c id o w →
    (o.fn = .ld ∨ o.fn = .ldg) ∧ w.fld 9 8 ≠ 0 ∨ o.fn = .ldAcq → o.party = .compute v → o.lanes ≠ 0 → w.fld 21 19 ≤ 4 →
    (∀ l ∈ opLanes o, inHbm s c o (2 ^ w.fld 21 19) l (pa l)) →
    let size := 2 ^ w.fld 21 19
    ∃ t, exec (.memAccessCompletion c id 0 .ok) s = .next t ∧ completed s t c o ∧ keepsBytes s t ∧
      onlyVectors s t c v w.d.toNat ((size + 3) / 4) o.lanes ∧
      ∀ j < (size + 3) / 4, (((t.core c).warp v).vreg (w.d.toNat + j)).tag = BitVec.ofNat 4 (w.fld 13 10) ∧
        ∀ l ∈ opLanes o, (((t.core c).warp v).vreg (w.d.toNat + j)).lane l = loadedWord w size (numberAt s .hbm (pa l) size) j) ∧
  (∀ (s : State) (c id : Nat) (o : Op) (w : RWord) (pa : Nat → Nat), Performs s c id o w →
    o.fn = .st ∨ o.fn = .stg ∨ o.fn = .stRel → w.fld 21 19 ≤ 4 → (∀ l ∈ opLanes o, inHbm s c o (2 ^ w.fld 21 19) l (pa l)) →
    let size := 2 ^ w.fld 21 19
    let meets (l a : Nat) : Prop := pa l ≤ a ∧ a < pa l + size
    ∃ t, exec (.memAccessCompletion c id 0 .ok) s = .next t ∧ completed (s.nearRelease c o) t c o ∧ sameRegisters s t ∧
      (∀ a, ∀ l ∈ opLanes o, meets l a → (∀ k ∈ opLanes o, l < k → ¬meets k a) → byteAt t (.hbm a) = storedByte o l (a - pa l)) ∧
      keepsBut s t (fun p => ∃ a, p = .hbm a ∧ ∃ l ∈ opLanes o, meets l a))

/-! Shape records, copies and tags; quantised tiles. -/

namespace Sys2Proof.Spec

open Sys2Proof.Machine

/-- `n` bytes from `va` on lie in HBM from `pa` on, on pages of no held region, by the translations that an operation's checks found;
and no slice holds them newer. -/
def spanInHbm (s : State) (c : Nat) (o : Op) (va n pa : Nat) : Prop :=
  va % 64 = pa % 64 ∧ pa + n ≤ hbmTop ∧ settledAt s pa n ∧
    ∀ i < n, ∃ x, tlbFind (o.xl ++ (s.core c).tlb) (s.core c).asid (va + i) = some x ∧ placeOf x.leaf x.va (va + i) = .hbm (pa + i) ∧
      s.heldBy c x.leaf = none

/-- No slice holds a sector of a region newer than HBM does (R311). -/
def allSettled (s : State) : Prop := ∀ k x, s.heldBytes.find k = some x → x.m = false

/-- A copy has begun under a tag: the tag is busy, not done and not failed, the other tags are as before, and no byte and no
register of a warp has changed (R202). -/
def begun (s : State) (e : Env) (t : State) (tag : Nat) : Prop :=
  let k := s.core e.c
  let n := t.core e.c
  (∀ i < 64, n.busy.getLsbD i = (decide (i = tag) || k.busy.getLsbD i) ∧ n.tags.getLsbD i = (decide (i ≠ tag) && k.tags.getLsbD i) ∧
    n.tagerr.getLsbD i = (decide (i ≠ tag) && k.tagerr.getLsbD i)) ∧
    sameBytes s t ∧ sameChip s t ∧ ∀ c w, sameWarp ((s.core c).warp w) ((t.core c).warp w)

/-- The register of its stream that a tag instruction writes (R207). -/
def tagResult (e : Env) (d x : Nat) : List Wr :=
  if e.st = .access then [.a e.w d (BitVec.ofNat 64 x)] else if e.st = .matrix then [.m d (BitVec.ofNat 32 x)]
  else [.s e.w d (BitVec.ofNat 32 x)]

/-- `t` is the lowest tag of a set, 64 when it is empty. -/
def lowestOf (m : Word64) (t : Nat) : Prop := (t = 64 ∧ m = 0) ∨ (t < 64 ∧ m.getLsbD t = true ∧ ∀ i < t, m.getLsbD i = false)

/-- A copy in flight that may be performed: the writes that it must observe are done (R206). -/
structure Copies (s : State) (c id : Nat) (o : Op) : Prop where
  found : (s.core c).findOp id = some o
  copy : isCopy o.fn = true
  running : o.stage ≠ .done
  ordered : (s.core c).writesDone o.party o.id = true
  sound : s.bad = none

end Sys2Proof.Spec

/-- R200 to R202 and R228: a CPT, CPTM, CPW, CPL or WBLD whose record, addresses and ranges pass its checks begins: its tag is
busy, and the copy is in flight with what it captured. A copy whose tag is busy waits. R198, R201 to R205: a copy at its start all
of whose pages are there, while no shootdown is pending, moves its chunks and completes: its tag is done (here where no slice
holds a sector of a region newer than HBM, and no chunk comes from a module through a relay). A chunk of a tensor that comes from
HBM stands at its place of the image of every receiver (or of the weight buffer), where no other chunk is delivered; a copy of one
chunk to HBM leaves the image's bytes there and touches no other byte of memory. Learning that a chunk that it has reached has
failed, the engine takes the status and the address of the failure; a copy that has failed completes with its tag done and failed,
under its record. -/
def Obligations.CopiesBeginAndComplete : Prop :=
  ((∀ (i : Instr) (w : RWord) (s : State) (e : Env) (x : Shape), i = .cpt w ∨ i = .cptm w ∨ i = .cpw w → Acts i s e →
    let tag := w.fld 21 16
    let a := e.srcA false 0
    (e.k.busy.getLsbD tag = true → exec i s = .next s) ∧
    (e.k.busy.getLsbD tag = false → e.k.shapeFree w.d.toNat = true → parseShape (e.k.shapeBytes w.d.toNat) = some x →
      e.coordTrap w x.rank = none → (i = .cpw w → x.swz = 0) → a % 16 = 0 → (x.swz ≠ 0 → a % x.span = 0) →
      e.src false w.bsel w.b.toNat 0 * x.width % 128 = 0 →
      (i ≠ .cpw w → a + x.row * x.rows ≤ e.kernel.scratch) → (i = .cpw w → a + x.row * x.rows ≤ 0x80000) →
      ∃ t, exec i s = .next t ∧ moved s e t ∧ counted s e t ∧ begun s e t tag ∧
        launched s e t .go (fun o => o.bytes = e.k.shapeBytes w.d.toNat ∧ o.args = BitVec.ofNat 64 a ::
          (List.range x.rank).map (fun j => BitVec.ofNat 64 (e.src false w.bsel (w.b.toNat + j) 0))))) ∧
  (∀ (w : RWord) (s : State) (e : Env), Acts (.cpl w) s e → e.k.busy.getLsbD (w.fld 21 16) = false →
    let r (i : Nat) : Nat := if e.st = .access then e.wp.areg (w.a.toNat + i) else e.wp.sreg true (w.a.toNat + 2 * i)
    let dst := if w.mb 15 then r 0 % 2 ^ 32 else r 0
    let src := if w.mb 14 then r 1 % 2 ^ 32 else r 1
    let len := r 2 % 2 ^ 32
    dst % 16 = 0 → src % 16 = 0 → len % 16 = 0 → len ≤ 0x1000000 → (w.mb 15 = true → dst + len ≤ e.kernel.scratch) →
    (w.mb 14 = true → src + len ≤ e.kernel.scratch) →
    ∃ t, exec (.cpl w) s = .next t ∧ moved s e t ∧ counted s e t ∧ begun s e t (w.fld 21 16) ∧
      launched s e t .go (fun o => o.args = [BitVec.ofNat 64 dst, BitVec.ofNat 64 src, BitVec.ofNat 64 len])) ∧
  (∀ (w : RWord) (s : State) (e : Env), Acts (.wbld w) s e → e.k.busy.getLsbD (w.fld 21 16) = false →
    let src := e.k.mreg true w.a.toNat
    let len := e.k.mreg false (w.a.toNat + 2)
    let off := e.k.mreg false w.b.toNat
    src % 16 = 0 → off % 16 = 0 → len % 16 = 0 → off + len ≤ 0x80000 →
    (w.mb 15 = true → src + len ≤ 0x20000000 ∧ s.wsGranted e.c = true) →
    ∃ t, exec (.wbld w) s = .next t ∧ moved s e t ∧ counted s e t ∧ begun s e t (w.fld 21 16) ∧
      launched s e t .go (fun o => o.args = [BitVec.ofNat 64 off, BitVec.ofNat 64 src, BitVec.ofNat 64 len]))) ∧
  ((∀ (s : State) (c id : Nat) (o : Op) (w : RWord), Copies s c id o → o.body = .r w → o.status = 0 → o.pos = 0 →
    (∀ x ∈ copyChunks o, chunkReady s c o x = true) → s.shootPending (s.core c).asid = false → allSettled s →
    let u := s.fillCtlb c ((copyChunks o).map (fun x => x.sides.map (·.1))).flatten
    ¬(o.fn = .cptm ∧ ∃ d ∈ copyTargets s c o, (s.core d).kernel.scratch < imageTop o) →
    (∀ x ∈ copyChunks o, ∀ a, x.dst ≠ .mem a) → (∀ x ∈ copyChunks o, ∀ a, x.src ≠ .scr a) →
    (∀ x ∈ copyChunks o, ∀ a leaf pa, x.src = .mem a → u.copyPage c o .read a = .ok leaf (.hbm pa) → pa + 16 ≤ hbmTop) →
    (∀ x ∈ copyChunks o, ∀ a leaf m off r, x.src = .mem a → u.copyPage c o .read a = .ok leaf (.window m off) →
      s.route m none ≠ .relay r) →
    ∃ t, exec (.copyCompletion c id) s = .next t ∧
      (t.core c).busy.getLsbD (w.fld 21 16) = false ∧ (t.core c).tags.getLsbD (w.fld 21 16) = true ∧
      (t.core c).tagerr.getLsbD (w.fld 21 16) = false ∧
      (∀ x ∈ copyChunks o, ∀ a leaf pa b, x.src = .mem a → x.lo = 0 → x.hi = 128 → u.copyPage c o .read a = .ok leaf (.hbm pa) →
        u.heldBy c leaf = none → pa % 16 = 0 →
        (x.dst = .scr b → (∀ y ∈ copyChunks o, ∀ b', y ≠ x → y.dst = .scr b' → b' + 16 ≤ b ∨ b + 16 ≤ b') →
          ∀ d ∈ copyReceivers s c o, ∀ j < 16, byteAt t (.scratch d (b + j)) = byteAt s (.hbm (pa + j))) ∧
        (x.dst = .wb b → (∀ y ∈ copyChunks o, ∀ b', y ≠ x → y.dst = .wb b' → b' + 16 ≤ b ∨ b + 16 ≤ b') →
          ∀ j < 16, byteAt t (.buffer c (b + j)) = byteAt s (.hbm (pa + j)))) ∧
      (∀ p, (∀ d a, p ≠ .scratch d a) → (∀ a, p ≠ .buffer c a) → byteAt t p = byteAt s p)) ∧
  (∀ (s : State) (c id a b pa leaf : Nat) (o : Op) (w : RWord) (x : Chunk), Copies s c id o → o.body = .r w → o.status = 0 → o.fn ≠ .cptm →
    o.pos = 0 → s.shootPending (s.core c).asid = false → allSettled s → copyChunks o = [x] → x.src = .scr b → x.dst = .mem a → x.lo = 0 → x.hi = 128 → chunkReady s c o x = true →
    (s.fillCtlb c [a]).copyPage c o .write a = .ok leaf (.hbm pa) → s.heldBy c leaf = none → pa + 16 ≤ hbmTop → pa % 16 = 0 →
    ∃ t, exec (.copyCompletion c id) s = .next t ∧ (t.core c).tags.getLsbD (w.fld 21 16) = true ∧
      (∀ j < 16, byteAt t (.hbm (pa + j)) = byteAt s (.scratch c (b + j))) ∧
      (∀ p, (∀ j < 16, p ≠ .hbm (pa + j)) → byteAt t p = byteAt s p)) ∧
  (∀ (s : State) (c id : Nat) (o : Op) (w : RWord), Copies s c id o → o.body = .r w → o.status ≠ 0 →
    ∃ t, exec (.copyCompletion c id) s = .next t ∧ sameBytes s t ∧ (t.core c).busy.getLsbD (w.fld 21 16) = false ∧
      (t.core c).tags.getLsbD (w.fld 21 16) = true ∧ (t.core c).tagerr.getLsbD (w.fld 21 16) = true ∧
      ((t.core c).tagrec.get (w.fld 21 16) {}).status = o.status ∧ ((t.core c).tagrec.get (w.fld 21 16) {}).faddr = o.faddr) ∧
  (∀ (s : State) (c id n status : Nat) (o : Op) (x : Chunk), Copies s c id o → o.status = 0 → (copyChunks o)[n]? = some x →
    failsWith s c o x status = true → copyReached s c o (copyChunks o) n = true →
    ∃ t q, exec (.copyFailure c id n status []) s = .next t ∧ untouched s t ∧ (t.core c).findOp id = some q ∧ q.status = status ∧
      q.faddr = failAddr s c o x status))

/-- R196 to R199: SHLD and SHST launch their check with their address, while no load or SHSET of their record is incomplete;
performed, SHLD puts the 128 bytes of memory into its record and SHST the record that it captured into memory, with every other
byte as before but for what slices write back to make room (memory here being HBM, and the L1 empty for the load). SHSET writes
one word of the record, two clocks later. R207 to R209: WAITALL goes on when none of its tags is busy, WAITANY when one of its
tags is done or none is busy, WAITC when the engine-class counter has fallen to n; before that they do nothing. WAITANY gives the
lowest of its tags that is done, 64 where none is; TAGFIND the lowest of its tags that is done, or with MODE not busy; TAGCLR
clears, of what is not busy, the done bits and the failures. A failed copy raises COPY_FAULT instead at the WAITALL that names its
tag, at the WAITANY whose result it is, and at a WAITC of the copy class that finds it; a KV error waiting to be reported is
raised at a WAITC of the gather class. -/
def Obligations.ShapeRecordsAndTags : Prop :=
  ((∀ (i : Instr) (w : RWord) (s : State) (e : Env), i = .shld w ∨ i = .shst w → Acts i s e → e.k.shapeFree w.d.toNat = true →
    ∃ t, exec i s = .next t ∧ untouched s t ∧ heldThere s e t ∧ counted s e t ∧
      launched s e t .check (fun o => o.lanes = e.act ∧ (∀ l ∈ e.active, o.addr.get l 0 = BitVec.ofNat 64 (e.srcA true 0)) ∧
        (i = .shst w → o.bytes = (List.range 128).map (fun j => byteAt s (.shape e.c (128 * w.d.toNat + j)))))) ∧
  (∀ (s : State) (c id l pa : Nat) (o : Op) (w : RWord), Performs s c id o w → o.fn = .shld → (opLanes o).head? = some l →
    (s.core c).l1 = [] → spanInHbm s c o (o.addr.get l 0).toNat 128 pa →
    ∃ t, exec (.memAccessCompletion c id 0 .ok) s = .next t ∧ completed s t c o ∧ sameRegisters s t ∧
      (∀ j < 128, byteAt t (.shape c (128 * w.d.toNat + j)) = byteAt s (.hbm (pa + j))) ∧
      keepsBut s t (fun p => ∃ j < 128, p = .shape c (128 * w.d.toNat + j))) ∧
  (∀ (s : State) (c id l pa : Nat) (o : Op) (w : RWord), Performs s c id o w → o.fn = .shst → (opLanes o).head? = some l →
    o.bytes.length = 128 → spanInHbm s c o (o.addr.get l 0).toNat 128 pa →
    ∃ t, exec (.memAccessCompletion c id 0 .ok) s = .next t ∧ completed s t c o ∧ sameRegisters s t ∧
      (∀ j < 128, byteAt t (.hbm (pa + j)) = o.bytes[j]?.getD 0) ∧
      keepsBut s t (fun p => ∃ j < 128, p = .hbm (pa + j))) ∧
  (∀ (w : RWord) (s : State) (e : Env), Acts (.shset w) s e → e.k.shapeFree w.d.toNat = true →
    exec (.shset w) s = after e 2 [.sh w.d.toNat (w.fld 4 0) (BitVec.ofNat 32 (e.srcA false 0))])) ∧
  ((∀ (w : RWord) (s : State) (e : Env), Acts (.waitall w) s e →
    let m : Word64 := BitVec.ofNat 64 (e.srcA true 0)
    (e.k.busy &&& m ≠ 0 → exec (.waitall w) s = .next s) ∧
    (e.k.busy &&& m = 0 → e.k.tagerr &&& m = 0 → exec (.waitall w) s = after e 1 []) ∧
    (∀ t, e.k.busy &&& m = 0 → t < 64 → lowestOf (e.k.tagerr &&& m) t →
      exec (.waitall w) s = .next (e.raise s 7 (e.k.copyTrap t)))) ∧
  (∀ (w : RWord) (s : State) (e : Env) (t : Nat), Acts (.waitany w) s e →
    let m : Word64 := BitVec.ofNat 64 (e.srcA true 0)
    lowestOf (e.k.tags &&& m) t →
    (t = 64 → e.k.busy &&& m ≠ 0 → exec (.waitany w) s = .next s) ∧
    (t < 64 → e.k.tagerr.getLsbD t = true → exec (.waitany w) s = .next (e.raise s 7 (e.k.copyTrap t))) ∧
    ((t = 64 → e.k.busy &&& m = 0) → (t < 64 → e.k.tagerr.getLsbD t = false) →
      exec (.waitany w) s = after e 3 (tagResult e w.d.toNat t))) ∧
  (∀ (w : RWord) (s : State) (e : Env) (t : Nat), Acts (.tagfind w) s e →
    lowestOf (BitVec.ofNat 64 (e.srcA true 0) &&& (if w.mb 0 then ~~~e.k.busy else e.k.tags)) t →
    exec (.tagfind w) s = after e 3 (tagResult e w.d.toNat t)) ∧
  (∀ (w : RWord) (s : State) (e : Env), Acts (.tagclr w) s e →
    let m : Word64 := BitVec.ofNat 64 (e.srcA true 0) &&& ~~~e.k.busy
    ∃ t, exec (.tagclr w) s = .next t ∧ moved s e t ∧ counted s e t ∧ sameBytes s t ∧ sameChip s t ∧
      (∀ c x, sameWarp ((s.core c).warp x) ((t.core c).warp x)) ∧ (t.core e.c).busy = e.k.busy ∧
      (t.core e.c).tags = e.k.tags &&& ~~~m ∧ (t.core e.c).tagerr = e.k.tagerr &&& ~~~m) ∧
  (∀ (w : RWord) (s : State) (e : Env), Acts (.waitc w) s e →
    let n := w.fld 7 0
    let left := e.wp.eng.get (w.fld 21 20) 0
    let found := if w.fld 21 20 = 0 then e.k.copyFault e.w (e.wp.copies - n)
      else if w.fld 21 20 = 1 then e.k.kvDataTrap e.w true else none
    (n < left → exec (.waitc w) s = .next s) ∧
    (left ≤ n → found = none → exec (.waitc w) s = after e 1 []) ∧
    (∀ x, left ≤ n → found = some x → exec (.waitc w) s = .next (e.raise s 7 x))))

/-- R92 to R94 and R142 to R145: STQ and LDQ launch their checks with the addresses of each lane and their descriptor; a
descriptor with a reserved bit raises QSHAPE. What STQ writes for a lane has its trailer where R92 puts it and passes every check
that LDQ makes of it. An LDQ of one lane, issued with FLAGS.TRLEN 0 and not before what it must follow, puts the payload of its
tile in HBM into the scratchpad, and says in P whether the trailer agrees. -/
def Obligations.QuantisedTiles : Prop :=
  (∀ (i : Instr) (w : RWord) (s : State) (e : Env), i = .stq w ∨ i = .ldq w → Acts i s e → noRetry s e →
    let x := e.wp.s.get w.d.toNat 0
    (tileDesc w.ty x = none → exec i s = .next (e.raise s 7 (plain .qshape))) ∧
    (tileDesc w.ty x ≠ none → e.badCheck = none →
      ∃ t, exec i s = .next t ∧ untouched s t ∧ heldThere s e t ∧ counted s e t ∧
        launched s e t .check (fun o => o.lanes = e.act ∧ o.args = [x.setWidth 64] ∧ ∀ l ∈ e.active,
          o.addr.get l 0 = BitVec.ofNat 64 (e.srcB true l) ∧ o.data.get l 0 = BitVec.ofNat 32 (e.srcA false l)))) ∧
  (∀ (ty rnd : Nat) (sr sat : Bool) (d : TileDesc) (xs : List Machine.Num) (g : Word), tyWidth ty = 4 ∨ tyWidth ty = 8 ∨ tyWidth ty = 16 →
    xs.length = d.count → d.rows < 256 → d.cols < 256 →
    let bs := (quantTile ty rnd sr sat d xs g).1
    bs.length = d.trailerAt ty + 16 ∧ trailerOk ty d bs = true ∧ d.trailerAt ty % 16 = 0) ∧
  (∀ (s : State) (c id v l pa : Nat) (o : Op) (w : RWord), (s.core c).findOp id = some o → o.fn = .ldq → o.stage = .go → o.body = .r w →
    s.mayPerform c o = true → s.bad = none → o.party = .compute v → opLanes o = [l] → o.todo = 0 → o.fail = none →
    (s.core c).l1 = [] →
    let d := opDesc o w.ty
    let n := d.trailerAt w.ty + 16
    let tile := (List.range n).map (fun j => byteAt s (.hbm (pa + j)))
    spanInHbm s c o (o.addr.get l 0).toNat n pa → s.windowWaits c o = false →
    ∃ t, exec (.variableLatencyCompletion c id) s = .next t ∧ completed s t c o ∧ sameRest s t ∧
      (∀ j < d.payload w.ty, byteAt t (.scratch c ((o.data.get l 0).toNat + j)) = byteAt s (.hbm (pa + j))) ∧
      keepsBut s t (fun p => ∃ j < d.payload w.ty, p = .scratch c ((o.data.get l 0).toNat + j)) ∧
      (w.fld 3 0 < 15 → (((t.core c).warp v).p.get (w.fld 3 0) 0).getLsbD l = !trailerOk w.ty d tile) ∧
      (∀ c' v', let x := (s.core c').warp v'
        sameWarp { x with p := ((t.core c').warp v').p, flags := ((t.core c').warp v').flags } ((t.core c').warp v')))

/-! Class MTX. -/

namespace Sys2Proof.Spec

open Sys2Proof.Machine

/-- Apart from the matrix stream's own registers every register, every byte and the rest of the chip are as before. -/
def onlyMatrix (s t : State) (c : Nat) : Prop :=
  sameBytes s t ∧ sameChip s t ∧ ∀ c', (∀ w, sameWarp ((s.core c').warp w) ((t.core c').warp w)) ∧
    sameUnit { s.core c' with mst := (t.core c').mst } (t.core c') ∧ (c' ≠ c → sameUnit (s.core c') (t.core c'))

/-- Tile `d` of core `c` has become `x`; every other register and every byte are as before. -/
def onlyTile (s t : State) (c d : Nat) (x : Tile) : Prop :=
  sameBytes s t ∧ sameChip s t ∧ (t.core c).tiles.get d {} = x ∧
    ∀ c', (∀ w, sameWarp ((s.core c').warp w) ((t.core c').warp w)) ∧ sameUnit { s.core c' with tiles := (t.core c').tiles } (t.core c') ∧
      ∀ d', ¬(c' = c ∧ d' = d) → (t.core c').tiles.get d' {} = (s.core c').tiles.get d' {}

/-- A word of the array has entered its queue, in the open batch, with what it captured (R213, R223). -/
def enqueued (s : State) (e : Env) (t : State) (p : ArrayOp → Prop) : Prop :=
  ∃ o, (t.core e.c).array = e.k.array ++ [o] ∧ o.id = s.opId ∧ o.fn = e.fn ∧ o.body = e.body ∧ o.pc = e.pc ∧
    o.batch = e.k.mst.bseq ∧ o.performed = false ∧ o.flag = e.ctl.setf.toNat ∧ p o

/-- The oldest array operation that is not performed, with its operands and its time at hand (R219, R221, R226). -/
structure ArrayTurn (s : State) (c : Nat) (o : ArrayOp) : Prop where
  oldest : (s.core c).array.find? (fun o => !o.performed) = some o
  ordered : (s.core c).writesDone .matrix o.id = true
  due : o.due ≤ s.clk + 1
  sound : s.bad = none

/-- The element of row `r` and column `n` of an MMA's tile (R95, R219). -/
def mmaElement (s : State) (c : Nat) (m : MmaArgs) (t : Tile) (r n : Nat) : Word :=
  let k := s.core c
  let acc := if m.acc then decodeF (fmtOf 8) (t.el.get (128 * r + n) 0).toNat else .fin false 0 0
  let sc := if m.sck then blockScales m k.scratch (s.blockByte c m) r n else []
  BitVec.ofNat 32 (enc32 (dotR95 (m.k / 32) (panelRow m k.scratch r) (blockColumn m k.codebook (s.blockByte c m) n) sc m.sck acc))

end Sys2Proof.Spec

/-- R214, R215, R223, R224 and R233: the scalar words of the matrix stream write their M register or condition bit at t + 2; MBR
goes to pc + 12 × IMM32; MFENCE closes the open batch, and gives its number; MWAIT goes on when its batch is complete, and raises
BATCH_OPEN when it is open; MEXIT ends the stream. R229 and R230: TSEQ.INIT takes the table, the number of groups and the list; a
TSEQ.NEXT at a group of at least SMALLG rows gives the next block of up to 128 of its rows and moves past it; with no group left
it gives C = 0 and the count of small groups. Its three M registers and its condition bit are written when it completes. -/
def Obligations.MatrixStreamAndSequencer : Prop :=
  ((∀ (w : RWord) (s : State) (e : Env), Acts (.mmov w) s e →
    exec (.mmov w) s = after e 2 [.m w.d.toNat (BitVec.ofNat 32 (e.srcA false 0))]) ∧
  (∀ (w : IWord) (s : State) (e : Env), Acts (.mmovImm w) s e → exec (.mmovImm w) s = after e 2 [.m w.d.toNat w.imm]) ∧
  (∀ (w : RWord) (s : State) (e : Env), Acts (.madd w) s e →
    exec (.madd w) s = after e 2 [.m w.d.toNat (BitVec.ofNat 32 (e.srcA false 0) + BitVec.ofNat 32 (e.srcB false 0))]) ∧
  (∀ (w : IWord) (s : State) (e : Env), Acts (.maddImm w) s e →
    exec (.maddImm w) s = after e 2 [.m w.d.toNat (e.k.mst.m.get w.a.toNat 0 + w.imm)]) ∧
  (∀ (w : RWord) (s : State) (e : Env), Acts (.mcmp w) s e →
    exec (.mcmp w) s = after e 2 [.mc w.d.toNat
      (intHolds (w.fld 2 0) (val32 w.ty (e.srcA false 0)) (val32 w.ty (e.srcB false 0)))]) ∧
  (∀ (w : IWord) (s : State) (e : Env), Site (.mbr w) s e →
    (e.act = 0 → exec (.mbr w) s = after e 1 []) ∧
    (e.act ≠ 0 → ∃ t, exec (.mbr w) s = .next t ∧ untouched s t ∧ counted s e t ∧ standsAt e t (target e.pc w.imm) (landsAt e))) ∧
  (∀ (w : RWord) (s : State) (e : Env), Acts (.mfence w) s e → e.k.mst.bseq < 2 ^ 32 → e.k.mst.done < 2 ^ 32 →
    ∃ t, exec (.mfence w) s = .next t ∧ untouched s t ∧ moved s e t ∧ counted s e t ∧
      (t.core e.c).mst.bseq = (e.k.mst.bseq + 1) % 2 ^ 32 ∧
      (e.k.array = [] → (t.core e.c).mst.done = (t.core e.c).mst.bseq) ∧
      lands s e t 2 (if w.mb 0 then [.m w.d.toNat (BitVec.ofNat 32 e.k.mst.bseq)] else [])) ∧
  (∀ (w : RWord) (s : State) (e : Env), Acts (.mwait w) s e →
    let b : BitVec 32 := BitVec.ofNat 32 (e.srcA false 0)
    let opened : Prop := (BitVec.ofNat 32 e.k.mst.bseq - 1 - b).toInt < 0
    (opened → exec (.mwait w) s = .next (e.raise s 7 (plain .batchOpen))) ∧
    (¬opened → (BitVec.ofNat 32 e.k.mst.done - b).toInt ≤ 0 → exec (.mwait w) s = .next s) ∧
    (¬opened → 0 < (BitVec.ofNat 32 e.k.mst.done - b).toInt → e.k.mst.pendings = [] → exec (.mwait w) s = after e 1 [])) ∧
  (∀ (w : RWord) (s : State) (e : Env), Site (.mexit w) s e → e.k.mst.pendings = [] →
    ∃ t, exec (.mexit w) s = .next t ∧ counted s e t ∧ onlyMatrix s t e.c ∧ (t.core e.c).mst.mend = true ∧
      (t.core e.c).mst.m = e.k.mst.m ∧ (t.core e.c).mst.c = e.k.mst.c ∧ (t.core e.c).mst.seq = e.k.mst.seq)) ∧
  ((∀ (w : RWord) (s : State) (e : Env), Acts (.tseqInit w) s e →
    let r (i : Nat) : Nat := (e.k.mst.m.get (w.a.toNat + i) 0).toNat
    r 0 % 4 = 0 → r 2 % 16 = 0 → r 1 ≤ 65535 → r 0 + 4 * (r 1 + 1) ≤ e.kernel.scratch →
    ∃ t, exec (.tseqInit w) s = .next t ∧ moved s e t ∧ counted s e t ∧ onlyMatrix s t e.c ∧
      (t.core e.c).mst.seq = { tbl := r 0, g := r 1, lst := r 2, init := true } ∧ (t.core e.c).mst.m = e.k.mst.m ∧
      (t.core e.c).mst.c = e.k.mst.c) ∧
  (∀ (w : RWord) (s : State) (e : Env), Acts (.tseqNext w) s e → e.k.writesDone .matrix s.opId = true →
    let q := e.k.mst.seq
    let entry (i : Nat) : Nat := numberAt s (.scratch e.c) (q.tbl + 4 * i) 4
    let len := entry (q.gi + 1) - entry q.gi
    (q.init = true → q.gi < q.g → entry q.gi < entry (q.gi + 1) → e.kernel.smallg ≤ len →
      ∃ t, exec (.tseqNext w) s = .next t ∧ moved s e t ∧ counted s e t ∧ onlyMatrix s t e.c ∧
        (t.core e.c).mst.seq = (if len ≤ 128 * (q.j + 1) then { q with gi := q.gi + 1, j := 0 } else { q with j := q.j + 1 }) ∧
        launched s e t .go (fun o => o.bytes = [] ∧ (o.arg 0).toNat = (entry q.gi + 128 * q.j) % 2 ^ 64 ∧
          (o.arg 1).toNat = min 128 (len - 128 * q.j) ∧ (o.arg 2).toNat = q.gi % 2 ^ 64 ∧ o.arg 3 = 1)) ∧
    (q.init = true → q.g ≤ q.gi →
      ∃ t, exec (.tseqNext w) s = .next t ∧ moved s e t ∧ counted s e t ∧ untouched s t ∧
        launched s e t .go (fun o => o.bytes = [] ∧ (o.arg 1).toNat = q.n % 2 ^ 64 ∧ o.arg 3 = 0)) ∧
    (q.init = true → q.gi < q.g → entry (q.gi + 1) < entry q.gi →
      exec (.tseqNext w) s = .next (e.raise s 7 (plain .tseqTable)))) ∧
  (∀ (s : State) (c id : Nat) (o : Op) (w : RWord), (s.core c).findOp id = some o → o.fn = .tseqNext → o.stage = .go → o.body = .r w →
    s.bad = none → o.bytes = [] →
    ∃ t, exec (.variableLatencyCompletion c id) s = .next t ∧ completed s t c o ∧ onlyMatrix s t c ∧
      let m := (t.core c).mst
      m.m.get w.d.toNat 0 = (o.arg 0).setWidth 32 ∧ m.m.get (w.d.toNat + 1) 0 = (o.arg 1).setWidth 32 ∧
      m.m.get (w.d.toNat + 2) 0 = (o.arg 2).setWidth 32 ∧ (w.fld 2 1 < 4 → m.c.getLsbD (w.fld 2 1) = (o.arg 3 != 0)) ∧
      m.seq = (s.core c).mst.seq))

/-- R213, R216 to R220, R227 and R231: MMA, CBLD and the matrix stream's TZERO enter the array's queue with what they captured.
Performed, an MMA writes the rows below ROWS with the sums of R95 under tag F32 and keeps the others, a TZERO zeroes its tile, a
CBLD loads the codebook. The oldest operation that is performed leaves, and its counter falls. R233: MSTREAM_ORPHAN is raised at
the MBAR whose hold the stream stands in once every warp has ended. -/
def Obligations.ArrayOperations : Prop :=
  (∀ (w : RWord) (s : State) (e : Env), Acts (.mma w) s e → e.arrayRoom = true → e.k.shapeFree (w.fld 21 18) = true →
    let x := e.k.shapeBytes (w.fld 21 18)
    (∀ y, mmaTrap e.k (s.wsGranted e.c) w (mmaVals e.k w) x = some y → exec (.mma w) s = .next (e.raise s 7 y)) ∧
    (mmaTrap e.k (s.wsGranted e.c) w (mmaVals e.k w) x = none →
      ∃ t, exec (.mma w) s = .next t ∧ untouched s t ∧ moved s e t ∧ counted s e t ∧
        enqueued s e t (fun o => o.args = mmaVals e.k w ∧ o.bytes = x))) ∧
  (∀ (w : RWord) (s : State) (e : Env), Acts (.cbld w) s e → e.arrayRoom = true → e.srcA false 0 % 16 = 0 →
    e.srcA false 0 + 512 ≤ e.kernel.scratch →
    ∃ t, exec (.cbld w) s = .next t ∧ untouched s t ∧ moved s e t ∧ counted s e t ∧
      enqueued s e t (fun o => o.args = [BitVec.ofNat 64 (e.srcA false 0)])) ∧
  (∀ (w : RWord) (s : State) (e : Env), Acts (.tzero w) s e → e.st = .matrix → e.arrayRoom = true →
    ∃ t, exec (.tzero w) s = .next t ∧ untouched s t ∧ moved s e t ∧ counted s e t ∧ enqueued s e t (fun _ => True)) ∧
  (∀ (s : State) (c : Nat) (o : ArrayOp) (w : RWord), ArrayTurn s c o → o.body = .r w →
    let old := (s.core c).tiles.get w.d.toNat {}
    let m := mmaArgs w o.args o.bytes
    (o.fn = .mma → m.rows ≠ 0 → old.bad = [] →
      ∃ t x, exec (.arrayOperationPerform c false) s = .next t ∧ onlyTile s t c w.d.toNat x ∧ x.tag = 6 ∧
        ∀ r n, n < 128 → x.el.get (128 * r + n) 0 = if r < m.rows then mmaElement s c m old r n else old.el.get (128 * r + n) 0) ∧
    (o.fn = .tzero → ∃ t, exec (.arrayOperationPerform c false) s = .next t ∧ onlyTile s t c w.d.toNat { tag := 6 }) ∧
    (o.fn = .cbld → ∃ t, exec (.arrayOperationPerform c false) s = .next t ∧ sameBytes s t ∧ sameChip s t ∧
      (∀ w, sameWarp ((s.core c).warp w) ((t.core c).warp w)) ∧ (t.core c).tiles = (s.core c).tiles ∧
      ∀ i < 256, ((t.core c).codebook.get i 0).toNat = numberAt s (.scratch c) ((o.args.head?.getD 0).toNat + 2 * i) 2)) ∧
  (∀ (s : State) (c : Nat) (o : ArrayOp) (os : List ArrayOp), (s.core c).array = o :: os → o.performed = true → s.bad = none →
    ∃ t, exec (.arrayOperationCompletion c) s = .next t ∧ untouched s t ∧ (t.core c).array = os ∧
      (o.flag ≠ 0 → (t.core c).mst.f.get o.flag 0 = (s.core c).mst.f.get o.flag 0 - 1)) ∧
  (∀ (s : State) (c : Nat), let k := s.core c
    s.bad = none → k.halt = none → k.kernel.matrix = true → k.mst.mend = false → k.mst.bar ≠ none →
    (∃ b, k.block = some b ∧ b.failed = none) → (∀ w < k.kernel.nwarps, (k.warp w).ended = true) →
    ∃ t h, exec (.mstreamOrphan c) s = .next t ∧ untouched s t ∧ (t.core c).halt = some h ∧ h.trap.cause = .mstreamOrphan ∧
      h.party = .matrix ∧ h.pc = k.mst.mpc - 12)

/-- R231, R232 and R49: the tile words of the warps launch with what they captured: TST the image of its tile, TCVT the image
rounded into TYPE, and MMA.V the tile that it accumulates onto. Performed, TZERO zeroes its tile, TLD loads it from the
scratchpad, TST and TCVT store their image there; MMA.V writes the columns of its active lanes as an MMA does. A tile that is not
F32 or RAW, a misaligned address and one outside SCRATCH trap at TLD, TST and TCVT. -/
def Obligations.TileWordsOfWarps : Prop :=
  (∀ (i : Instr) (w : RWord) (s : State) (e : Env), i = .tld w ∨ i = .tst w ∨ i = .tcvt w → Acts i s e →
    let a := e.srcA false 0
    let x := e.k.tiles.get w.d.toNat {}
    let top := a + 16384 * (if i = .tcvt w then tyWidth w.ty else 32) / 8
    let sound := i = .tld w ∨ (x.tag = 0 ∨ x.tag = 6) ∧ x.bad = []
    let n := tyWidth w.ty / 8
    (i ≠ .tld w → x.tag ≠ 0 → x.tag ≠ 6 →
      exec i s = .next (e.raise s 7 { cause := .formatMismatch, aux := BitVec.ofNat 32 (16 * 6 + 256 * x.tag.toNat) })) ∧
    (sound → a % 16 ≠ 0 → exec i s = .next (e.raise s 7 (addrTrap .alignFault a))) ∧
    (sound → a % 16 = 0 → e.kernel.scratch < top → exec i s = .next (e.raise s 7 (addrTrap .scratchRange a))) ∧
    (sound → a % 16 = 0 → top ≤ e.kernel.scratch → ∃ t, exec i s = .next t ∧ untouched s t ∧ moved s e t ∧ counted s e t ∧
      launched s e t .go (fun o => o.arg 0 = BitVec.ofNat 64 a ∧
        (i = .tst w → o.bytes.length = 65536 ∧ ∀ j < 16384, leNat ((o.bytes.drop (4 * j)).take 4) = (x.el.get j 0).toNat) ∧
        (i = .tcvt w → tyWidth w.ty = 8 ∨ tyWidth w.ty = 16 → o.bytes.length = n * 16384 ∧ ∀ j < 16384,
          leNat ((o.bytes.drop (n * j)).take n) =
            (convertNum w.ty (rmode (w.fld 17 16)) (w.mb 14) (decodeF (fmtOf 8) (x.el.get j 0).toNat)).1 % 2 ^ tyWidth w.ty)))) ∧
  (∀ (w : RWord) (s : State) (e : Env), Acts (.tzero w) s e → e.st ≠ .matrix →
    ∃ t, exec (.tzero w) s = .next t ∧ untouched s t ∧ moved s e t ∧ counted s e t ∧ launched s e t .go (fun _ => True)) ∧
  (∀ (w : RWord) (s : State) (e : Env), Acts (.mmaV w) s e → e.k.shapeFree (w.fld 21 18) = true →
    let x := e.k.shapeBytes (w.fld 21 18)
    mmaTrap e.k (s.wsGranted e.c) w (mmaVVals e.wp w) x = none → (e.k.tiles.get w.d.toNat {}).bad = [] →
    ∃ t, exec (.mmaV w) s = .next t ∧ untouched s t ∧ moved s e t ∧ counted s e t ∧
      launched s e t .go (fun o => o.args = mmaVVals e.wp w ∧ o.bytes = x ∧ o.lanes = e.act ∧
        ((mmaArgs w (mmaVVals e.wp w) x).acc = true → o.data = (e.k.tiles.get w.d.toNat {}).el))) ∧
  (∀ (s : State) (c id : Nat) (o : Op) (w : RWord), (s.core c).findOp id = some o → o.stage = .go → o.body = .r w →
    s.mayPerform c o = true → s.bad = none →
    let old := (s.core c).tiles.get w.d.toNat {}
    let a := (o.arg 0).toNat
    let m := mmaArgs w o.args o.bytes
    (o.fn = .tzero → ∃ t, exec (.variableLatencyCompletion c id) s = .next t ∧ completed s t c o ∧
      onlyTile s t c w.d.toNat { tag := 6 }) ∧
    (o.fn = .tld → ∃ t x, exec (.variableLatencyCompletion c id) s = .next t ∧ completed s t c o ∧
      onlyTile s t c w.d.toNat x ∧ x.tag = 6 ∧ x.bad = [] ∧
      ∀ i < 16384, (x.el.get i 0).toNat = numberAt s (.scratch c) (a + 4 * i) 4) ∧
    (o.fn = .tst ∨ o.fn = .tcvt → ∃ t, exec (.variableLatencyCompletion c id) s = .next t ∧ completed s t c o ∧ sameRegisters s t ∧
      (∀ j < o.bytes.length, byteAt t (.scratch c (a + j)) = (o.bytes[j]?).getD 0) ∧
      (∀ p, (∀ j < o.bytes.length, p ≠ .scratch c (a + j)) → byteAt t p = byteAt s p)) ∧
    (o.fn = .mmaV → (m.ws = true → s.refreshing (dieOf c) = false) → m.rows ≠ 0 → mmaCols o ≠ [] → old.bad = [] →
      ∃ t x, exec (.variableLatencyCompletion c id) s = .next t ∧ completed s t c o ∧ onlyTile s t c w.d.toNat x ∧ x.tag = 6 ∧
        ∀ r n, n < 128 → x.el.get (128 * r + n) 0 =
          if r < m.rows ∧ n ∈ mmaCols o then mmaElement s c m { old with el := o.data } r n else old.el.get (128 * r + n) 0))

/-! Class KVA. -/

namespace Sys2Proof.Spec

open Sys2Proof.Machine

/-- The coordinate that a lane names, and its operand's tag, poison and space are in order (R242). -/
def kvReady (e : Env) : Prop := e.coordTag = none ∧ e.badCheck = none ∧ e.kvSpaceTrap = none

/-- A per-lane KV operation in flight, of one lane, that may be performed. -/
structure KvTurn (s : State) (c id v l : Nat) (o : Op) (w : RWord) : Prop where
  found : (s.core c).findOp id = some o
  stage : o.stage = .go
  body : o.body = .r w
  party : o.party = .compute v
  lanes : opLanes o = [l]
  eng : o.eng = none
  sound : s.bad = none

/-- The result code of a lane stands in its V register under tag I32; every other register of the cores is as before. -/
def coded (s t : State) (c v l : Nat) (o : Op) (w : RWord) (code : Nat) : Prop :=
  completed s t c o ∧ onlyVectors s t c v w.d.toNat 1 (BitVec.ofNat 64 (2 ^ l)) ∧
    (((t.core c).warp v).vreg w.d.toNat).lane l = BitVec.ofNat 32 code ∧ (((t.core c).warp v).vreg w.d.toNat).tag = tagOf 0

end Sys2Proof.Spec

/-- R236 to R240 and R242 to R247: KVSEL sets the space of its stream; KPROBE, KMAP and KUNMAP launch with the coordinate of each
active lane, KST with its rows as well. Performed on a lane, KPROBE gives its status, with OVF and FILL of a resident page;
KUNMAP and KMAP give OOB outside the space and BAD_STATE at a page of another status, and change no byte then; KUNMAP of a page
that is mapped gives OK, once no walker reads its frame, and so does a KMAP of an unmapped page of a table that stands, where the
backing page suits. A KST that is done gives the codes of its lanes. R246 and R247: a KST of one lane at a resident page with a
sound header appends where its position is the page's FILL: the header's FILL is one more, every byte outside the page is as
before but for what slices write back to make room, and the stream is released. At another position it gives ORDER and leaves
every byte. A page that is not mapped raises KV_FAULT at the word, with its coordinate. -/
def Obligations.KvSpacesAndAppends : Prop :=
  ((∀ (w : RWord) (s : State) (e : Env), Acts (.kvsel w) s e →
    let v : BitVec 4 := if w.mb 4 then BitVec.ofNat 4 (w.fld 3 0) else BitVec.ofNat 4 (e.srcA false 0)
    ∃ t, exec (.kvsel w) s = .next t ∧ moved s e t ∧ counted s e t ∧ sameBytes s t ∧ sameChip s t ∧
      onlyWarp s t e.c e.w (fun x => if e.st = .access then { x with akvs := v } else { x with kvs := v })) ∧
  (∀ (i : Instr) (w : RWord) (s : State) (e : Env), i = .kprobe w ∨ i = .kunmap w ∨ i = .kmap w →
    Acts i s e → kvReady e → (i = .kmap w → tagTrap 2 (tagOf 6) e.sourcesB = none) →
    (let a := (e.wp.s.get (w.fld 7 0) 0).toNat
     i = .kmap w → w.mb 21 = true → a % 16 = 0 ∧ a + 2 * e.space.dh * e.active.length ≤ e.kernel.scratch) →
    ∃ t, exec i s = .next t ∧ untouched s t ∧ moved s e t ∧ counted s e t ∧ launched s e t .go (fun o => o.lanes = e.act ∧
      o.arg 0 = BitVec.ofNat 64 e.kvs ∧ (∀ l ∈ e.active, o.addr.get l 0 = e.coordinate l) ∧
      (i = .kmap w → ∀ l ∈ e.active, kmapVa o l = e.srcB true l % 2 ^ 64))) ∧
  (∀ (w : RWord) (s : State) (e : Env), Acts (.kst w) s e → kvReady e → noRetry s e → tagTrap 2 (tagOf 0) e.sourcesB = none →
    (∀ l ∈ e.active, e.srcB false l % 16 = 0 ∧ e.srcB false l + 2 * e.space.dh * (if w.mb 21 then 2 else 4) ≤ e.kernel.scratch) →
    ∃ t, exec (.kst w) s = .next t ∧ untouched s t ∧ heldThere s e t ∧ counted s e t ∧ launched s e t .check (fun o =>
      o.lanes = e.act ∧ o.arg 0 = BitVec.ofNat 64 e.kvs ∧
      ∀ l ∈ e.active, o.addr.get l 0 = e.coordinate l ∧ o.data.get l 0 = BitVec.ofNat 32 (e.srcB false l))) ∧
  (∀ (s : State) (c id v l : Nat) (o : Op) (w : RWord), KvTurn s c id v l o w →
    let x := (o.addr.get l 0).toNat
    let d := s.opSpace c o
    let st := (s.kvStatus d x).1
    let frame := (s.kvStatus d x).2.1
    (o.fn = .kprobe → ∃ t, exec (.variableLatencyCompletion c id) s = .next t ∧ sameBytes s t ∧ sameChip s t ∧
      coded s t c v l o w (if st = 0 then
        (if (byteAt s (.hbm frame)).getLsbD 0 then 8 else 0) + (byteAt s (.hbm (frame + 1))).toNat * 2 ^ 8 else st)) ∧
    (o.fn = .kunmap → st = 1 ∨ st = 5 → ∃ t, exec (.variableLatencyCompletion c id) s = .next t ∧ sameBytes s t ∧ sameChip s t ∧
      coded s t c v l o w (if st = 5 then 5 else 3)) ∧
    (o.fn = .kunmap → ((st = 0 ∨ st = 4) ∧ s.kvReading frame = false) ∨ st = 2 → (s.kunmapLane c o l).2.bad = none →
      ∃ t, exec (.variableLatencyCompletion c id) s = .next t ∧ coded s t c v l o w 0 ∧ sameBytes (s.kunmapLane c o l).2 t) ∧
    (o.fn = .kmap → s.kmapWaits c o = [] → (s.kmapLane c o l).2.bad = none →
      ∃ t, exec (.variableLatencyCompletion c id) s = .next t ∧ coded s t c v l o w (s.kmapLane c o l).1 ∧
        sameBytes (s.kmapLane c o l).2 t ∧ (d.oob x = true → (s.kmapLane c o l).1 = 5 ∧ sameBytes s t) ∧
        (st ≠ 1 → st ≠ 5 → (s.kmapLane c o l).1 = 3 ∧ sameBytes s t) ∧
        (st = 1 → (s.kvStatus d x).2.2 ≠ none →
          s.backing (s.core c).asid (kmapVa o l) (kvPageSize d.dh) o.handler ≠ none → (s.kmapLane c o l).1 = 0)) ∧
    (o.fn = .kst → (o.outs.get l 0).toNat < 2 ^ 32 → ∃ t, exec (.variableLatencyCompletion c id) s = .next t ∧ sameBytes s t ∧
      sameChip s t ∧ coded s t c v l o w (o.outs.get l 0).toNat)) ∧
  (∀ (d : KvSpace) (s : State) (x : Nat), d.nseq < coordSeq x ∨ d.nlayer < coordLayer x ∨ d.nhead < coordHead x ∨
    d.npage < coordPos x / 64 → (s.kvStatus d x).1 = 5)) ∧
  (∀ (s : State) (c id v l : Nat) (o : Op) (w : RWord) (p : Split), (s.core c).findOp id = some o → o.fn = .kst → o.stage = .check →
    o.body = .r w → o.since + 3 ≤ s.clk → s.bad = none → o.party = .compute v → o.handler = false → opLanes o = [l] →
    ((s.core c).warp v).splits.find o.slot = some p → o.bad = 0 →
    let x := (o.addr.get l 0).toNat
    let d := s.opSpace c o
    (∀ frame fill ovf oc e, s.kvStatus d x = (0, frame, e) → s.kvHeader d frame = some (fill, ovf, oc) → frame + 192 + 99 * d.dh ≤ hbmTop →
      ∃ t q, exec (.addressCheckEnd c id) s = .next t ∧ (t.core c).findOp id = some q ∧ q.stage = .go ∧ sameRegisters s t ∧
        ((t.core c).warp v).splits.find o.slot = some { p with held := none, pc := o.pc + 12 } ∧
        (coordPos x % 64 = fill → (byteAt t (.hbm (frame + 1))).toNat = fill + 1 ∧
          keepsBut s t (fun p => ∃ a, p = .hbm a ∧ frame ≤ a ∧ a < frame + 192 + 99 * d.dh) ∧ (q.outs.get l 0 = 0 ∨ q.outs.get l 0 = 1)) ∧
        (coordPos x % 64 ≠ fill → sameBytes s t ∧ q.outs.get l 0 = 2)) ∧
    (∀ frame e, s.kvStatus d x = (1, frame, e) → (s.core c).halt = none →
      ∃ t h, exec (.addressCheckEnd c id) s = .next t ∧ sameBytes s t ∧ (t.core c).halt = some h ∧ h.pc = o.pc ∧ h.trap.cause = .kvFault ∧
        h.trap.addr = o.addr.get l 0 ∧ h.trap.aux = 1))

/-- R248 to R252: a KLD launches its walk; where every page of its positions is resident with a sound header the walk ends, the
stream goes on, and each row lands decoded in the scratchpad, at SP + i × the stride, when the load completes; its barrier then
counts one arrival in every receiver. The walk ends with KV_FAULT where the first page that is not resident is not mapped. R240,
R241, R253 and R254: what happens to KV pages. A wait of 200 µs of a walk ends, and the page counts as it then stands. Poisoning a
page, once no walker reads its frame, sets its entry to POISON and drops it from every walker; losing the data of a page asks
for that, and marks the row or the lane that lost it. The start of an eviction sets the entry IN_FLIGHT, and so does that of a
restore, the frames being there or found; where they are not found the restore is refused, and the entry stays. No register
changes, and no byte but those of the entry and what slices write back to make room. -/
def Obligations.KvTilesAndPages : Prop :=
  ((∀ (i : Instr) (w : RWord) (s : State) (e : Env), i = .kldK w ∨ i = .kldV w → Acts i s e → e.kvSpaceTrap = none → noRetry s e →
    let x := e.tileArgs
    let lay := x.2.2
    let row := 2 * e.space.dh
    let rs := 16 * (lay / 2 ^ 8 % 2 ^ 16)
    lay / 2 ^ 24 % 2 ^ 8 = 0 → row ≤ rs → (w.mb 21 = true → w.fld 20 17 ≠ 0) → x.2.1 % 16 = 0 →
    x.2.1 + lay % 2 ^ 8 * rs + row ≤ e.kernel.scratch →
    ∃ t, exec i s = .next t ∧ untouched s t ∧ heldThere s e t ∧ counted s e t ∧
      launched s e t .check (fun o => o.pos = 0 ∧
        o.args = [x.1, BitVec.ofNat 64 x.2.1, BitVec.ofNat 64 lay, BitVec.ofNat 64 e.kvs])) ∧
  (∀ (s : State) (c id v : Nat) (o : Op) (p : Split), (s.core c).findOp id = some o → o.fn = .kldK ∨ o.fn = .kldV → o.stage = .check →
    s.bad = none → o.party = .compute v → o.handler = false → ((s.core c).warp v).splits.find o.slot = some p →
    (s.tileBlock c o = none → ∃ t q, exec (.kldWalkEnd c id) s = .next t ∧ untouched s t ∧ (t.core c).findOp id = some q ∧
      q.stage = .go ∧ ((t.core c).warp v).splits.find o.slot = some { p with held := none, pc := o.pc + 12 } ∧
      ∀ i ∈ tileTodo o, (q.outs.get i 0).toNat = (s.tileStatus c o i).2.1 % 2 ^ 64 ∧
        (q.data.get i 0).toNat = (s.tileStatus c o i).2.2 % 2 ^ 32) ∧
    (∀ i, s.tileBlock c o = some (i, 1) → (s.core c).halt = none → arrivals c o = none →
      ∃ t h, exec (.kldWalkEnd c id) s = .next t ∧ sameRegisters s t ∧ (t.core c).halt = some h ∧ h.pc = o.pc ∧
        h.trap.cause = .kvFault ∧ h.trap.aux = 1)) ∧
  (∀ (s : State) (c id : Nat) (o : Op), (s.core c).findOp id = some o → o.fn = .kldK ∨ o.fn = .kldV → o.stage = .go → s.bad = none →
    arrivals c o = none → o.addr = [] →
    let d := s.tileSpace c o
    2 * d.dh ≤ tileStride o →
    ∃ t, exec (.kldCompletion c id) s = .next t ∧ completed s t c o ∧ sameRegisters s t ∧
      (∀ i ∈ tileTodo o, ∀ j < 2 * d.dh, byteAt t (.scratch c ((o.arg 1).toNat + i * tileStride o + j)) =
        (s.kvRow d (o.fn == .kldK) (o.outs.get i 0).toNat (o.data.get i 0).toNat ((coordPos (o.arg 0).toNat + i) % 64))[j]?.getD 0) ∧
      (∀ q, (∀ i ∈ tileTodo o, ∀ j < 2 * d.dh, q ≠ .scratch c ((o.arg 1).toNat + i * tileStride o + j)) → byteAt t q = byteAt s q)) ∧
  (∀ (s : State) (c id b : Nat) (cs : List Nat) (o : Op), (s.core c).findOp id = some o → o.fn = .kldK ∨ o.fn = .kldV →
    o.stage = .go → s.bad = none → arrivals c o = some (b, cs) → cs.Nodup →
    ∃ t, exec (.kldCompletion c id) s = .next t ∧ ∀ d ∈ cs, s.sameLaunch c d = true →
      ((t.core d).bar b).n = if ((s.core d).bar b).n + 1 = ((s.core d).bar b).expect then 0 else ((s.core d).bar b).n + 1)) ∧
  ((∀ (s : State) (c id : Nat) (o : Op), (s.core c).findOp id = some o → o.fn = .kldK ∨ o.fn = .kldV ∨ o.fn = .kst → o.stage = .check →
    s.bad = none →
    let late (x : Nat × Nat) : Bool := decide (x.2 + ticksOf 200 ≤ s.ref)
    (∃ x ∈ o.kvw, late x = true) →
    ∃ t q, exec (.kvWalkWaitTimeout c id) s = .next t ∧ untouched s t ∧ (t.core c).findOp id = some q ∧
      q = { o with kvw := o.kvw.filter (fun x => !late x), outs := q.outs } ∧
      (∀ x ∈ o.kvw, late x = true → q.outs.get x.1 0 = 1) ∧
      (∀ k, (∀ x ∈ o.kvw, x.1 = k → late x = false) → q.outs.get k 0 = o.outs.get k 0)) ∧
  (∀ (s : State) (asid n frame e : Nat) (x : BitVec 64), s.bad = none → ((s.ctx asid).kvSpace n).isSome = true →
    s.kvStatus (s.spaceOf asid n) x.toNat = (0, frame, some e) → s.kvReading frame = false → e + 8 ≤ hbmTop → frame < 2 ^ 64 →
    ∃ t, exec (.kvPagePoison asid n x) s = .next t ∧ t.hbm.num e 8 = frame / 2 ^ 12 * 2 ^ 12 + 4 ∧
      keepsBut s t (fun p => ∃ j < 8, p = .hbm (e + j)) ∧ sameRegisters s t ∧
      (∀ c, ∀ y ∈ (t.core c).kvc, ¬(y.asid = asid ∧ y.space = n ∧ y.page = coordPage x.toNat))) ∧
  (∀ (s : State) (c id i : Nat) (o : Op), (s.core c).findOp id = some o → s.bad = none →
    (∀ x, o.fn = .kldK ∨ o.fn = .kldV → o.stage = .go → (o.outs.find i).isSome = true → tileCoord o i = some x →
      ∃ t q, exec (.kvDataError c id i) s = .next t ∧ untouched s t ∧
        t.kvSpoilt (s.core c).asid (o.arg 3).toNat (coordPage x) = true ∧
        (t.core c).findOp id = some q ∧ (q.addr.find i).isSome = true) ∧
    (o.fn = .kst → o.stage = .check → o.lanes.getLsbD i = true →
      ∃ t q, exec (.kvDataError c id i) s = .next t ∧ untouched s t ∧
        t.kvSpoilt (s.core c).asid (o.arg 0).toNat (coordPage (o.addr.get i 0).toNat) = true ∧
        (t.core c).findOp id = some q ∧ q.bad.getLsbD i = true)) ∧
  (∀ (s : State) (asid n frame e : Nat) (x : BitVec 64), s.bad = none → ((s.ctx asid).kvSpace n).isSome = true → e + 8 ≤ hbmTop →
    frame < 2 ^ 64 →
    (s.kvStatus (s.spaceOf asid n) x.toNat = (0, frame, some e) →
      ∀ le size leaf, s.leafOf asid (s.kvBack.get e default).va = some (le, size, leaf) →
        s.kvBack.all (fun y => y.1 == e || y.2.asid != asid || decide (y.2.va / size ≠ (s.kvBack.get e default).va / size)) = true →
        (s.ctx asid).hostPins.get ((s.kvBack.get e default).va - (s.kvBack.get e default).va % size) false = false →
        s.kvReading frame = false → s.kvSpoilt asid n (coordPage x.toNat) = false →
        ∃ t, exec (.kvPageEviction asid n x false) s = .next t ∧ t.hbm.num e 8 = frame / 2 ^ 12 * 2 ^ 12 + 3 ∧
          keepsBut s t (fun p => ∃ j < 8, p = .hbm (e + j)) ∧ sameRegisters s t) ∧
    (∀ f le size leaf, s.kvStatus (s.spaceOf asid n) x.toNat = (2, frame, some e) →
      s.leafOf asid (s.kvBack.get e default).va = some (le, size, leaf) →
      (leafSt leaf = 0 ∨ s.restoreOk asid f (size / 2 ^ 16) = true →
        ∃ t, exec (.kvPageRestore asid n x f false) s = .next t ∧ t.hbm.num e 8 = frame / 2 ^ 12 * 2 ^ 12 + 3 ∧
          keepsBut s t (fun p => ∃ j < 8, p = .hbm (e + j)) ∧ sameRegisters s t) ∧
      (leafSt leaf ≠ 0 → s.restoreOk asid f (size / 2 ^ 16) = false →
        ∃ t, exec (.kvPageRestore asid n x f false) s = .next t ∧ untouched s t))))

/-! Class STK: the stack profile's own words, and commands from warps to stack cores. -/

namespace Sys2Proof.Spec

open Sys2Proof.Machine

/-- The vector words of the stack profile (R274): a lane of the result and its flags, from the lanes of A, B and old D. -/
def zForms : List ((RWord → Instr) × (RWord → Nat → Nat → Nat → Nat × Nat)) :=
  let int (f : BitVec 16 → BitVec 16 → BitVec 16) (a b : Nat) : Nat × Nat := ((f (BitVec.ofNat 16 a) (BitVec.ofNat 16 b)).toNat, 0)
  let v (ty a : Nat) : Int := if tySigned ty then (BitVec.ofNat 16 a).toInt else ((BitVec.ofNat 16 a).toNat : Int)
  [(.zadd, fun w a b _ => if w.ty = 9 then addF (fmtOf 9) .rn false a b else int (fun x y => x + y) a b),
   (.zsub, fun w a b _ => if w.ty = 9 then subF (fmtOf 9) .rn false a b else int (fun x y => x - y) a b),
   (.zmul, fun w a b _ => if w.ty = 9 then mulF (fmtOf 9) .rn false a b else int (fun x y => x * y) a b),
   (.zmin, fun w a b _ => if w.ty = 9 then minMaxF (fmtOf 9) false false a b else if v w.ty a < v w.ty b then (a, 0) else (b, 0)),
   (.zmax, fun w a b _ => if w.ty = 9 then minMaxF (fmtOf 9) true false a b else if v w.ty a < v w.ty b then (b, 0) else (a, 0)),
   (.zcmp, fun w a b _ => if w.ty = 9 then
       (let r := floatCond (w.fld 2 0) (decodeF (fmtOf 9) a) (decodeF (fmtOf 9) b)
        (if r.1 then 0xFFFF else 0, r.2))
     else (if intHolds (w.fld 2 0) (v w.ty a) (v w.ty b) then 0xFFFF else 0, 0)),
   (.zsel, fun _ a b d => (((BitVec.ofNat 16 a &&& BitVec.ofNat 16 d) ||| (BitVec.ofNat 16 b &&& ~~~BitVec.ofNat 16 d)).toNat, 0)),
   (.zcvt, fun w a _ _ => let r := convElem w.ty (w.fld 3 0) (w.fld 17 16) false (w.mb 14) a 0; (r.val, r.fl))]

/-- The address of a scratchpad access of a stack core (R272): X[A] plus OFF in units of the size, modulo 2^64. -/
def scratchAddress (w : RWord) (e : SEnv) (size : Nat) : Nat :=
  (e.sc.xreg w.a.toNat + BitVec.ofInt 64 ((BitVec.ofNat 16 (w.fld 15 0)).toInt * (size : Int))).toNat

/-- An NMX in flight of one lane, delivered next: nothing earlier of its stream stands before it (R267). -/
structure Delivers (s : State) (c id v l n : Nat) (o : Op) (w : RWord) : Prop where
  found : (s.core c).findOp id = some o
  stage : o.stage = .go
  body : o.body = .r w
  party : o.party = .compute v
  lane : opLanes o = [l]
  first : ∀ x ∈ (s.core c).ops, ¬(x.id < o.id ∧ x.party = o.party ∧ x.eng = some 2 ∧ x.stage = .go)
  ordered : (s.core c).writesDone o.party o.id = true
  target : s.target c (s.core c).asid (stackOf c w) (w.fld 16 11 + l) = .ok n
  sound : s.bad = none

end Sys2Proof.Spec

/-- R272, R274 and R275: the words of the stack profile. XLD, XST, ZLD and ZST move their bytes between registers and the stack
core's scratchpad; the vector words act on 32 lanes of 16 bits and set the sticky bits; ZBCAST, ZRED and ZMOV; CMDEND ends the
command or kernel with its status and result. Nothing but the stack core changes. A misaligned access and one past the end end
the command with their status. R273, R276 and R277: RCLAIM takes a range of the near window, or says in its condition bit that
sixteen are taken; RREL releases the ranges that it meets. BDMA.LD and BDMA.ST enter one of eight transfers; completed, a load
has the slice's bytes in the scratchpad and a store the scratchpad's bytes in HBM, and no other byte has changed. -/
def Obligations.StackCoreWordsClaimsAndDma : Prop :=
  ((∀ f ∈ zForms, ∀ (w : RWord) (s : State) (e : SEnv), StackActs (f.1 w) s e →
    let r (i : Nat) := f.2 w (zLane (e.sc.zreg w.a.toNat) i) (zLane (e.sc.zreg w.b.toNat) i) (zLane (e.sc.zreg w.d.toNat) i)
    ∃ z, (∀ i < 32, zLane z i = (r i).1 % 2 ^ 16) ∧
      exec (f.1 w) s = .next (s.setSc e.g e.k ((e.issued.setZ w.d.toNat z).addSticky
        ((List.range 32).foldl (fun acc i => acc ||| (r i).2) 0)))) ∧
  (∀ (i : Instr) (w : RWord) (s : State) (e : SEnv), i = .xld w ∨ i = .xst w ∨ i = .zld w ∨ i = .zst w → StackActs i s e →
    let n := if i = .xld w ∨ i = .xst w then 2 ^ w.fld 21 19 else 64
    let a := scratchAddress w e n
    let v := e.sc.scratch.num a n
    (a % n ≠ 0 → exec i s = .next (s.setSc e.g e.k (endedAt e.sc e.sc.pc 0x94 0))) ∧
    (a % n = 0 → 0x20000 < a + n → exec i s = .next (s.setSc e.g e.k (endedAt e.sc e.sc.pc 0x95 0))) ∧
    (a % n = 0 → a + n ≤ 0x20000 → n ≤ 8 ∨ n = 64 →
      (i = .xld w → exec i s = .next (s.setSc e.g e.k (e.issued.setX w.d.toNat
        (if w.mb 18 then (BitVec.ofNat (8 * n) v).signExtend 64 else BitVec.ofNat 64 v)))) ∧
      (i = .zld w → exec i s = .next (s.setSc e.g e.k (e.issued.setZ w.d.toNat (BitVec.ofNat 512 v)))) ∧
      (i = .xst w ∨ i = .zst w → ∃ t m, exec i s = .next t ∧ t = s.setSc e.g e.k { e.issued with scratch := m } ∧
        m.num a n = (if i = .xst w then (e.sc.xreg w.d.toNat).toNat else (e.sc.zreg w.d.toNat).toNat) % 2 ^ (8 * n) ∧
        ∀ b, b < a ∨ a + n ≤ b → m.get b 0 = e.sc.scratch.get b 0))) ∧
  (∀ (w : RWord) (s : State) (e : SEnv), StackActs (.zbcast w) s e →
    ∃ z, exec (.zbcast w) s = .next (s.setSc e.g e.k (e.issued.setZ w.d.toNat z)) ∧ ∀ i < 32, zLane z i =
      if w.mb 5 then zLane (e.sc.zreg w.a.toNat) (w.fld 4 0) else (e.sc.xreg w.a.toNat).toNat % 2 ^ 16) ∧
  (∀ (w : RWord) (s : State) (e : SEnv), StackActs (.zmov w) s e →
    let lane := w.fld 6 2
    (w.fld 1 0 = 0 → exec (.zmov w) s = .next (s.setSc e.g e.k (e.issued.setZ w.d.toNat (e.sc.zreg w.a.toNat)))) ∧
    (w.fld 1 0 = 1 → ∃ z, exec (.zmov w) s = .next (s.setSc e.g e.k (e.issued.setZ w.d.toNat z)) ∧ ∀ i < 32, zLane z i =
      if i = lane then (e.sc.xreg w.a.toNat).toNat % 2 ^ 16 else zLane (e.sc.zreg w.d.toNat) i) ∧
    (w.fld 1 0 = 2 → exec (.zmov w) s = .next (s.setSc e.g e.k (e.issued.setX w.d.toNat
      (BitVec.ofNat 64 (zLane (e.sc.zreg w.a.toNat) lane))))) ∧
    (w.fld 1 0 = 3 → exec (.zmov w) s = .next (s.setSc e.g e.k
      { e.issued.setX w.d.toNat (e.sc.sflags.setWidth 64) with sflags := e.sc.sflags &&& 0xF }))) ∧
  (∀ (w : RWord) (s : State) (e : SEnv), StackActs (.zred w) s e → w.ty ≠ 9 → w.fld 1 0 = 0 →
    exec (.zred w) s = .next (s.setSc e.g e.k (e.issued.setX w.d.toNat (BitVec.ofNat 64
      ((List.range 32).foldl (fun acc i => (acc + zLane (e.sc.zreg w.a.toNat) i) % 2 ^ 16) ((e.sc.xreg w.d.toNat).toNat % 2 ^ 16)))))) ∧
  (∀ (w : RWord) (s : State) (e : SEnv), StackActs (.cmdend w) s e →
    exec (.cmdend w) s = .next (s.setSc e.g e.k (endedAt e.issued e.sc.pc (w.fld 6 0) (e.sc.xreg w.a.toNat))))) ∧
  ((∀ (w : RWord) (s : State) (e : SEnv), StackActs (.rclaim w) s e →
    let a := (e.sc.xreg w.a.toNat).toNat
    let n := (e.sc.xreg w.b.toNat).toNat
    let x := e.issued
    (n = 0 → exec (.rclaim w) s = .next (s.setSc e.g e.k (setCond x w.d.toNat true))) ∧
    (n ≠ 0 → e.sc.nearOk a n = false → exec (.rclaim w) s = .next (s.setSc e.g e.k (endedAt e.sc e.sc.pc 0x96 0))) ∧
    (n ≠ 0 → e.sc.nearOk a n = true → e.sc.claims.length < 16 → exec (.rclaim w) s = .next (s.setSc e.g e.k
      (setCond { x with claims := e.sc.claims ++ [⟨a, a + n⟩] } w.d.toNat true))) ∧
    (n ≠ 0 → e.sc.nearOk a n = true → 16 ≤ e.sc.claims.length →
      exec (.rclaim w) s = .next (s.setSc e.g e.k (setCond x w.d.toNat false)))) ∧
  (∀ (w : RWord) (s : State) (e : SEnv), StackActs (.rrel w) s e → e.sc.deferral = [] →
    ∃ t, exec (.rrel w) s = .next t ∧ sameBytes s t ∧ sameRegisters s t ∧ (t.sc e.g e.k).pc = e.sc.pc + 12 ∧
      ∀ c, c ∈ (t.sc e.g e.k).claims ↔ c ∈ e.sc.claims ∧ w.mb 0 = false ∧
        ¬(c.lo < (e.sc.xreg w.a.toNat).toNat + (e.sc.xreg w.b.toNat).toNat ∧ (e.sc.xreg w.a.toNat).toNat < c.hi ∧
          0 < (e.sc.xreg w.b.toNat).toNat)) ∧
  (∀ (i : Instr) (w : RWord) (s : State) (e : SEnv) (ld : Bool), (i = .bdmaLd w ∧ ld = true) ∨ (i = .bdmaSt w ∧ ld = false) →
    StackActs i s e →
    let near := (e.sc.xreg w.a.toNat).toNat
    let len := (e.sc.xreg w.b.toNat).toNat
    let scr := (e.sc.xreg w.d.toNat).toNat
    let n := e.ctl.setf.toNat
    (8 ≤ e.sc.dmas.length → exec i s = .next s) ∧
    (e.sc.dmas.length < 8 → scr % 64 = 0 → near % 64 = 0 → len % 64 = 0 → scr + len ≤ 0x20000 → len ≠ 0 → e.sc.nearOk near len = true →
      exec i s = .next (s.setSc e.g e.k { e.issued with
        dmas := e.sc.dmas ++ [⟨e.sc.nextDma, ld, near, scr, len, n⟩], nextDma := e.sc.nextDma + 1,
        f := if n = 0 then e.sc.f else e.sc.f.put n (e.sc.f.get n 0 + 1) 0 }))) ∧
  (∀ (s : State) (g k id : Nat) (d : Dma), (s.sc g k).dmas.find? (fun d => d.id == id) = some d → s.bad = none →
    let pa := nearPa g k d.near
    ∃ t, exec (.bankDmaCompletion g k id false) s = .next t ∧ sameRegisters s t ∧
      (t.sc g k).dmas = (s.sc g k).dmas.filter (fun y => y.id != id) ∧
      (d.load = true → (∀ j < d.len, byteAt t (.near g k (d.scr + j)) = byteAt s (.hbm (pa + j))) ∧
        ∀ p, (∀ j < d.len, p ≠ .near g k (d.scr + j)) → byteAt t p = byteAt s p) ∧
      (d.load = false → (∀ j < d.len, byteAt t (.hbm (pa + j)) = byteAt s (.near g k (d.scr + j))) ∧
        ∀ p, (∀ j < d.len, p ≠ .hbm (pa + j)) → byteAt t p = byteAt s p)))

/-- R264 to R270: NMX, NMXB, NMXR and NMXC launch with their operands. A delivered NMX enters the queue of its stack core, or,
where eight stand there, reports QUEUE_FULL at once; NMXR gives the status word; NMXC takes the context's commands out of the
queue. A command starts at its entry with its argument in X1; its time-out and a bad entry end it; its report gives its lane the
result and whether its status is other than 0. An NMXB whose image has been read puts it into the instruction memory. An access
whose deferral has lasted 100 µs leaves it. -/
def Obligations.StackCommands : Prop :=
  (∀ (i : Instr) (w : RWord) (s : State) (e : Env), i = .nmx w ∨ i = .nmxb w ∨ i = .nmxr w ∨ i = .nmxc w → Acts i s e →
    (i = .nmx w → e.badCheck = none) →
    ∃ t, exec i s = .next t ∧ untouched s t ∧ moved s e t ∧ counted s e t ∧ launched s e t .go (fun o => o.lanes = e.act ∧
      (i = .nmx w → o.arg 0 = BitVec.ofNat 64 (e.srcA false 0) ∧ ∀ l ∈ e.active,
        o.data.get (2 * l) 0 = BitVec.ofNat 32 (e.srcB true l) ∧ o.data.get (2 * l + 1) 0 = BitVec.ofNat 32 (e.srcB true l / 2 ^ 32)) ∧
      (i = .nmxb w → o.args = [BitVec.ofNat 64 (e.srcA true 0), BitVec.ofNat 64 (e.srcB false 0)]))) ∧
  (∀ (s : State) (c id v l n : Nat) (o : Op) (w : RWord), Delivers s c id v l n o w →
    let g := stackOf c w
    let x := s.sc g n
    (o.fn = .nmx → x.queue.length < 8 → ∃ t, exec (.variableLatencyCompletion c id) s = .next t ∧ sameRegisters s t ∧ sameBytes s t ∧
      t.sc g n = { x with queue := x.queue ++ [{ core := c, op := id, lane := l, asid := (s.core c).asid, load := false, args :=
        [o.arg 0, (o.data.get (2 * l) 0).setWidth 64 ||| ((o.data.get (2 * l + 1) 0).setWidth 64 <<< 32), BitVec.ofNat 64 (w.fld 10 6)] }] }) ∧
    (o.fn = .nmx → 8 ≤ x.queue.length → w.fld 5 2 < 15 → ∃ t, exec (.variableLatencyCompletion c id) s = .next t ∧ sameBytes s t ∧
      sameChip s t ∧ completed s t c o ∧ (((t.core c).warp v).p.get (w.fld 5 2) 0).getLsbD l = true) ∧
    (o.fn = .nmxr → ∃ t, exec (.variableLatencyCompletion c id) s = .next t ∧ sameBytes s t ∧ sameChip s t ∧ completed s t c o ∧
      onlyVectors s t c v w.d.toNat 2 (BitVec.ofNat 64 (2 ^ l)) ∧
      (((t.core c).warp v).vreg w.d.toNat).lane l = x.status.setWidth 32 ∧
      (((t.core c).warp v).vreg (w.d.toNat + 1)).lane l = (x.status >>> 32).setWidth 32) ∧
    (o.fn = .nmxc → x.job = .idle → ∃ t, exec (.variableLatencyCompletion c id) s = .next t ∧ sameBytes s t ∧
      (∀ y ∈ (t.core c).ops, y.id = id → y.stage = .done) ∧ ∀ y, y ∈ (t.sc g n).queue ↔ y ∈ x.queue ∧ y.asid ≠ (s.core c).asid)) ∧
  (∀ (s : State) (g k entry : Nat) (y : StackCmd) (ys : List StackCmd), let x := s.sc g k
    s.bad = none → x.queue = y :: ys → x.job = .idle → y.load = false → x.saved = none → entry = (y.args.head?.getD 0).toNat →
    ∃ t, exec (.stackCommandStart g k) s = .next t ∧ sameRegisters s t ∧ sameBytes s t ∧ (
      let z := t.sc g k
      z.job = .command y ∧ z.pc = entry ∧ z.xreg 1 = (y.args[1]?).getD 0 ∧ (∀ r, r ≠ 1 → z.xreg r = x.xreg r) ∧ z.sflags = 0 ∧
      z.rets = [] ∧ z.claims = [] ∧ z.z = x.z ∧ z.queue = x.queue ∧ z.started = s.sclk ∧
      (entry % 4 = 0 → entry ≤ 32756 → z.ending = none) ∧ (entry % 4 ≠ 0 ∨ 32756 < entry → z.ending = some 0x82))) ∧
  (∀ (s : State) (g k : Nat) (y : StackCmd), let x := s.sc g k
    s.bad = none → x.job = .command y → x.ending = none → x.started + 2 ^ (((y.args[2]?).getD 0).toNat + 10) ≤ s.sclk →
    ∃ t, exec (.stackCommandTimeout g k) s = .next t ∧ sameRegisters s t ∧ sameBytes s t ∧ (t.sc g k).ending = some 0x83) ∧
  (∀ (s : State) (g k st v : Nat) (y : StackCmd) (o : Op) (w : RWord), let x := s.sc g k
    s.bad = none → x.job = .command y → x.ending = some st → x.dmas = [] → x.deferral = [] → (s.core y.core).findOp y.op = some o →
    o.fn = .nmx → o.body = .r w → o.party = .compute v → w.mb 1 = false → w.fld 5 2 < 15 → o.todo = BitVec.ofNat 64 (2 ^ y.lane) →
    y.lane < 64 →
    let r : Word64 := if st ≤ 0x7F then x.result else 0
    ∃ t, exec (.stackCommandReport g k) s = .next t ∧ sameBytes s t ∧ completed s t y.core o ∧
      (t.sc g k).job = .idle ∧ (t.sc g k).queue = x.queue.drop 1 ∧ (t.sc g k).claims = [] ∧ (t.sc g k).ending = none ∧
      (((t.core y.core).warp v).vreg w.d.toNat).lane y.lane = r.setWidth 32 ∧
      (((t.core y.core).warp v).vreg (w.d.toNat + 1)).lane y.lane = (r >>> 32).setWidth 32 ∧
      (((t.core y.core).warp v).p.get (w.fld 5 2) 0).getLsbD y.lane = decide (st ≠ 0)) ∧
  (∀ (s : State) (g k : Nat) (y : StackCmd) (ys : List StackCmd) (o : Op), let x := s.sc g k
    s.bad = none → x.queue = y :: ys → x.job = .idle → y.load = true → x.saved = none → (s.core y.core).findOp y.op = some o →
    o.status = 1 →
    let off := (o.arg 1).toNat % 2 ^ 16
    off % 4 = 0 → off + (o.arg 1).toNat / 2 ^ 16 % 2 ^ 16 * 4 ≤ 32768 →
    ∃ t, exec (.nmxbLoadEntry g k true) s = .next t ∧ (t.sc g k).queue = ys ∧
      (∀ j < o.bytes.length, byteAt t (.imem g k (off + j)) = o.bytes[j]?.getD 0) ∧
      (∀ p, (∀ j < o.bytes.length, p ≠ .imem g k (off + j)) → byteAt t p = byteAt s p)) ∧
  (∀ (s : State) (g k n : Nat) (d : Deferred) (o : Op), s.bad = none → (s.sc g k).deferral[n]? = some d → d.since + ticksOf 100 ≤ s.ref →
    (s.core d.core).findOp d.op = some o →
    ∃ t, exec (.deferralTimeout g k n) s = .next t ∧ sameBytes s t ∧ (t.sc g k).deferral = (s.sc g k).deferral.eraseIdx n)

/-! Class SYN: fences, barriers, signals, atomics on HBM, regions. -/

namespace Sys2Proof.Spec

open Sys2Proof.Machine

/-- The parity that a wait of a party takes (R295). -/
def waitParity (k : Core) (p : Party) (b : Nat) : Bool := if (k.lpOf p).2.getLsbD b then (k.lpOf p).1.getLsbD b else (k.bar b).ph

/-- Barrier `y` is barrier `x` after one more arrival (R295). -/
def arrived (x y : Barrier) : Prop :=
  y.expect = x.expect ∧ (x.n + 1 = x.expect → y.n = 0 ∧ y.ph = !x.ph) ∧ (x.n + 1 ≠ x.expect → y.n = x.n + 1 ∧ y.ph = x.ph)

/-- Of the registers only barriers, and the parity bits and arrived flags of the parties, have changed; barriers other than `b` have not. -/
def onlyBarrier (s t : State) (c b : Nat) : Prop :=
  sameBytes s t ∧ sameChip s t ∧ ∀ c', sameUnit { s.core c' with bars := (t.core c').bars } (t.core c') ∧
    (∀ i, ¬(c' = c ∧ i = b) → (t.core c').bar i = (s.core c').bar i) ∧
    ∀ w, let y := (t.core c').warp w
      sameWarp { (s.core c').warp w with lp := y.lp, arvd := y.arvd, alp := y.alp, aarvd := y.aarvd } y

/-- The stream instance of a site stands at the next word, in this hold of a barrier (R295). -/
def holds (s : State) (e : Env) (t : State) (h : Option (Nat × Bool)) : Prop :=
  ∃ n, envOf t e.fn e.body = some n ∧ n.pc = e.pc + 12 ∧ n.ready = s.clk + 1 + e.ctl.stall.toNat ∧ n.bar = h

/-- A signal operation whose address lies in HBM, on a page of no held region. -/
structure SignalAt (s : State) (c id v l pa : Nat) (o : Op) (w : RWord) : Prop extends Performs s c id o w where
  near : windowLanes s c o = 0
  party : o.party = .compute v
  split : o.handler = false
  lane : (opLanes o).head? = some l
  todo : o.todo = BitVec.ofNat 64 (2 ^ l)
  good : o.bad = 0
  place : ∃ leaf, s.opPlace c o (o.addr.get l 0).toNat = some (leaf, .hbm pa) ∧ s.heldBy c leaf = none
  inside : pa + 8 ≤ hbmTop

/-- The two S registers of a 64-bit result hold it. -/
def pairHolds (t : State) (c v d : Nat) (x : Word64) : Prop :=
  ((t.core c).warp v).s.get d 0 = x.setWidth 32 ∧ ((t.core c).warp v).s.get (d + 1) 0 = (x >>> 32).setWidth 32

end Sys2Proof.Spec

/-- R296: BAR.INIT sets EXPECT[A] to the count and PH[A] and N[A] to 0, and LP and ARVD of every party for barrier A to 0; it
raises BAR_COUNT for a count of 0 or above 255, and BAR_BUSY when N[A] is not 0, when a party stands at a wait on A, or when a
copy or KLD that will arrive on A is outstanding, after the common traps. It completes at t + 1. -/
def Obligations.BarrierInit : Prop :=
  ∀ (w : RWord) (s : State) (e : Env), Acts (.barInit w) s e →
    let b := w.a.toNat
    let n := e.srcB false 0
    let busy : Prop := (e.k.bar b).n ≠ 0 ∨ e.k.waitsOn b = true ∨ s.willArrive e.c b = true
    (n = 0 ∨ 255 < n → exec (.barInit w) s = .next (e.raise s 7 (plain .barCount))) ∧
    (n ≠ 0 → n ≤ 255 → busy → exec (.barInit w) s = .next (e.raise s 7 (plain .barBusy))) ∧
    (n ≠ 0 → n ≤ 255 → ¬busy → ∃ t, exec (.barInit w) s = .next t ∧ moved s e t ∧ counted s e t ∧ lands s e t 1 [] ∧
      onlyBarrier s t e.c b ∧ (t.core e.c).bar b = { expect := n } ∧
      ∀ p : Party, ((t.core e.c).lpOf p).1.getLsbD b = false ∧ ((t.core e.c).lpOf p).2.getLsbD b = false ∧
        ∀ i < 32, i ≠ b → ((t.core e.c).lpOf p).1.getLsbD i = (e.k.lpOf p).1.getLsbD i ∧
          ((t.core e.c).lpOf p).2.getLsbD i = (e.k.lpOf p).2.getLsbD i)

/-- R295, R225 and R297: BAR.ARV and MBAR.ARV count one arrival, which ends the phase at EXPECT and with it every hold on that
phase; BAR.WAIT and MBAR.WAIT hold their stream until the parity that they take has passed; BAR.SYNC and MBAR.SYNC do both. A hold
that nothing can end raises BAR_ORPHAN at the wait. R291: a FENCE waits until the accesses that its KIND names are complete at its
SCOPE (Env.fenceReady), and then completes at t + 1, or raises the window fault that waits to be reported; at CLUSTER scope or
wider ACQ and AR empty the core's L1. On a stack core it waits for every bank DMA. But for barriers, parity bits and arrived flags
no register changes, and no byte. -/
def Obligations.BarriersAndFences : Prop :=
  ((∀ (i : Instr) (w : RWord) (s : State) (e : Env), i = .barArv w ∨ i = .mbarArv w → Acts i s e →
    let b := w.a.toNat
    ∃ t, exec i s = .next t ∧ holds s e t none ∧ counted s e t ∧ onlyBarrier s t e.c b ∧ arrived (e.k.bar b) ((t.core e.c).bar b) ∧
      ((t.core e.c).lpOf e.party).1.getLsbD b = (e.k.bar b).ph ∧ ((t.core e.c).lpOf e.party).2.getLsbD b = true ∧
      ∀ v n p, (e.k.warp v).splits.find n = some p → p.bar = some (b, (e.k.bar b).ph) →
        ((t.core e.c).warp v).splits.find n =
          some (if (e.k.bar b).n + 1 = (e.k.bar b).expect then { p with bar := none } else p)) ∧
  (∀ (i : Instr) (w : RWord) (s : State) (e : Env), i = .barWait w ∨ i = .mbarWait w → Acts i s e →
    let b := w.a.toNat
    let q := waitParity e.k e.party b
    ∃ t, exec i s = .next t ∧ holds s e t (if (e.k.bar b).ph = q then some (b, q) else none) ∧ counted s e t ∧
      onlyBarrier s t e.c b ∧ (t.core e.c).bar b = e.k.bar b ∧ ((t.core e.c).lpOf e.party).2.getLsbD b = false) ∧
  (∀ (i : Instr) (w : RWord) (s : State) (e : Env), i = .barSync w ∨ i = .mbarSync w → Acts i s e →
    let b := w.a.toNat
    ∃ t, exec i s = .next t ∧ counted s e t ∧ onlyBarrier s t e.c b ∧ arrived (e.k.bar b) ((t.core e.c).bar b) ∧
      holds s e t (if (e.k.bar b).n + 1 = (e.k.bar b).expect then none else some (b, (e.k.bar b).ph)) ∧
      ((t.core e.c).lpOf e.party).2.getLsbD b = false) ∧
  (∀ (s : State) (c v n b : Nat) (q : Bool) (p : Split), let k := s.core c
    s.bad = none → k.halt = none → (∃ x, k.block = some x ∧ x.failed = none) → (k.warp v).splits = [(n, p)] → p.bar = some (b, q) →
    s.orphaned c v b = true → (k.kernel.hasAccess v = false ∨ (k.warp v).acc.aend = true) →
    ∃ t h, exec (.barOrphan c (.compute v) n) s = .next t ∧ untouched s t ∧ (t.core c).halt = some h ∧ h.trap.cause = .barOrphan ∧
      h.pc = p.pc - 12 ∧ ((t.core c).warp v).splits.find n = some p)) ∧
  ((∀ (w : RWord) (s : State) (e : Env), Acts (.fence w) s e →
    (e.fenceReady (w.fld 18 17) (w.fld 21 19) = false → exec (.fence w) s = .next s) ∧
    (e.fenceReady (w.fld 18 17) (w.fld 21 19) = true → windowTrap e.wp.pendings e.party = none →
      ∃ t, exec (.fence w) s = .next t ∧ untouched s t ∧ moved s e t ∧ counted s e t ∧ lands s e t 1 [] ∧
        (w.fld 18 17 ≠ 2 → 2 ≤ w.fld 21 19 → (t.core e.c).l1 = [])) ∧
    (∀ x, e.fenceReady (w.fld 18 17) (w.fld 21 19) = true → windowTrap e.wp.pendings e.party = some x →
      exec (.fence w) s = .next (e.raise s 7 x))) ∧
  (∀ (w : RWord) (s : State) (e : SEnv), StackActs (.fence w) s e →
    (e.sc.dmas ≠ [] → exec (.fence w) s = .next s) ∧
    (e.sc.dmas = [] → ∃ r, exec (.fence w) s = .next (s.setSc e.g e.k { e.issued with fenced := r }))))

/-- R298 and R358: the SIG instructions launch their check with the signal's address and hold their split. On HBM a SIG.RD gives
the signal, a SIG.SET replaces it, a SIG.ADD whose row is not claimed adds to it and gives the old value under RET, and a SIG.WAIT
ends with the signal when its condition holds, and fails at its bound; while neither holds it stays, with the value that it has
read. No other byte changes, but for what slices write back to make room. -/
def Obligations.Signals : Prop :=
  (∀ (i : Instr) (w : RWord) (s : State) (e : Env), i = .sigAdd w ∨ i = .sigWait w ∨ i = .sigRd w ∨ i = .sigSet w → Acts i s e →
    ∃ t, exec i s = .next t ∧ untouched s t ∧ heldThere s e t ∧ counted s e t ∧ launched s e t .check (fun o => o.lanes = e.act ∧
      (∀ l ∈ e.active, o.addr.get l 0 = BitVec.ofNat 64 (e.srcA true 0)) ∧ (i ≠ .sigRd w → o.arg 0 = BitVec.ofNat 64 (e.srcB true 0)))) ∧
  (∀ (s : State) (c id v l pa : Nat) (o : Op) (w : RWord) (p : Split), SignalAt s c id v l pa o w →
    ((s.core c).warp v).splits.find o.slot = some p →
    let sig := BitVec.ofNat 64 (numberAt s .hbm pa 8)
    let goes (t : State) : Prop := ((t.core c).warp v).splits.find o.slot = some { p with held := none, pc := o.pc + 12 }
    let others (t : State) : Prop := keepsBut s t (fun q => ∃ j, j < 8 ∧ q = .hbm (pa + j))
    (o.fn = .sigRd → ∃ t, exec (.memAccessCompletion c id 0 .ok) s = .next t ∧ completed s t c o ∧ keepsBytes s t ∧ goes t ∧
      pairHolds t c v w.d.toNat sig) ∧
    (o.fn = .sigSet → ∃ t, exec (.memAccessCompletion c id 0 .ok) s = .next t ∧ completed (s.nearRelease c o) t c o ∧ others t ∧
      numberAt t .hbm pa 8 = (o.arg 0).toNat) ∧
    (o.fn = .sigAdd → rowClaimed (s.sc (ownerOf pa).1 (ownerOf pa).2.1).claims (ownerOf pa).2.2 = false →
      ∃ t, exec (.memAccessCompletion c id 0 .ok) s = .next t ∧ completed (s.nearRelease c o) t c o ∧ others t ∧ goes t ∧
        BitVec.ofNat 64 (numberAt t .hbm pa 8) = sig + BitVec.ofNat 64 (atomOperand o 0 l) ∧
        (w.mb 18 = true → pairHolds t c v w.d.toNat sig) ∧
        (w.fld 12 9 < 15 → (((t.core c).warp v).p.get (w.fld 12 9) 0) &&& o.lanes = 0)) ∧
    (o.fn = .sigWait →
      let met : Prop := match w.fld 18 17 with
        | 0 => sig.toInt ≤ (o.arg 0).toInt
        | 1 => sig = o.arg 0
        | 2 => (o.arg 0).toInt ≤ sig.toInt
        | _ => sig ≠ o.arg 0
      let late : Prop := w.fld 16 13 ≠ 0 ∧ o.born + ticksOf (2 ^ w.fld 16 13) ≤ s.ref
      (met ∨ late → ∃ t, exec (.memAccessCompletion c id 0 .ok) s = .next t ∧ completed s t c o ∧ keepsBytes s t ∧ goes t ∧
        pairHolds t c v w.d.toNat sig ∧ (w.fld 12 9 < 15 → ∀ i, o.lanes.getLsbD i = true →
          ((((t.core c).warp v).p.get (w.fld 12 9) 0).getLsbD i = true ↔ ¬met))) ∧
      (¬met → ¬late → ∃ t, exec (.memAccessCompletion c id 0 .ok) s = .next t ∧ keeps s t ∧
        (t.core c).findOp id = some { o with outs := [(0, sig)], port := none } ∧
        ((t.core c).warp v).splits.find o.slot = some p)))

/-- R163: what an integer atomic leaves at its address: the sum, the smaller, the larger, the operand, the operand where the old
value is the compared one, and the bitwise operations, in the width of TYPE. R155 and R163: an ATOMS of one lane leaves the
operation's result in the scratchpad and, with RET, the old value in D; a store all of whose lanes lie in a window that fails
writes nothing, and WINDOW_FAULT waits to be reported at its lowest lane. R163, R164 and R293: an ATOM or ATOMG of one lane on
HBM, its row not claimed, leaves its result there and, with RET, the old value in D; its status predicate says that it was
performed, and no other byte changes, but for what slices write back to make room. -/
def Obligations.Atomics : Prop :=
  (∀ (ty old b d : Nat), ty = 0 ∨ ty = 1 ∨ ty = 6 ∨ ty = 7 → old < 2 ^ tyWidth ty → b < 2 ^ tyWidth ty →
    atomNew ty 0 old b d = (BitVec.ofNat (tyWidth ty) old + BitVec.ofNat (tyWidth ty) b).toNat ∧
    val ty (atomNew ty 1 old b d) = min (val ty old) (val ty b) ∧ val ty (atomNew ty 2 old b d) = max (val ty old) (val ty b) ∧
    atomNew ty 3 old b d = b ∧ atomNew ty 4 old b d = (if old = d then b else old) ∧ atomNew ty 5 old b d = old &&& b ∧
    atomNew ty 6 old b d = old ||| b ∧ atomNew ty 7 old b d = old ^^^ b) ∧
  ((∀ (s : State) (c id v l : Nat) (o : Op) (w : RWord), Performs s c id o w → o.fn = .atoms → o.party = .compute v → l < 64 →
    o.lanes = BitVec.ofNat 64 (2 ^ l) → o.todo = o.lanes → o.bad = 0 → (w.ty = 0 ∨ w.ty = 1 ∨ w.ty = 8) → w.mb 13 = true →
    let a := (o.addr.get l 0).toNat
    let old := numberAt s (.scratch c) a 4
    ∃ t, exec (.memAccessCompletion c id 0 .ok) s = .next t ∧ completed s t c o ∧
      numberAt t (.scratch c) a 4 = atomNew w.ty (w.fld 17 14) old (atomOperand o 0 l) (atomOperand o 2 l) % 2 ^ 32 ∧
      (∀ p, (∀ b, p = .scratch c b → b < a ∨ a + 4 ≤ b) → byteAt t p = byteAt s p) ∧
      onlyVectors s t c v w.d.toNat 1 o.lanes ∧ (((t.core c).warp v).vreg w.d.toNat).lane l = BitVec.ofNat 32 old) ∧
  (∀ (s : State) (c id v l status : Nat) (o : Op) (w : RWord), Performs s c id o w → o.fn = .st ∨ o.fn = .stg →
    s.accessWaits c o = false → o.party = .compute v → windowLanes s c o = o.lanes → (opLanes o).head? = some l →
    let e : Pending := { cause := .windowFault, party := o.party, flag := o.flag, eng := none, pc := o.pc, addr := o.addr.get l 0, status }
    ∃ t, exec (.windowStoreFailure c id status) s = .next t ∧ untouched s t ∧ completed s t c o ∧
      ((t.core c).warp v).pendings = ((s.core c).warp v).pendings ++ [e])) ∧
  (∀ (s : State) (c id v l pa leaf : Nat) (o : Op) (w : RWord), Performs s c id o w → o.party = .compute v → l < 64 → o.lanes = BitVec.ofNat 64 (2 ^ l) → o.todo = o.lanes → o.bad = 0 →
    s.opPlace c o (o.addr.get l 0).toNat = some (leaf, .hbm pa) → s.heldBy c leaf = none → pa + 8 ≤ hbmTop →
    o.fn = .atom ∨ o.fn = .atomg → w.ty = 0 ∨ w.ty = 1 ∨ w.ty = 8 → w.mb 13 = true → w.fld 12 9 < 15 →
    rowClaimed (s.sc (ownerOf pa).1 (ownerOf pa).2.1).claims (ownerOf pa).2.2 = false →
    let old := numberAt s .hbm pa 4
    ∃ t, exec (.memAccessCompletion c id 0 .ok) s = .next t ∧ completed (s.nearRelease c o) t c o ∧
      numberAt t .hbm pa 4 = atomNew w.ty (w.fld 17 14) old (atomOperand o 0 l) (atomOperand o 2 l) % 2 ^ 32 ∧
      keepsBut s t (fun p => ∃ j, j < 4 ∧ p = .hbm (pa + j)) ∧
      (((t.core c).warp v).vreg w.d.toNat).lane l = BitVec.ofNat 32 old ∧
      (((t.core c).warp v).p.get (w.fld 12 9) 0).getLsbD l = false)

/-- R309 to R311: ACQR and RELR launch; ACQR of a free region of its context that its cluster does not hold gives it to the
cluster, with OK, and gives NOREGION, ALREADY, LIST_FULL or BUSY as the rules say; RELR passes the region on at issue, and frees
it, its generation one more, when the accesses of its stream before it and the cluster's earlier stores are done; RGNQ gives the
region word as it stands at issue. -/
def Obligations.Regions : Prop :=
  (∀ (w : RWord) (s : State) (e : Env), Acts (.acqr w) s e →
    ∃ t, exec (.acqr w) s = .next t ∧ untouched s t ∧ moved s e t ∧ counted s e t ∧
      launched s e t .go (fun o => o.args = [BitVec.ofNat 64 (e.srcA false 0)])) ∧
  (∀ (w : RWord) (s : State) (e : Env), Acts (.relr w) s e →
    let r := e.srcA false 0
    ∃ t, exec (.relr w) s = .next t ∧ sameRegisters s t ∧ sameBytes s t ∧ moved s e t ∧ counted s e t ∧
      (s.regionFor e.blk.asid r ≠ none → s.holds (e.c / 2) r = true →
        t.region r = { s.region r with state := 2 } ∧ launched s e t .go (fun o => o.pos = 0)) ∧
      (s.regionFor e.blk.asid r = none → t.regions = s.regions ∧ launched s e t .go (fun o => o.pos = 2)) ∧
      (s.regionFor e.blk.asid r ≠ none → s.holds (e.c / 2) r = false → t.regions = s.regions ∧ launched s e t .go (fun o => o.pos = 4)) ∧
      ∀ i, i ≠ r → t.region i = s.region i) ∧
  (∀ (w : RWord) (s : State) (e : Env), Acts (.rgnq w) s e →
    ∃ t, exec (.rgnq w) s = .next t ∧ untouched s t ∧ moved s e t ∧ counted s e t ∧
      launched s e t .go (fun o => o.arg 0 = BitVec.ofNat 64 (s.regionWord e.blk.asid (e.srcA false 0)))) ∧
  (∀ (s : State) (c id v : Nat) (o : Op) (w : RWord), (s.core c).findOp id = some o → o.stage = .go → o.body = .r w → o.party = .compute v →
    s.bad = none →
    let r := (o.arg 0).toNat
    let x := s.region r
    let gives (t : State) (n : Nat) : Prop := completed s t c o ∧ sameBytes s t ∧ ((t.core c).warp v).s.get w.d.toNat 0 = BitVec.ofNat 32 n
    (o.fn = .rgnq → ∃ t, exec (.variableLatencyCompletion c id) s = .next t ∧ completed s t c o ∧ sameBytes s t ∧ sameChip s t ∧
      pairHolds t c v w.d.toNat (o.arg 0)) ∧
    (o.fn = .acqr →
      (s.regionFor (s.core c).asid r = none → ∃ t, exec (.acqrTokenGrant c id) s = .next t ∧ gives t 2 ∧ sameChip s t) ∧
      (s.regionFor (s.core c).asid r = some x →
        (x.state = 1 → x.holder = c / 2 → ∃ t, exec (.acqrTokenGrant c id) s = .next t ∧ gives t 3 ∧ sameChip s t) ∧
        (¬(x.state = 1 ∧ x.holder = c / 2) → 16 ≤ (s.heldList (c / 2)).length →
          ∃ t, exec (.acqrTokenGrant c id) s = .next t ∧ gives t 5 ∧ sameChip s t) ∧
        (¬(x.state = 1 ∧ x.holder = c / 2) → (s.heldList (c / 2)).length < 16 →
          (x.state = 0 → s.earlierAcqr r id = false → ∃ t, exec (.acqrTokenGrant c id) s = .next t ∧ gives t 0 ∧
            t.region r = { x with state := 1, holder := c / 2 }) ∧
          (x.state ≠ 0 → w.fld 3 0 = 0 → ∃ t, exec (.acqrTokenGrant c id) s = .next t ∧ gives t 1 ∧ sameChip s t) ∧
          (x.state ≠ 0 → w.fld 3 0 ≠ 0 → exec (.acqrTokenGrant c id) s = .next s))) ∧
      (w.fld 3 0 ≠ 0 → o.born + ticksOf (2 ^ w.fld 3 0) ≤ s.ref → ∃ t, exec (.acqrTimeout c id) s = .next t ∧ gives t 1 ∧ sameChip s t)) ∧
    (o.fn = .relr →
      (o.pos ≠ 0 → ∃ t, exec (.relrCompletion c id) s = .next t ∧ gives t o.pos ∧ sameChip s t) ∧
      (o.pos = 0 → s.mayPerform c o = false ∨ (s.core (c / 2 * 2)).writesBefore o.id = true ∨
        (s.core (c / 2 * 2 + 1)).writesBefore o.id = true → exec (.relrCompletion c id) s = .next s) ∧
      (o.pos = 0 → s.mayPerform c o = true → (s.core (c / 2 * 2)).writesBefore o.id = false →
        (s.core (c / 2 * 2 + 1)).writesBefore o.id = false → ∃ t, exec (.relrCompletion c id) s = .next t ∧ completed s t c o ∧
          t.region r = { x with state := 0, holder := 0xFF, gen := (x.gen + 1) % 256 } ∧
          ((t.core c).warp v).s.get w.d.toNat 0 = 0)))

/-! Class RGN: the caches. -/

namespace Sys2Proof.Spec

open Sys2Proof.Machine

/-- The words of a range (R305): base a 64-bit A, length a 32-bit B. -/
def rangeForms : List (RWord → Instr) := [.wb, .inv, .wbinv, .pin, .unpin]

/-- An operation in flight, with the number `id`, at a stage and with the word it came from, in a sound package. -/
structure InFlight (s : State) (c id v : Nat) (o : Op) (w : RWord) : Prop where
  found : (s.core c).findOp id = some o
  stage : o.stage = .go
  body : o.body = .r w
  party : o.party = .compute v
  sound : s.bad = none

/-- Of the registers, only S registers of one warp, and there only those of the list, have changed. -/
def onlyS (s t : State) (c v : Nat) (rs : List Nat) : Prop :=
  ∀ c', sameUnit (s.core c') (t.core c') ∧ ∀ w',
    let x := (s.core c').warp w'
    let y := (t.core c').warp w'
    sameWarp { x with s := y.s } y ∧ ∀ r, ¬(c' = c ∧ w' = v ∧ r ∈ rs) → y.s.get r 0 = x.s.get r 0

end Sys2Proof.Spec

/-- R305 to R308: WB, INV, WBINV, PIN and UNPIN issue with their range and complete by themselves. They wait until the writes of
their stream that come before them are performed; with no region held WB, INV and WBINV change no byte, and where they act on the
L2 no sector of the range of WB is M afterwards, none of WBINV stands there, none but M ones of INV, and no copy stands elsewhere
after INV or WBINV. PIN pins a line that is not pinned while its slice has room, UNPIN removes a pin; each counts the lines in its
result. R303, R304, R308, R149 and R403: a slice evicts no pinned line, and none before a line that .STRM has marked; what it held
newer of a region stands in HBM once the line is evicted, and otherwise an eviction changes no byte. A back-invalidation leaves no
sector of its line M and changes no byte; a port that is not up holds it. A host write replaces the bytes it names and no others,
no register changes, and no S copy of its sectors stands; a host read changes nothing; both fault beyond the last byte of HBM
(R388). -/
def Obligations.CachesAndSlices : Prop :=
  ((∀ form ∈ rangeForms, ∀ (w : RWord) (s : State) (e : Env), Acts (form w) s e →
    ∃ t, exec (form w) s = .next t ∧ untouched s t ∧ moved s e t ∧ counted s e t ∧
      launched s e t .go (fun o => o.args = [BitVec.ofNat 64 (e.srcA true 0), BitVec.ofNat 64 (e.srcB false 0)])) ∧
  (∀ (s : State) (c id v : Nat) (o : Op) (w : RWord), InFlight s c id v o w → o.fn = .wb ∨ o.fn = .inv ∨ o.fn = .wbinv →
    ((s.core c).writesDone o.party o.id = true → s.heldBytes = [] →
      ∃ t, exec (.variableLatencyCompletion c id) s = .next t ∧ completed s t c o ∧ sameRegisters s t ∧ sameBytes s t ∧ sameChip s t ∧
        ∀ (pa n leaf : Nat), s.rangePieces c o.handler (o.arg 0).toNat (o.arg 1).toNat = [⟨leaf, .hbm pa, n⟩] → s.heldBy c leaf = none →
          w.fld 21 20 ≠ 0 → ∀ k, pa / 64 ≤ k → k ≤ (pa + n - 1) / 64 → k < 2 ^ 61 →
            (o.fn = .wb → ∀ x, t.l2.find k = some x → x.st ≠ .m) ∧ (o.fn = .wbinv → t.l2.find k = none) ∧
              (o.fn = .inv → ∀ x, t.l2.find k = some x → x.st = .m) ∧
              (o.fn ≠ .wb → ∀ g, t.copies.find (g * 2 ^ 61 + k) = none))) ∧
  (∀ (s : State) (c id v : Nat) (o : Op) (w : RWord), InFlight s c id v o w → o.fn ∈ [.wb, .inv, .wbinv, .pin, .unpin] →
    (s.core c).writesDone o.party o.id = false → exec (.variableLatencyCompletion c id) s = .next s) ∧
  (∀ (s : State) (c id v k : Nat) (o : Op) (w : RWord) (p : Piece) (b : Block), InFlight s c id v o w → (s.core c).block = some b →
    s.rangePieces c o.handler (o.arg 0).toNat (o.arg 1).toNat = [p] → p.lines (c / 2) = [k] →
    (s.core c).writesDone o.party o.id = true →
    let gives (t : State) (n : Nat) : Prop := completed s t c o ∧ keepsBytes s t ∧ onlyS s t c v [w.d.toNat] ∧
      ((t.core c).warp v).s.get w.d.toNat 0 = BitVec.ofNat 32 n ∧ ∀ j, j ≠ k → t.pins.find j = s.pins.find j
    (o.fn = .pin → s.pins.find k = none → s.pinCount (c / 2) < 32768 → ∃ t, exec (.variableLatencyCompletion c id) s = .next t ∧
      gives t 1 ∧ t.pins.find k = some (b.launch + 1)) ∧
    (o.fn = .pin → s.pins.find k ≠ none ∨ 32768 ≤ s.pinCount (c / 2) → ∃ t, exec (.variableLatencyCompletion c id) s = .next t ∧
      gives t 0 ∧ t.pins.find k = s.pins.find k) ∧
    (o.fn = .unpin → ∃ t, exec (.variableLatencyCompletion c id) s = .next t ∧ t.pins.find k = none ∧
      gives t (if s.pins.find k = none then 0 else 1)))) ∧
  ((∀ (s : State) (slice sector : Nat), s.bad = none → sector < 2 ^ 61 →
    let line := sector / 4
    let pinned (l : Nat) : Prop := s.pins.find (lineKey slice l) ≠ none
    let marked (l : Nat) : Prop := s.strm.get (lineKey slice l) false = true
    let first : Prop := ∃ l ∈ s.linesOf slice, ¬pinned l ∧ marked l
    (pinned line ∨ (¬marked line ∧ first) → exec (.l2Eviction slice sector) s = .next s) ∧
    (¬pinned line → marked line ∨ ¬first → ∃ t, exec (.l2Eviction slice sector) s = .next t ∧ sameRegisters s t ∧
      (∀ i < 4, t.copies.find (heldKey slice (4 * line + i)) = none ∧ t.heldBytes.find (heldKey slice (4 * line + i)) = none ∧
        (home (64 * (4 * line + i)) = slice → t.l2.find (4 * line + i) = none) ∧
        ∀ x, s.heldBytes.find (heldKey slice (4 * line + i)) = some x → x.m = true → ∀ j (h : j < x.bytes.length), j < 64 →
          byteAt t (.hbm (64 * (4 * line + i) + j)) = x.bytes[j]) ∧
      (∀ p, (∀ j < 256, p ≠ .hbm (256 * line + j)) → byteAt t p = byteAt s p) ∧
      ((∀ i < 4, ∀ x, s.heldBytes.find (heldKey slice (4 * line + i)) = some x → x.m = false) → sameBytes s t))) ∧
  (∀ (s : State) (m line j : Nat), s.bad = none → headOn s.order s.self m = some j →
    ((s.port j).state ≠ 1 → exec (.bisnp m line) s = .next s) ∧
    ((s.port j).state = 1 → ∃ t, exec (.bisnp m line) s = .next t ∧ untouched s t ∧
      ∀ i < 4, t.l2.find (modSector m (256 * line + 64 * i)) = none)) ∧
  (∀ (s : State) (m line : Nat), headOn s.order s.self m = none → exec (.bisnp m line) s = .next s) ∧
  (∀ (s : State) (a : Nat) (data : List (BitVec 8)), s.bad = none →
    (a + data.length ≤ hbmTop → ∃ t, exec (.hostMemWrite a data) s = .next t ∧ sameRegisters s t ∧ sameChip s t ∧
      (∀ j (h : j < data.length), byteAt t (.hbm (a + j)) = data[j]) ∧
      (∀ p, (∀ j < data.length, p ≠ .hbm (a + j)) → byteAt t p = byteAt s p) ∧
      (∀ j < data.length, ∀ g, t.copies.find (g * 2 ^ 61 + (a + j) / 64) = none)) ∧
    (hbmTop < a + data.length → exec (.hostMemWrite a data) s = .fault .noSuchAddress)) ∧
  (∀ (s : State) (a n : Nat), s.bad = none →
    (a + n ≤ hbmTop → exec (.hostMemRead a n) s = .next s) ∧ (hbmTop < a + n → exec (.hostMemRead a n) s = .fault .noSuchAddress)))

/-! Class POD: windows, groups, collectives, the exchange, the courier and the ports. -/

namespace Sys2Proof.Spec

open Sys2Proof.Machine

/-- The window words (R330): each with the unit its offset must be a multiple of, and the operands that it captures beside its MADDR. -/
noncomputable def windowForms (w : RWord) (e : Env) : List (Instr × Nat × List Word64) :=
  [(.matom w, 8, [e.bPair 0, if w.fld 17 14 = 4 then e.bPair 2 else 0]), (.mflagSet w, 8, [e.bPair 0]), (.mflagWait w, 8, [e.bPair 0])]

/-- A range of the scratchpad that a POD word may name. -/
def inScratch (e : Env) (a n : Nat) : Prop := a % 64 = 0 ∧ a + n ≤ e.kernel.scratch

/-- A window operation in flight whose turn has come, at a place, which its context may reach, of a module that the package attaches
to. -/
structure AtModule (s : State) (c id v m off : Nat) (o : Op) (w : RWord) : Prop extends InFlight s c id v o w where
  turn : s.podEarlier c o = false
  ready : (s.core c).releaseReady o.party o.id = true
  ordered : s.mayPerform c o = true
  near : s.attached m = true
  place : s.podPlace (s.core c).asid (w.fld 21 18) (o.arg 0) (if o.fn = .mqPush ∨ o.fn = .mqPop then 0x10000 else if o.fn = .mred then 1 else 8) =
    .ok (some (m, off, none))

/-- S register `r` of a warp holds a number. -/
def sHolds (t : State) (c v r n : Nat) : Prop := ((t.core c).warp v).s.get r 0 = BitVec.ofNat 32 n

/-- The bytes of module `m` from offset `a`, as one number. -/
def moduleNumber (s : State) (m a n : Nat) : Nat := numberAt s .module (modKey m a) n

/-- A byte of the slots of the package's command port on a module (R321). -/
def portSlots (s : State) (m : Nat) (p : Spot) : Prop :=
  ∃ j, j < 0x1000 ∧ p = .module (modKey m (0x10000 + 0x1000 * (headOn s.order s.self m).getD 0 + j))

/-- No byte but those of `q` and of the command port's slots has changed. -/
def commanded (s t : State) (m : Nat) (q : Spot → Prop) : Prop := ∀ p, ¬q p → ¬portSlots s m p → byteAt t p = byteAt s p

/-- No byte but `n` bytes of module `m` from offset `a` has changed. -/
def elsewhere (s t : State) (m a n : Nat) : Prop := ∀ p, (∀ j < n, p ≠ .module (modKey m (a + j))) → byteAt t p = byteAt s p

end Sys2Proof.Spec

/-- R330, R327, R343: MATOM, MFLAG.SET and MFLAG.WAIT launch with their MADDR and operands when OFF is a multiple of 8 and raise
ALIGN_FAULT otherwise; MQ.PUSH and MQ.POP launch when their records lie in the scratchpad, MRED when OFF and the length are also
multiples of 64; LNK.STAT and GRP.STAT launch with what they read at issue. R321, R328, R331, R332 and R339: a window operation
whose turn has come and whose module the package attaches to is performed there, where no line that it reads is poisoned. MATOM
puts its result in the data window, and gives the old value where it returns one; MFLAG.SET replaces a flag; MFLAG.WAIT ends when
its condition holds and stays otherwise; a queue push or pop of one record moves it between the scratchpad and the ring, and
answers FULL or EMPTY; no other byte changes, but for the slots of the command port and what slices write back to make room, and
the status register tells the outcome. What the context may not reach, or no route leads to, ends with the status of its place; an
operation that its group's bound overtakes ends with TIMEOUT, and none before, but where a port is waited for. What an earlier
operation of its stream stands before, and a release that what it must follow has not let go, stay. -/
def Obligations.ModuleWindows : Prop :=
  ((∀ (w : RWord) (s : State) (e : Env), ∀ f ∈ windowForms w e, Acts f.1 s e →
    let off := e.srcA true 0 % 2 ^ 56
    (off % f.2.1 = 0 → ∃ t, exec f.1 s = .next t ∧ untouched s t ∧ moved s e t ∧ counted s e t ∧
      launched s e t .go (fun o => o.args = BitVec.ofNat 64 (e.srcA true 0) :: f.2.2)) ∧
    (off % f.2.1 ≠ 0 → exec f.1 s = .next (e.raise s 7 (addrTrap .alignFault off)))) ∧
  (∀ (i : Instr) (w : RWord) (s : State) (e : Env), i = .mqPush w ∨ i = .mqPop w → Acts i s e →
    inScratch e (e.srcB false 0) (64 * (w.fld 11 8 + 1)) →
    ∃ t, exec i s = .next t ∧ untouched s t ∧ moved s e t ∧ counted s e t ∧
      launched s e t .go (fun o => o.args = [BitVec.ofNat 64 (e.srcA true 0), BitVec.ofNat 64 (e.srcB false 0)])) ∧
  (∀ (w : RWord) (s : State) (e : Env), Acts (.mred w) s e → e.srcA true 0 % 2 ^ 56 % 64 = 0 → e.bReg 1 % 64 = 0 →
    inScratch e (e.bReg 0) (e.bReg 1) →
    ∃ t, exec (.mred w) s = .next t ∧ untouched s t ∧ moved s e t ∧ counted s e t ∧
      launched s e t .go (fun o => o.args = [BitVec.ofNat 64 (e.srcA true 0), BitVec.ofNat 64 (e.bReg 0), BitVec.ofNat 64 (e.bReg 1)])) ∧
  (∀ (w : RWord) (s : State) (e : Env), Acts (.lnkStat w) s e → let p := s.port (w.fld 10 8)
    ∃ t, exec (.lnkStat w) s = .next t ∧ untouched s t ∧ moved s e t ∧ counted s e t ∧
      launched s e t .go (fun o => o.arg 0 = BitVec.ofNat 64
        (p.replays * 2 ^ 48 + p.retrains * 2 ^ 32 + p.failed.toNat * 2 ^ 16 + p.state * 2 ^ 8 + p.width * 2 ^ 4))) ∧
  (∀ (w : RWord) (s : State) (e : Env), Acts (.grpStat w) s e → let g := s.group e.blk.asid (w.fld 21 18)
    ∃ t, exec (.grpStat w) s = .next t ∧ untouched s t ∧ moved s e t ∧ counted s e t ∧
      launched s e t .go (fun o => o.arg 0 = g.mask ∧ o.arg 1 = BitVec.ofNat 64 (g.gen.toNat * 2 ^ 32 + (if g.formed then 2 ^ 30 else 0) +
        g.dead % 256 * 2 ^ 16 + g.coord * 2 ^ 8 +
        (((s.ctx e.blk.asid).colsOf (w.fld 21 18)).length + (s.colOpsOf e.blk.asid (w.fld 21 18)).length) % 256))) ∧
  (∀ (s : State) (c id v : Nat) (o : Op) (w : RWord), InFlight s c id v o w →
    (o.fn = .lnkStat → ∃ t, exec (.variableLatencyCompletion c id) s = .next t ∧ completed s t c o ∧ sameBytes s t ∧ sameChip s t ∧
      onlyS s t c v [w.d.toNat, w.d.toNat + 1] ∧ pairHolds t c v w.d.toNat (o.arg 0)) ∧
    (o.fn = .grpStat → ∃ t, exec (.variableLatencyCompletion c id) s = .next t ∧ completed s t c o ∧ sameBytes s t ∧ sameChip s t ∧
      onlyS s t c v ((List.range 4).map (w.d.toNat + ·)) ∧ pairHolds t c v w.d.toNat (o.arg 0) ∧
      pairHolds t c v (w.d.toNat + 2) (o.arg 1)))) ∧
  ((∀ (s : State) (c id v m off : Nat) (o : Op) (w : RWord), AtModule s c id v m off o w → s.modRegion m off 8 = .data → off + 8 ≤ 2 ^ 56 →
    off % 8 = 0 → s.modPoison m off 8 = false →
    let own (p : Spot) : Prop := ∃ j, j < 8 ∧ p = .module (modKey m (off + j))
    let old := moduleNumber s m off 8
    let d := w.d.toNat
    (o.fn = .matom → w.fld 17 14 < 8 → ∃ t, exec (.variableLatencyCompletion c id) s = .next t ∧ completed s t c o ∧
      commanded s t m own ∧ sHolds t c v (w.fld 7 0) 0 ∧
      moduleNumber t m off 8 = commandNew (matomOp (w.fld 17 14) (w.mb 13)) old (o.arg 1).toNat (o.arg 2).toNat % 2 ^ 64 ∧
      (w.mb 12 = true → w.fld 7 0 ≠ d → w.fld 7 0 ≠ d + 1 → pairHolds t c v d (BitVec.ofNat 64 old))) ∧
    (o.fn = .mflagSet → ∃ t, exec (.variableLatencyCompletion c id) s = .next t ∧ completed s t c o ∧ keepsBut s t own ∧
      sHolds t c v (w.fld 7 0) 0 ∧ moduleNumber t m off 8 = (o.arg 1).toNat) ∧
    (o.fn = .mflagWait → let flag := BitVec.ofNat 64 old
      let met : Prop := match w.fld 17 16 with
        | 0 => flag.toInt ≤ (o.arg 1).toInt
        | 1 => flag = o.arg 1
        | 2 => (o.arg 1).toInt ≤ flag.toInt
        | _ => flag ≠ o.arg 1
      (met → ∃ t, exec (.variableLatencyCompletion c id) s = .next t ∧ completed s t c o ∧ sameBytes s t ∧ sHolds t c v (w.fld 7 0) 0 ∧
        (w.fld 7 0 ≠ d → w.fld 7 0 ≠ d + 1 → pairHolds t c v d flag)) ∧
      (¬met → ∃ t, exec (.variableLatencyCompletion c id) s = .next t ∧ untouched s t ∧
        (t.core c).findOp id = some { o with outs := o.outs.set 0 flag }))) ∧
  (∀ (s : State) (c id v m off head tail cap : Nat) (o : Op) (w : RWord), AtModule s c id v m off o w →
    s.queueHead m off = some (head, tail, cap) → s.modPoison m off 12 = false → w.fld 11 8 = 0 → w.fld 7 0 ≠ w.d.toNat →
    let near (j : Nat) : Spot := .scratch c ((o.arg 1).toNat + j)
    let ring (x j : Nat) : Spot := .module (modKey m (off + 0x400 + 64 * (x % cap) + j))
    let used := queueUsed head tail cap
    let gives (t : State) (st n : Nat) : Prop := completed s t c o ∧ onlyS s t c v [w.d.toNat, w.fld 7 0] ∧
      sHolds t c v (w.fld 7 0) st ∧ sHolds t c v w.d.toNat n
    (o.fn = .mqPush →
      (cap ≤ used → ∃ t, exec (.variableLatencyCompletion c id) s = .next t ∧ gives t 0x0B 0 ∧ commanded s t m (fun _ => False)) ∧
      (used < cap → ∃ t, exec (.variableLatencyCompletion c id) s = .next t ∧ gives t 0 1 ∧
        moduleNumber t m (off + 4) 4 = (tail + 1) % countMod cap ∧ (∀ j < 64, byteAt t (ring tail j) = byteAt s (near j)) ∧
        commanded s t m (fun p => (∃ j, j < 64 ∧ p = ring tail j) ∨ ∃ j, j < 4 ∧ p = .module (modKey m (off + 4 + j))))) ∧
    (o.fn = .mqPop →
      (used = 0 → ∃ t, exec (.variableLatencyCompletion c id) s = .next t ∧ gives t 0x0A 0 ∧ commanded s t m (fun _ => False)) ∧
      (used ≠ 0 → s.modPoison m (off + 0x400 + 64 * (head % cap)) 64 = false →
        ∃ t, exec (.variableLatencyCompletion c id) s = .next t ∧ gives t 0 1 ∧
        moduleNumber t m off 4 = (head + 1) % countMod cap ∧ (∀ j < 64, byteAt t (near j) = byteAt s (ring head j)) ∧
        commanded s t m (fun p => (∃ j, j < 64 ∧ p = near j) ∨ ∃ j, j < 4 ∧ p = .module (modKey m (off + j)))))) ∧
  (∀ (s : State) (c id v st : Nat) (o : Op) (w : RWord), InFlight s c id v o w → s.podEarlier c o = false →
    (s.core c).releaseReady o.party o.id = true → s.mayPerform c o = true →
    let queue : Prop := o.fn = .mqPush ∨ o.fn = .mqPop
    o.fn = .matom ∨ o.fn = .mflagSet ∨ o.fn = .mflagWait ∨ o.fn = .mred ∨ queue → (queue → w.fld 7 0 ≠ w.d.toNat) →
    s.podPlace (s.core c).asid (w.fld 21 18) (o.arg 0) (if o.fn = .mqPush ∨ o.fn = .mqPop then 0x10000 else if o.fn = .mred then 1 else 8) =
      .error st →
    ∃ t, exec (.variableLatencyCompletion c id) s = .next t ∧ completed s t c o ∧ sameBytes s t ∧ sHolds t c v (w.fld 7 0) st ∧
      (queue → sHolds t c v w.d.toNat 0 ∧ onlyS s t c v [w.d.toNat, w.fld 7 0]) ∧ (¬queue → onlyS s t c v [w.fld 7 0])) ∧
  (∀ (s : State) (c id v : Nat) (o : Op) (w : RWord), InFlight s c id v o w →
    o.fn = .matom ∨ o.fn = .mflagSet ∨ o.fn = .mflagWait ∨ o.fn = .mqPush ∨ o.fn = .mqPop ∨ o.fn = .mred →
    (s.podEarlier c o = true → exec (.variableLatencyCompletion c id) s = .next s) ∧
    (o.fn = .mqPush ∨ o.fn = .mred ∨ o.fn = .mflagSet → (s.core c).releaseReady o.party o.id = false →
      exec (.variableLatencyCompletion c id) s = .next s) ∧
    (o.born + ticksOf (s.group (s.core c).asid (w.fld 21 18)).tout ≤ s.ref → ∃ t, exec (.fabricTimeout c id) s = .next t ∧ completed s t c o ∧
      sameBytes s t ∧ sameChip s t ∧ sHolds t c v (w.fld 7 0) 2) ∧
    (o.port = none → s.ref < o.born + ticksOf (s.group (s.core c).asid (w.fld 21 18)).tout →
      exec (.fabricTimeout c id) s = .next s)))

/-- R325, R333 and R337: GRP.FORM, COL.RS and COL.AG are held while their descriptor is checked, a COL only with fewer than 64 of
its group outstanding. The descriptor is read once what must come before it has been performed: GRP.FORM keeps it; a COL takes GEN
and SEQ of its group, which counts one more, and becomes a collective, or gives its bucket NOT_MEMBER for a group that is not
formed or without this package, FORM_BAD for an invalid field and BAD_ADDR where it is not granted (its signal lying on no page,
and no earlier COL of the context being before its read). GRP.FORM, with no collective of its group outstanding, accepts a
descriptor with its own package a member, no member beyond the pod, no lost module or one of the pod, and its reserved bits 0: the
group is formed, its SEQ 0, its default bound 200 µs; it refuses any other with FORM_BAD. A COL.AG whose collective stands at its
start completes, and the collective runs; a COL whose collective has ended completes. COL.WAIT waits for its bucket and gives the
status. R334, R336 and R337: a member contributes its own shard of a COL.AG when it can be read, what its stream did before it
being performed and no port of its live modules retraining, and is then marked as having contributed; a running collective past
its bound votes ABORT; the coordinator with every vote decides OK when all are OK, OVERFLOW when none is an abort, and ABORTED
otherwise, and a decided collective ends with that status in its bucket, gone from its group. For a collective that is no longer
there each does nothing. -/
def Obligations.GroupsAndCollectives : Prop :=
  ((∀ (i : Instr) (w : RWord) (s : State) (e : Env), i = .grpForm w ∨ i = .colRs w ∨ i = .colAg w → Acts i s e →
    (i ≠ .grpForm w → e.colRoom (w.fld 21 18) = false → exec i s = .next s) ∧
    (i = .grpForm w ∨ e.colRoom (w.fld 21 18) = true → ∃ t, exec i s = .next t ∧ untouched s t ∧ heldThere s e t ∧ counted s e t ∧
      launched s e t .check (fun o => o.arg 0 = BitVec.ofNat 64 (e.srcA true 0)))) ∧
  (∀ (s : State) (c id v : Nat) (o : Op) (w : RWord) (p : Split) (bs : List Byte), (s.core c).findOp id = some o → o.stage = .check →
    o.body = .r w → o.party = .compute v → o.handler = false → s.bad = none → o.fn = .grpForm ∨ o.fn = .colRs ∨ o.fn = .colAg →
    o.since + 3 ≤ s.clk → ((s.core c).warp v).splits.find o.slot = some p →
    (∀ l ∈ opLanes o, s.laneCheck c o.fn o.handler (o.status != 0) o.regions (opSize o) (o.addr.get l 0) = .ok) →
    s.rangeBytes c (s.core c).asid (o.arg 0).toNat 64 = some bs →
    let asid := (s.core c).asid
    let grp := w.fld 21 18
    let g := s.group asid grp
    let n := (s.ctx asid).nextCol
    let x : Collective := { core := c, grp, bkt := w.fld 15 8, gather := o.fn == .colAg, gen := g.gen, seq := g.seq, desc := bs,
                            since := s.ref, party := o.party, op := o.id }
    let goes (t : State) : Prop := sameRegisters s t ∧ sameBytes s t ∧
      ((t.core c).warp v).splits.find o.slot = some { p with held := none, pc := o.pc + 12 }
    let ends (st : Nat) : Prop := ∃ t, exec (.addressCheckEnd c id) s = .next t ∧ goes t ∧
      (t.group asid grp).seq = (g.seq + 1) % 2 ^ 32 ∧ (t.ctx asid).bkts.get (grp * 256 + w.fld 15 8) 0 = st ∧
      (t.ctx asid).cols.find n = none
    (s.mayPerform c o = false → exec (.addressCheckEnd c id) s = .next s) ∧
    (s.mayPerform c o = true → o.fn = .grpForm → ∃ t q, exec (.addressCheckEnd c id) s = .next t ∧ goes t ∧
      (t.core c).findOp id = some q ∧ q.stage = .go ∧ q.bytes = bs) ∧
    (s.mayPerform c o = true → o.fn ≠ .grpForm → (∀ y ∈ s.colOps asid, o.id ≤ y.id) →
      let member : Prop := g.formed = true ∧ g.mask.getLsbD s.self = true
      (¬member → s.walk asid x.sig = .invalid → ends 0x07) ∧
      (member → x.valid s.order = false → s.walk asid x.sig = .invalid → ends 0x0E) ∧
      (member → x.valid s.order = true → s.colGranted asid g x = false → s.walk asid x.sig = .invalid → ends 0x0D) ∧
      (member → x.valid s.order = true → s.colGranted asid g x = true → ∃ t, exec (.addressCheckEnd c id) s = .next t ∧ goes t ∧
        (t.group asid grp).seq = (g.seq + 1) % 2 ^ 32 ∧ (t.ctx asid).cols.find n = some x))) ∧
  (∀ (s : State) (c id v : Nat) (o : Op) (w : RWord), InFlight s c id v o w →
    let asid := (s.core c).asid
    let grp := w.fld 21 18
    let num (a n : Nat) : Nat := leNat ((o.bytes.drop a).take n)
    let good : Prop := (num 0 8).testBit s.self = true ∧ num 0 8 < 2 ^ podN s.order ∧ (num 0xD 1 < podN s.order ∨ num 0xD 1 = 0xFF) ∧
      num 0xC 1 = 0 ∧ ∀ b ∈ o.bytes.drop 16, b = 0
    (o.fn = .grpForm → o.bytes.length = 64 →
      (¬good → ∃ t, exec (.variableLatencyCompletion c id) s = .next t ∧ completed s t c o ∧ sameBytes s t ∧ sameChip s t ∧
        onlyS s t c v [w.d.toNat] ∧ sHolds t c v w.d.toNat 0x0E) ∧
      (good → (s.ctx asid).colsOf grp = [] → s.colOpsOf asid grp = [] →
        ∃ t, exec (.variableLatencyCompletion c id) s = .next t ∧ completed s t c o ∧ sameBytes s t ∧ onlyS s t c v [w.d.toNat] ∧
        sHolds t c v w.d.toNat 0 ∧ (
          let x : Group := { formed := true, mask := BitVec.ofNat 64 (num 0 8), gen := BitVec.ofNat 32 (num 8 4), tout := if num 0xE 2 = 0 then 200 else num 0xE 2, dead := num 0xD 1, seq := 0 }
          t.group asid grp = x))) ∧
    (o.fn = .colRs ∨ o.fn = .colAg →
      ((s.ctx asid).cols.find o.pos = none → ∃ t, exec (.variableLatencyCompletion c id) s = .next t ∧ completed s t c o ∧
        sameRegisters s t ∧ sameBytes s t) ∧
      (∀ x, (s.ctx asid).cols.find o.pos = some x → x.stage = .start → x.gather = true →
        ∃ t, exec (.variableLatencyCompletion c id) s = .next t ∧ completed s t c o ∧ sameRegisters s t ∧ sameBytes s t ∧
          (t.ctx asid).cols.find o.pos = some { x with stage := .run, armed := [], since := s.ref }))) ∧
  (∀ (w : RWord) (s : State) (e : Env), Acts (.colWait w) s e →
    let asid := e.blk.asid
    let mine (x : Op) : Prop := ∃ y, x.body = .r y ∧ y.fld 21 18 = w.fld 21 18 ∧ y.fld 15 8 = w.fld 15 8
    let busy : Prop := (∃ y ∈ (s.ctx asid).colsOf (w.fld 21 18), y.2.bkt = w.fld 15 8) ∨ ∃ x ∈ s.colOps asid, mine x
    (busy → exec (.colWait w) s = .next s) ∧
    (¬busy → ∃ t, exec (.colWait w) s = .next t ∧ untouched s t ∧ moved s e t ∧ counted s e t ∧ launched s e t .go (fun o =>
      o.arg 0 = BitVec.ofNat 64 ((s.ctx asid).bkts.get (w.fld 21 18 * 256 + w.fld 15 8) 0)))) ∧
  (∀ (s : State) (c id v : Nat) (o : Op) (w : RWord), InFlight s c id v o w → o.fn = .colWait → s.mayPerform c o = true →
    ∃ t, exec (.variableLatencyCompletion c id) s = .next t ∧ completed s t c o ∧ sameBytes s t ∧ sameChip s t ∧
      onlyS s t c v [w.d.toNat] ∧ ((t.core c).warp v).s.get w.d.toNat 0 = (o.arg 0).setWidth 32)) ∧
  ((∀ (s : State) (asid col peer : Nat), (s.ctx asid).cols.find col = none → ∀ b,
    exec (.collectiveContribute asid col peer) s = .next s ∧ exec (.collectiveGather asid col) s = .next s ∧
      exec (.collectiveDecision asid col b) s = .next s ∧ exec (.collectiveStatus asid col b) s = .next s) ∧
  (∀ (s : State) (asid col : Nat) (x : Collective), (s.ctx asid).cols.find col = some x → s.bad = none →
    let g := s.group asid x.grp
    let late : Prop := x.since + ticksOf g.tout ≤ s.ref
    let stage (t : State) (k : ColStage) : Prop := ∃ y, (t.ctx asid).cols.find col = some y ∧ y.stage = k
    (x.gather = true → x.stage = .run → x.done.getLsbD s.self = false → g.mask.getLsbD s.self = true →
      (s.core x.core).releaseReady x.party x.op = true → (∀ e ∈ s.liveModules g, s.portWaits e.2 = false) →
      ∀ bs, s.rangeBytes x.core asid x.src x.shb = some bs → s.self < 64 → ∃ t, exec (.collectiveContribute asid col s.self) s = .next t ∧
        sameRegisters s t ∧ ∃ y, (t.ctx asid).cols.find col = some y ∧ y.done.getLsbD s.self = true) ∧
    (x.stage = .run → late → ∃ t, exec (.collectiveDecision asid col true) s = .next t ∧ sameRegisters s t ∧ stage t (.voted 3)) ∧
    (x.stage = .run → x.gather = true → x.done.getLsbD s.self = false → late →
      ∃ t, exec (.collectiveGather asid col) s = .next t ∧ sameRegisters s t ∧ stage t (.voted 3)) ∧
    (x.stage = .run → x.gather = true → x.done.getLsbD s.self = false → ¬late → exec (.collectiveGather asid col) s = .next s) ∧
    (∀ k, x.stage = .voted k → s.self = g.coord → (∀ p ∈ g.members s.order, s.voteOf asid x p ≠ none) →
      ∃ t, exec (.collectiveDecision asid col false) s = .next t ∧ sameRegisters s t ∧ stage t (.decided (
        if ∀ p ∈ g.members s.order, s.voteOf asid x p = some 1 then 0x00
        else if ∀ p ∈ g.members s.order, s.voteOf asid x p = some 1 ∨ s.voteOf asid x p = some 2 then 0x04 else 0x03))) ∧
    (∀ k b, x.stage = .decided k → s.walk asid x.sig = .invalid → ∃ t, exec (.collectiveStatus asid col b) s = .next t ∧ (t.ctx asid).cols.find col = none ∧
      (t.ctx asid).bkts.get (x.grp * 256 + x.bkt) 0 = k)))

/-- R323 and R331: an MRED of one line of I32 elements into an armed window of a module that the package attaches to adds each
into the target buffer, and one into a window that is not armed is dropped; both give OK. R341, R342: XCH.PUSH and REPLAY are held
while the ring's descriptor is checked, XCH.PUSH with its records in the scratchpad. A ring or a count that breaks the rules gives
FORM_BAD, and a ring without room for every record FULL, with no record pushed; once every record pushed has been accepted the
operation gives OK, the number of records, and none parked; while a reply has not come it stays. One that its group's bound
overtakes before it has sent anything gives TIMEOUT. R318, R324, R338, R424: a courier with no request does nothing, and takes a
request only through a port that is up. A failure of a lane that a port in use is up on makes it retrain, and of another lane is
only noted; retraining ends at the first width whose lanes have survived and counts one retraining and its replays; a port that is
up or retrains goes DOWN when no width is left; training brings a port in reset UP where the module's header is as it must be, and
DOWN otherwise. -/
def Obligations.ReductionsExchangesAndPorts : Prop :=
  (∀ (s : State) (c id v m off base x : Nat) (o : Op) (w : RWord), AtModule s c id v m off o w → o.fn = .mred → w.mb 17 = false →
    s.modRegion m off 64 = .reduction base x → s.mayReach (s.ctx (s.core c).asid) m (base + 0x1000 + x) 64 (some []) = true → (o.arg 2).toNat = 64 →
    x + 0x1040 ≤ 0x100000 → base + 0x100000 ≤ 0x40000000 → x % 4 = 0 →
    s.modRegion m (base + 0x1000 + x) 64 = .reduction base (0x1000 + x) →
    let ctl := moduleNumber s m (base + 8) 4
    let tgt := moduleNumber s m (base + 0x10) 8
    let own (i : Nat) : Nat := numberAt s (.scratch c) ((o.arg 1).toNat + 4 * i) 4
    (ctl.testBit 26 = false → ∃ t, exec (.variableLatencyCompletion c id) s = .next t ∧ completed s t c o ∧ sameBytes s t ∧
      sHolds t c v (w.fld 7 0) 0) ∧
    (ctl.testBit 26 = true → ctl % 16 = 1 → x + 64 ≤ moduleNumber s m (base + 0x18) 4 → 0x40000000 ≤ tgt → tgt + 4 * 0x100000 ≤ 2 ^ 56 →
      ∃ t, exec (.variableLatencyCompletion c id) s = .next t ∧ completed s t c o ∧ sHolds t c v (w.fld 7 0) 0 ∧
        elsewhere s t m (tgt + x) 64 ∧
        ∀ i < 16, moduleNumber t m (tgt + x + 4 * i) 4 = (moduleNumber s m (tgt + x + 4 * i) 4 + own i) % 2 ^ 32)) ∧
  ((∀ (w : RWord) (s : State) (e : Env), Acts (.xchPush w) s e → inScratch e (e.bReg 0) (64 * min (e.bReg 1) 64) →
    ∃ t, exec (.xchPush w) s = .next t ∧ untouched s t ∧ heldThere s e t ∧ counted s e t ∧ launched s e t .check (fun o =>
      o.args = [BitVec.ofNat 64 (e.srcA true 0), e.bPair 2, BitVec.ofNat 64 (e.bReg 1), BitVec.ofNat 64 (e.bReg 0)])) ∧
  (∀ (w : RWord) (s : State) (e : Env), Acts (.replay w) s e →
    ∃ t, exec (.replay w) s = .next t ∧ untouched s t ∧ heldThere s e t ∧ counted s e t ∧ launched s e t .check (fun o =>
      o.arg 1 = BitVec.ofNat 64 (e.srcA true 0) ∧ o.arg 2 = BitVec.ofNat 64 (e.bReg 0))) ∧
  (∀ (s : State) (c id v : Nat) (o : Op) (w : RWord) (r : Ring), (s.core c).findOp id = some o → o.body = .r w → o.party = .compute v →
    s.bad = none → o.fn = .xchPush ∨ o.fn = .replay → s.ringPages c (s.core c).asid 32 .read [(o.arg 1).toNat] = .ready →
    s.ringAt (s.core c).asid (o.arg 1) = some r → s.ref < o.born + ticksOf (s.group (s.core c).asid (w.fld 21 18)).tout →
    w.fld 7 0 ≠ w.d.toNat → w.fld 7 0 ≠ w.d.toNat + 1 →
    let n := (o.arg 2).toNat
    let gives (t : State) (st x y : Nat) : Prop := completed s t c o ∧ onlyS s t c v [w.d.toNat, w.d.toNat + 1, w.fld 7 0] ∧
      sHolds t c v (w.fld 7 0) st ∧ sHolds t c v w.d.toNat x ∧ sHolds t c v (w.d.toNat + 1) y
    let good : Prop := 1 ≤ n ∧ n ≤ 64 ∧ (∃ i < 17, r.cap = 2 ^ i) ∧ r.head < r.cap ∧ r.tail < r.cap ∧ r.rsv = 0
    (o.stage = .go → s.podEarlier c o = false → (s.core c).releaseReady o.party o.id = true →
      (¬good → ∃ t, exec (.variableLatencyCompletion c id) s = .next t ∧ gives t 0x0E 0 0 ∧ sameBytes s t) ∧
      (good → o.fn = .xchPush → r.cap ≤ (r.tail + r.cap - r.head) % r.cap + n →
        ∃ t, exec (.variableLatencyCompletion c id) s = .next t ∧ gives t 0x0B 0 0 ∧ sameBytes s t)) ∧
    (o.stage = .held →
      let xs := unpackRecs o.pos o.bytes
      ((∀ x ∈ xs, x.1 = 1 ∧ s.replyFor (s.core c).asid r.xgoff x.2 = some 0) →
        s.ringPages c (s.core c).asid 32 .write [(o.arg 1).toNat] = .ready →
        (s.park (s.core c).asid (o.arg 1) r (if o.fn = .replay then o.pos else 0) []).bad = none →
        ∃ t, exec (.variableLatencyCompletion c id) s = .next t ∧ gives t 0 o.pos 0) ∧
      ((∀ x ∈ xs, x.1 ≠ 0) → (∃ x ∈ xs, x.1 = 1 ∧ s.replyFor (s.core c).asid r.xgoff x.2 = none) →
        ∃ t q, exec (.variableLatencyCompletion c id) s = .next t ∧ untouched s t ∧ (t.core c).findOp id = some q ∧ q.stage = .held))) ∧
  (∀ (s : State) (c id v : Nat) (o : Op) (w : RWord) (r : Ring), (s.core c).findOp id = some o → o.stage = .go → o.body = .r w →
    o.party = .compute v → s.bad = none → o.fn = .xchPush ∨ o.fn = .replay →
    s.ringPages c (s.core c).asid 32 .read [(o.arg 1).toNat] = .ready → s.ringAt (s.core c).asid (o.arg 1) = some r →
    s.podEarlier c o = false → (s.core c).releaseReady o.party o.id = true →
    o.born + ticksOf (s.group (s.core c).asid (w.fld 21 18)).tout ≤ s.ref →
    ∃ t, exec (.variableLatencyCompletion c id) s = .next t ∧ completed s t c o ∧ sameBytes s t ∧ sHolds t c v (w.fld 7 0) 2)) ∧
  ((∀ (s : State) (j : Nat), (s.port j).state ≠ 1 → exec (.courierRequest j) s = .next s) ∧
  (∀ (s : State) (j : Nat), s.bad = none → (s.port j).state = 1 → (∀ cap tail head,
    s.queueHead (moduleAt s.order s.self j) (0x1000000 + 0x10000 * (56 + j)) = some (head, tail, cap) → head = tail) →
    exec (.courierRequest j) s = .next s) ∧
  (∀ (s : State) (j n : Nat), s.bad = none →
    ((s.port j).state ≠ 2 → exec (.linkRetrainComplete j n) s = .next s) ∧
    (∀ wd, (s.port j).state = 2 → (s.port j).usable = some wd → ∃ t, exec (.linkRetrainComplete j n) s = .next t ∧ sameRegisters s t ∧
      sameBytes s t ∧ (∀ i, i ≠ j → t.port i = s.port i) ∧ (let p := s.port j
        t.port j = ⟨1, wd, p.failed, min (p.retrains + 1) 0xFFFF, min (p.replays + n) 0xFFFF⟩))) ∧
  (∀ (s : State) (j lane : Nat), s.bad = none → s.host0.elogsize = 0 → let p := s.port j
    (16 ≤ lane ∨ p.failed.getLsbD lane = true ∨ (p.state ≠ 1 ∧ p.state ≠ 2) → exec (.linkLaneFailure j lane) s = .next s) ∧
    (lane < 16 → p.failed.getLsbD lane = false → p.state = 1 → ∃ t, exec (.linkLaneFailure j lane) s = .next t ∧ sameRegisters s t ∧
      sameBytes s t ∧ (∀ i, i ≠ j → t.port i = s.port i) ∧ (t.port j).failed.getLsbD lane = true ∧
      (t.port j).state = (if ((widthLanes[p.width]?).getD 0).testBit lane then 2 else 1))) ∧
  (∀ (s : State) (j : Nat), s.bad = none → s.host0.elogsize = 0 → (∀ e ∈ s.ctxs, e.2.graphs = []) → let p := s.port j
    (p.usable ≠ none ∨ (p.state ≠ 1 ∧ p.state ≠ 2) → exec (.linkDown j) s = .next s) ∧
    (p.usable = none → p.state = 1 ∨ p.state = 2 → ∃ t, exec (.linkDown j) s = .next t ∧ sameRegisters s t ∧
      (∀ i, i ≠ j → t.port i = s.port i) ∧ t.port j = { p with state := 3 })) ∧
  (∀ (s : State) (j wd : Nat), s.bad = none → (∀ e ∈ s.ctxs, e.2.graphs = []) → let p := s.port j
    let m := moduleAt s.order s.self j
    let able : Prop := s.podcfg.getLsbD 11 = true ∧ s.order ≠ 0 ∧ j ≤ s.order ∧ s.ready.getLsbD (16 + j) = true ∧ p.state = 0 ∧
      p.usable = some wd
    let good : Prop := moduleNumber s m 2 2 = 0x7701 ∧ moduleNumber s m 1 1 = 1 ∧ moduleNumber s m 4 1 = s.order + 1 ∧
      moduleNumber s m 5 1 = m
    (¬able → exec (.portTrainingComplete j wd) s = .next s) ∧
    (able → ∃ t n, exec (.portTrainingComplete j wd) s = .next t ∧ sameRegisters s t ∧ sameBytes s t ∧
      (∀ i, i ≠ j → t.port i = s.port i) ∧ t.port j = { p with state := n, width := wd } ∧ (n = 1 ↔ good) ∧ (n = 3 ↔ ¬good))))

/-! Class GRF: launches, graphs, and the placement of blocks and stack kernels. -/

namespace Sys2Proof.Spec

open Sys2Proof.Machine

/-- A submission performed (R356): its status in D, and of LAUNCHG the number accepted in D + 1. -/
def submitted (s t : State) (c v : Nat) (o : Op) (w : RWord) (st n : Nat) : Prop :=
  completed s t c o ∧ sHolds t c v w.d.toNat st ∧ (o.fn = .launchg → sHolds t c v (w.d.toNat + 1) n) ∧
    onlyS s t c v (if o.fn = .launchg then [w.d.toNat, w.d.toNat + 1] else [w.d.toNat])

/-- The signals and the failure of a launch leave nothing to do at its end. -/
def endsQuietly (l : Launch) : Prop := dSig0 l.desc = 0 ∧ dSig1 l.desc = 0 ∧ l.fail = none

/-- A warp at block start (R96, R98): one split of every lane at CENTRY. -/
def freshWarp (x : Warp) (k : Kernel) (clk : Nat) : Prop :=
  x.splits = [(0, { pc := k.centry, m := lowLanes k.w, ready := clk })] ∧ x.en = lowLanes k.w ∧ x.live = lowLanes k.w ∧ x.v = [] ∧
    x.s = [] ∧ x.p = [] ∧ x.flags = 0 ∧ x.acc.apc = k.aentry ∧ x.acc.slip = k.slip

end Sys2Proof.Spec

/-- R355 to R357: LAUNCH and LAUNCHG launch with the address of their descriptors, a multiple of 64, and raise ALIGN_FAULT for any
other; NQ.PUSH launches when its records lie in the scratchpad, NQ.FLUSH and NQ.STAT with their node. Performed, a LAUNCHG of no
descriptor or of more than 64 gives LAUNCH_FORM (log 32); one descriptor whose checks give a launch is accepted under the next
LNCHID while there is room, and gives FULL otherwise; a check's status is the result, with nothing accepted. A node of no active
graph takes no record, answers a flush with 2, and reads as absent; a node without records answers a flush with 0x0A, and NQ.STAT
reads a node's counts. -/
def Obligations.LaunchAndQueueWords : Prop :=
  (∀ (i : Instr) (w : RWord) (s : State) (e : Env), i = .launch w ∨ i = .launchg w → Acts i s e →
    let a := e.srcA true 0
    (a % 64 ≠ 0 → exec i s = .next (e.raise s 7 (addrTrap .alignFault a))) ∧
    (a % 64 = 0 → ∃ t, exec i s = .next t ∧ untouched s t ∧ moved s e t ∧ counted s e t ∧ launched s e t .go (fun o =>
      o.args = [BitVec.ofNat 64 a, BitVec.ofNat 64 (if i = .launchg w then e.srcB false 0 else 1)]))) ∧
  (∀ (w : RWord) (s : State) (e : Env), Acts (.nqPush w) s e → inScratch e (e.srcB false 0) (64 * (w.fld 5 0 + 1)) →
    ∃ t, exec (.nqPush w) s = .next t ∧ untouched s t ∧ moved s e t ∧ counted s e t ∧
      launched s e t .go (fun o => o.args = [BitVec.ofNat 64 (e.srcA false 0), BitVec.ofNat 64 (e.srcB false 0)])) ∧
  (∀ (i : Instr) (w : RWord) (s : State) (e : Env), i = .nqFlush w ∨ i = .nqStat w → Acts i s e →
    ∃ t, exec i s = .next t ∧ untouched s t ∧ moved s e t ∧ counted s e t ∧
      launched s e t .go (fun o => o.args = [BitVec.ofNat 64 (e.srcA false 0)])) ∧
  (∀ (s : State) (c id v : Nat) (o : Op) (w : RWord), InFlight s c id v o w → o.fn = .launch ∨ o.fn = .launchg →
    let n := (o.arg 1).toNat
    let asid := (s.core c).asid
    ((s.core c).releaseReady o.party o.id = false → exec (.variableLatencyCompletion c id) s = .next s) ∧
    ((s.core c).releaseReady o.party o.id = true →
      (n = 0 ∨ 64 < n → ∃ t, exec (.variableLatencyCompletion c id) s = .next t ∧ submitted s t c v o w 2 0 ∧ t.launches = s.launches) ∧
      (∀ st u, n = 1 → s.checkLaunch asid ((o.arg 0).toNat % 2 ^ 64) .program = (.status st, u) → u.bad = none → sameRegisters s u →
        ∃ t, exec (.variableLatencyCompletion c id) s = .next t ∧ submitted u t c v o w st 0 ∧ t.launches = u.launches) ∧
      (∀ u, n = 1 → s.checkLaunch asid ((o.arg 0).toNat % 2 ^ 64) .program = (.wait, u) → u.bad = none →
        exec (.variableLatencyCompletion c id) s = .next u) ∧
      (∀ l u, n = 1 → s.checkLaunch asid ((o.arg 0).toNat % 2 ^ 64) .program = (.ok l, u) → u.bad = none →
        (1024 < u.launches.length + 1 → ∃ t, exec (.variableLatencyCompletion c id) s = .next t ∧ submitted u t c v o w 1 0 ∧
          t.launches = u.launches) ∧
        (u.launches.length + 1 ≤ 1024 → ∃ t, exec (.variableLatencyCompletion c id) s = .next t ∧ submitted u t c v o w 0 1 ∧
          t.launches.find u.nextLaunch = some l ∧ t.nextLaunch = u.nextLaunch + 1 ∧
          ∀ j, j ≠ u.nextLaunch → t.launches.find j = u.launches.find j)))) ∧
  (∀ (s : State) (c id v : Nat) (o : Op) (w : RWord), InFlight s c id v o w → (s.ctx (s.core c).asid).graphs.find (w.fld 21 20) = none →
    (o.fn = .nqPush → o.pos = 0 → (s.core c).releaseReady o.party o.id = true → ∃ t, exec (.variableLatencyCompletion c id) s = .next t ∧
      completed s t c o ∧ sameBytes s t ∧ onlyS s t c v [w.d.toNat] ∧ sHolds t c v w.d.toNat 0) ∧
    (o.fn = .nqFlush → ∃ t, exec (.variableLatencyCompletion c id) s = .next t ∧ completed s t c o ∧ sameBytes s t ∧
      onlyS s t c v [w.d.toNat] ∧ sHolds t c v w.d.toNat 2) ∧
    (o.fn = .nqStat → ∃ t, exec (.variableLatencyCompletion c id) s = .next t ∧ completed s t c o ∧ sameBytes s t ∧
      onlyS s t c v ((List.range 4).map (w.d.toNat + ·)) ∧ sHolds t c v w.d.toNat 0 ∧ sHolds t c v (w.d.toNat + 1) 0 ∧
      sHolds t c v (w.d.toNat + 2) 0 ∧ sHolds t c v (w.d.toNat + 3) 0x200)) ∧
  (∀ (s : State) (c id v : Nat) (o : Op) (w : RWord) (g : GraphSlot), InFlight s c id v o w →
    (s.ctx (s.core c).asid).graphs.find (w.fld 21 20) = some g → (o.arg 0).toNat < tNodes g.table →
    let x := g.node (o.arg 0).toNat
    (o.fn = .nqFlush → x.pend = 0 → ∃ t, exec (.variableLatencyCompletion c id) s = .next t ∧ completed s t c o ∧ sameBytes s t ∧
      onlyS s t c v [w.d.toNat] ∧ sHolds t c v w.d.toNat 0x0A) ∧
    (o.fn = .nqStat → ∃ t, exec (.variableLatencyCompletion c id) s = .next t ∧ completed s t c o ∧ sameBytes s t ∧
      onlyS s t c v ((List.range 4).map (w.d.toNat + ·)) ∧ sHolds t c v w.d.toNat x.pend ∧ sHolds t c v (w.d.toNat + 1) x.outstanding ∧
      sHolds t c v (w.d.toNat + 2) x.formed))

/-- R345, R346, R352: a gate is opened once for a launch that is pending: without a gate it is released at once, in the order of
release, with every block of its grid to be placed; with one it is released when the gate's number is not above 0 and stays
pending while it is, and a gate that cannot be read fails it. A launch all of whose units have ended is over: with no signal, no
failure and no timetable entry it is gone and nothing else has changed; its signal in HBM falls by 1. R349, R378: a launch that
may pre-empt and finds no free core asks for the core of its first victim; one that may not, has nothing to place, or finds a free
core, asks for none. R354: a retry for a slot that is not active does nothing, and of an active one with nothing to form or submit
changes no node; a flush timer that has run out asks for a flush, and one that has not does nothing. R341: a drain engine with no
entry in use does nothing, nor does one whose queue is empty or poisoned (log 142); a record for a node that the graph does not
have is popped and answered with CODE 1. -/
def Obligations.LaunchesAndScheduler : Prop :=
  ((∀ (s : State) (id : Nat), (s.launches.find id = none ∨ ∃ l, s.launches.find id = some l ∧ l.stage ≠ 0) →
    exec (.gateOpen id) s = .next s) ∧
  (∀ (s : State) (id : Nat) (l : Launch), s.bad = none → s.launches.find id = some l → l.stage = 0 → dKind l.desc = 0 →
    let released (u t : State) : Prop := t.releases = u.releases + 1 ∧ sameRegisters u t ∧ sameBytes u t ∧
      (∀ j, j ≠ id → t.launches.find j = u.launches.find j) ∧
      ∃ y, t.launches.find id = some y ∧ y.stage = 1 ∧ y.rel = u.releases ∧ y.left = dBlocks l.desc ∧ y.next = l.next
    (dGate l.desc = 0 → ∃ t, exec (.gateOpen id) s = .next t ∧ released s t) ∧
    (∀ u, dGate l.desc ≠ 0 → s.lcRange l.asid (dGate l.desc) 8 .read = (.ok, u) → u.bad = none →
      let v := (BitVec.ofNat 64 (leNat (u.lcBytes l.asid (dGate l.desc) 8))).toInt
      (0 < v → exec (.gateOpen id) s = .next u) ∧ (v ≤ 0 → ∃ t, exec (.gateOpen id) s = .next t ∧ released u t)) ∧
    (∀ u k, dGate l.desc ≠ 0 → s.lcRange l.asid (dGate l.desc) 8 .read = (.bad k, u) → u.bad = none →
      ∃ t y, exec (.gateOpen id) s = .next t ∧ t.launches.find id = some y ∧ y.isOver = true ∧
        y.fail = some { cause := k.code, ckind := 0, addr := dGate l.desc })) ∧
  (∀ (s : State) (id : Nat) (l : Launch), s.bad = none → s.launches.find id = some l →
    (l.isOver = false → exec (.launchDone id) s = .next s) ∧
    (l.isOver = true → l.src = .program → endsQuietly l →
      exec (.launchDone id) s = .next { s with launches := s.launches.del id }) ∧
    (∀ u leaf base x pa, l.isOver = true → l.src = .program → dSig0 l.desc ≠ 0 → dSig0 l.desc % 8 = 0 → dSig1 l.desc = 0 → l.fail = none →
      s.lcRange l.asid (dSig0 l.desc) 8 .both = (.ok, u) → u.bad = none → u.xlate u.ltlb l.asid (dSig0 l.desc) = .ok leaf base x →
      placeOf leaf base (dSig0 l.desc) = .hbm pa → pa + 8 ≤ hbmTop → s.sigPage l.asid (dSig0 l.desc) = .ok →
      ∃ t, exec (.launchDone id) s = .next t ∧ t.launches = u.launches.del id ∧ sameRegisters u t ∧
        BitVec.ofNat 64 (numberAt t .hbm pa 8) = BitVec.ofNat 64 (numberAt u .hbm pa 8) - 1 ∧
        keepsBut u t (fun p => ∃ j, j < 8 ∧ p = .hbm (pa + j))))) ∧
  ((∀ (s : State) (id : Nat), (s.launches.find id = none ∨ s.wants id = false ∨ (∃ l, s.launches.find id = some l ∧
      (dPre l.desc = false ∨ ∃ c < 96, s.coreOk id l c = true))) → exec (.spatialPreemptionRequest id) s = .next s) ∧
  (∀ (s : State) (id c : Nat) (l : Launch), s.bad = none → s.launches.find id = some l → s.wants id = true → dPre l.desc = true →
    (∀ d < 96, s.coreOk id l d = false) → s.victims l = [c] → (∀ x ∈ s.cores, x.2.preempt = none) → s.savedWith c = [] →
    dCores l.desc = 0 → l.next < dBlocks l.desc → ∃ t, exec (.spatialPreemptionRequest id) s = .next t ∧
      t.core c = { s.core c with preempt := some ⟨some id, s.ref, none⟩ } ∧ (∀ d, d ≠ c → t.core d = s.core d) ∧ sameBytes s t ∧
      t.launches = s.launches) ∧
  (∀ (s : State) (asid slot node : Nat), s.bad = none → (s.ctx asid).graphs.find slot = none →
    exec (.batchSubmissionRetry asid slot node) s = .next s ∧ exec (.flushTimerExpiry asid slot node) s = .next s ∧
      ∀ e, exec (.drainRecord asid slot e) s = .next s) ∧
  (∀ (s : State) (asid slot node : Nat) (g : GraphSlot), s.bad = none → (s.ctx asid).graphs.find slot = some g → g.enders = [] →
    let x := g.node node
    (∀ b ∈ x.batches, b.launch ≠ none ∨ b.isOver = true) →
    (x.pend < tTile g.table node → x.flush = false → x.outstanding < tMaxb g.table node →
      ∃ t h, exec (.batchSubmissionRetry asid slot node) s = .next t ∧ sameRegisters s t ∧ sameBytes s t ∧ t.launches = s.launches ∧
        (t.ctx asid).graphs.find slot = some h ∧ h.table = g.table ∧ ∀ n, h.node n = g.node n) ∧
    (∀ t0, x.timer = some t0 → node < tNodes g.table → 0 < x.pend → tFlush g.table node ≠ 0 → x.flush = false →
      tMaxb g.table node ≤ x.outstanding →
      (s.ref < t0 + ticksOf (tFlush g.table node) → exec (.flushTimerExpiry asid slot node) s = .next s) ∧
      (t0 + ticksOf (tFlush g.table node) ≤ s.ref → ∃ t h, exec (.flushTimerExpiry asid slot node) s = .next t ∧ sameRegisters s t ∧
        sameBytes s t ∧ (t.ctx asid).graphs.find slot = some h ∧ h.node node = { x with flush := true })) ∧
    (x.timer = none → exec (.flushTimerExpiry asid slot node) s = .next s)) ∧
  (∀ (s : State) (asid slot : Nat) (g : GraphSlot), s.bad = none → (s.ctx asid).graphs.find slot = some g →
    (∀ e < 8, tMaddr g.table e = 0) → ∀ e, exec (.drainRecord asid slot e) s = .next s) ∧
  (∀ (s : State) (asid slot e m base head tail cap : Nat) (g : GraphSlot), s.bad = none → (s.ctx asid).graphs.find slot = some g → e < 8 →
    tMaddr g.table e ≠ 0 → (∀ d < 8, d ≠ e → tMaddr g.table d = 0) → g.unreachable = [] → s.drainBad asid g.table e = none →
    s.maddr (s.group asid (tGrp g.table e)).dead (tMaddr g.table e) = .ok (m, base, none) → (∃ j, s.route m none = .direct j) →
    s.queueHead m base = some (head, tail, cap) →
    let record := s.modBytes m (base + 0x400 + 64 * (head % cap)) 64
    let seq := bits (leNat (record.take 8)) 63 48
    let off := replyOff (tXgoff g.table e) (bits (leNat (record.take 8)) 47 40) seq
    let spoilt : Prop := s.modPoison m base 12 = true ∨ s.modPoison m (base + 0x400 + 64 * (head % cap)) 64 = true
    (queueUsed head tail cap = 0 ∨ spoilt → exec (.drainRecord asid slot e) s = .next s) ∧
    (queueUsed head tail cap ≠ 0 → ¬spoilt → tNodes g.table ≤ leNat (record.take 4) → s.modRegion m off 8 = .data → off % 8 = 0 →
      ∃ t, exec (.drainRecord asid slot e) s = .next t ∧ sameRegisters s t ∧
        moduleNumber t m base 4 = (head + 1) % countMod cap ∧ moduleNumber t m off 8 = seq * 2 ^ 48 + 1 ∧
        keepsBut s t (fun p => portSlots s m p ∨ (∃ j, j < 4 ∧ p = .module (modKey m (base + j))) ∨
          ∃ j, j < 8 ∧ p = .module (modKey m (off + j))))))

/-- R96, R98, R176, R211, R348 and R382: placement puts the first block that may be placed on its core: with its save area, its
kernel, and every warp at block start; the launch is running and its next block follows. Where nothing can be placed nothing
changes. R233, R372 and R374: a block ends when every stream has ended and nothing is outstanding, nor, where its end gives
back the cluster's regions, a write of the other core: its core is empty and its launch has one unit fewer to wait for. An
uncorrectable scratchpad error ends the block with SCRATCH_ECC (R374). R260, R280, R281 and R350: a stack kernel starts on a
stack core that its launch has still to take, that is ready, has nothing to do and that no launch takes before it: the image
stands in the instruction memory at ENTRY, and the core runs from there with the argument in X1 and the near window that now
stands. A kernel that must leave stops; with no bank DMA it is saved in the stack core's save area, and a saved kernel comes
back, when none goes before it, with the registers and memories of its area and the near window that it had. -/
def Obligations.BlocksAndStackKernels : Prop :=
  ((∀ (s : State), s.placement = none → exec .blockPlacement s = .next s) ∧
  (∀ (s : State) (id b c area : Nat) (l : Launch), s.bad = none → s.placement = some (id, l, b, none, c) → s.areaFree l.asid = some area →
    ∃ t x, exec .blockPlacement s = .next t ∧ (t.core c).block = some x ∧ x.launch = id ∧ x.asid = l.asid ∧ x.b = b ∧ x.kernel = l.kernel ∧
      x.relaunch = 0 ∧ x.savebase = area ∧ x.failed = none ∧ (t.ctx l.asid).areas.find area = some true ∧
      (∀ w, w < l.kernel.nwarps → freshWarp ((t.core c).warp w) l.kernel s.clk) ∧ (t.core c).mst.mpc = l.kernel.mentry ∧
      (t.core c).ops = [] ∧ (t.core c).halt = none ∧ (t.core c).tiles = [] ∧ (t.core c).tags = 0 ∧ (t.core c).sys = [] ∧
      t.launches.find id = some { l with next := l.next + 1, stage := 2 } ∧ ∀ d, d ≠ c → t.core d = s.core d) ∧
  (∀ (s : State) (c : Nat) (b : Block), s.bad = none → (s.core c).block = some b → b.failed = none →
    let k := s.core c
    let ended : Prop := (∀ w, w < b.kernel.nwarps → (k.warp w).ended = true) ∧ (b.kernel.matrix = true → k.mst.mend = true) ∧
      k.halt = none ∧ k.ops = [] ∧ k.array = [] ∧ k.pends = []
    (¬ended ∨ s.clusterQuiet c b.launch = false → exec (.blockEnd c) s = .next s) ∧
    (ended → s.clusterQuiet c b.launch = true → ∃ t, exec (.blockEnd c) s = .next t ∧ (t.core c).block = none ∧ (t.core c).warps = [] ∧
      (t.core c).scratch = k.scratch ∧ (t.core c).wbuf = k.wbuf ∧ (∀ l, s.launches.find b.launch = some l → l.fail = none →
        t.launches.find b.launch = some { l with left := l.left - 1 }))) ∧
  (∀ (s : State) (c : Nat), (s.core c).block = none → exec (.blockEnd c) s = .next s ∧ exec (.scratchEcc c) s = .next s) ∧
  (∀ (s : State) (c : Nat) (b : Block), s.bad = none → (s.core c).block = some b →
    (b.failed ≠ none → exec (.scratchEcc c) s = .next s) ∧
    (b.failed = none → ∃ t, exec (.scratchEcc c) s = .next t ∧ sameBytes s t ∧
      (t.core c).block = some { b with failed := some .scratchEcc } ∧ ∀ w, (t.core c).warp w = (s.core c).warp w))) ∧
  ((∀ (s u : State) (id g k : Nat) (l : Launch) (bs : List Byte), s.bad = none → u.bad = none → s.launches.find id = some l → dKind l.desc = 1 →
    l.stage ≠ 0 → l.suspended = false → l.todo = [(g, k)] → s.ready.getLsbD (24 + g) = true → (s.sc g k).queue = [] →
    (s.sc g k).job = .idle → (s.sc g k).dmas = [] →
    (∀ r, s.stackBefore g k id l = true → exec (.stackKernelStart id g k r) s = .next s) ∧
    (s.stackBefore g k id l = false → s.lcRead l.asid (dCode l.desc) (4 * dWords l.desc) = (.ok, bs, u) →
    (∃ t, exec (.stackKernelStart id g k true) s = .next t ∧ sameRegisters u t ∧ t.launches.find id = some { l with todo := [], stage := 2 } ∧ (
      let x := t.sc g k
      x.job = .kernel id ∧ x.pc = dEntry l.desc ∧ x.xreg 1 = BitVec.ofNat 64 (dArg l.desc) ∧ x.rets = [] ∧ x.claims = [] ∧
      (∀ j (h : j < bs.length), x.imem.get (dEntry l.desc + j) 0 = bs[j]) ∧
      (∀ i, i ≠ 1 → x.xreg i = (s.sc g k).xreg i) ∧ x.scratch = (s.sc g k).scratch ∧ x.wlo = x.nwbase ∧ x.whi = x.nwlim)) ∧
    (l.fail = none → ∃ t, exec (.stackKernelStart id g k false) s = .next t ∧ sameRegisters u t ∧ t.launches.find id =
      some { l with todo := [], stage := 2, left := l.left - 1, fail := some { cause := 4, ckind := 1, addr := dCode l.desc } }))) ∧
  (∀ (s : State) (id g k : Nat) (r : Bool), s.launches.find id = none → exec (.stackKernelStart id g k r) s = .next s) ∧
  (∀ (s : State) (id g k : Nat), s.bad = none → (s.sc g k).job = .kernel id → (s.sc g k).saved = none → (s.sc g k).ending = none →
    let leaves : Prop := (s.sc g k).stopping = true ∨ s.mustLeave g k id = true
    (¬leaves → exec (.stackKernelPreempt g k) s = .next s) ∧
    (leaves → (s.sc g k).dmas ≠ [] → exec (.stackKernelPreempt g k) s = .next (s.setSc g k { s.sc g k with stopping := true })) ∧
    (leaves → (s.sc g k).dmas = [] → (s.sc g k).deferral = [] → ∃ t, exec (.stackKernelPreempt g k) s = .next t ∧
      sameRegisters s t ∧ (t.sc g k).saved = some id ∧ (t.sc g k).job = .idle ∧ (t.sc g k).claims = [] ∧
      (∀ j (h : j < (s.sc g k).image.length), byteAt t (.hbm (nearPa g k saveNear + j)) = (s.sc g k).image[j]) ∧
      ∀ p, (∀ j < (s.sc g k).image.length, p ≠ .hbm (nearPa g k saveNear + j)) → byteAt t p = byteAt s p)) ∧
  (∀ (s : State) (g k : Nat), (∀ id, (s.sc g k).job ≠ .kernel id) → exec (.stackKernelPreempt g k) s = .next s) ∧
  (∀ (s : State) (g k : Nat), (s.sc g k).saved = none → exec (.stackKernelRestore g k) s = .next s) ∧
  (∀ (s : State) (id g k : Nat) (l : Launch), s.bad = none → (s.sc g k).saved = some id → s.launches.find id = some l →
    (l.suspended = true ∨ (s.sc g k).job ≠ .idle ∨ s.stackBefore g k id l = true → exec (.stackKernelRestore g k) s = .next s) ∧
    (l.suspended = false → (s.sc g k).job = .idle → s.stackBefore g k id l = false → ∃ t, exec (.stackKernelRestore g k) s = .next t ∧
      sameRegisters s t ∧ (let x := t.sc g k
        let at' (o n : Nat) : Nat := numberAt s .hbm (nearPa g k saveNear + o) n
        x.saved = none ∧ x.job = .kernel id ∧ x.pc = at' 0x900 8 ∧ (∀ i, 0 < i → i < 32 → x.xreg i = BitVec.ofNat 64 (at' (8 * i) 8)) ∧
        x.sflags = BitVec.ofNat 32 (at' 0x908 8) ∧ x.wlo = (s.sc g k).slo ∧ x.whi = (s.sc g k).shi ∧
        ∀ a < 0x20000, byteAt t (.near g k a) = byteAt s (.hbm (nearPa g k saveNear + 0x9000 + a))))))

/-! The package as a whole: time, power, readiness, errors, pre-emption, contexts, and the memory-management processor. -/

namespace Sys2Proof.Spec

open Sys2Proof.Machine

/-- The host's registers and the time may differ; the cores and every byte are as before. -/
def quiet (s t : State) : Prop := sameRegisters s t ∧ sameBytes s t

/-- The leaf that maps a page: its place in HBM, its page's size and its word. -/
def mapped (s : State) (asid va place size leaf : Nat) : Prop := s.leafOf asid va = some (place, size, leaf) ∧ s.bad = none ∧ place + 8 ≤ hbmTop

/-- The leaf's word has been replaced, and no other byte of any memory but for what slices write back. -/
def releaf (s t : State) (place leaf : Nat) : Prop :=
  numberAt t .hbm place 8 = leaf % 2 ^ 64 ∧ keepsBut s t (fun p => ∃ j, j < 8 ∧ p = .hbm (place + j))

/-- A shootdown of a range has been sent to every receiver. -/
def shot (s t : State) (asid va size : Nat) (after : AfterShoot) : Prop :=
  t.shoots = s.shoots ++ [⟨asid, va, size, List.range 193, after⟩]

end Sys2Proof.Spec

/-- R351, R352, R404, R407, R410, R411, R413 and R414: the host's control registers, the time and the power. PODCFG takes its
value until VALID stands; a step of TODNS waits for the next boundary of a microsecond and takes effect there; a PPS edge latches
TODNS and counts; a trigger pulse of 20 ns or more fires an armed trigger where the pin is enabled; power above a cap in the
register's range, or too much heat, slows the arithmetic clock by one step of at most 19, and otherwise it gains one back; a
shutdown stops all work. A write of RATE, of TTBASE and of the power cap. No register of a core and no byte changes. R405, R406
and R161: a reset gives the reset state again, but for the host's memory, the weight stores and, beneath slices that hold no
modified line, the DRAM and the modules, which this model keeps (its choice, log 31). A self-test raises its bit of READY and a
fall lowers it. A refresh window of a die starts and ends at its clocks. -/
def Obligations.TimePowerAndReset : Prop :=
  (∀ (s : State), s.bad = none →
  (∀ v : BitVec 64, s.podcfg.getLsbD 11 = false → v.getLsbD 11 = false → ∃ t, exec (.podcfgWrite 8 v) s = .next t ∧ quiet s t ∧
    t.podcfg = BitVec.ofNat 64 (v.toNat % 2 ^ 12)) ∧
  (∀ v : BitVec 64, s.podcfg.getLsbD 11 = true → s.host0.elogsize = 0 → ∃ t, exec (.podcfgWrite 8 v) s = .next t ∧ quiet s t ∧ t.podcfg = s.podcfg) ∧
  (∀ v : BitVec 64, ∃ t, exec (.todstepWrite 8 v) s = .next t ∧ quiet s t ∧ t.todStep = s.todStep + v.toInt ∧ t.tod = s.tod) ∧
  (∃ t, exec .ppsEdge s = .next t ∧ quiet s t ∧ t.host0.ppsts = s.todns ∧ t.host0.ppscnt = (s.host0.ppscnt + 1) % 2 ^ 64 ∧ sameChip { s with host0 := t.host0 } t) ∧
  (s.todns / 1000 ≤ s.tick → exec .timetableTick s = .next s) ∧
  (s.tick < s.todns / 1000 → s.ready.getLsbD 2 = false → ∃ t, exec .timetableTick s = .next t ∧ quiet s t ∧ t.todStep = 0 ∧
    t.tod = ((s.tod : Int) + s.todStep * (5 * 2 ^ 32)).toNat ∧ t.tick = t.todns / 1000) ∧
  (∀ n, (n < 20 ∨ s.host0.entrig = false → exec (.trigPinPulse n) s = .next s) ∧
    (20 ≤ n → s.host0.entrig = true → s.host0.armed = true → ∃ t, exec (.trigPinPulse n) s = .next t ∧ quiet s t ∧
      t.host0.armed = false ∧ t.host0.snaps = s.host0.snaps + 1)) ∧
  (∀ p h, 1000 ≤ s.host0.pwrcap → s.host0.pwrcap ≤ 5600 → (s.host0.pwrcap < p ∨ 1050 ≤ h → ∃ t, exec (.thermalThrottle p h) s = .next t ∧ quiet s t ∧ t.throttle = min (s.throttle + 1) 19 ∧
      t.host0.hottest = h) ∧
    (¬(s.host0.pwrcap < p ∨ 1050 ≤ h) → ∃ t, exec (.thermalThrottle p h) s = .next t ∧ quiet s t ∧ t.throttle = s.throttle - 1 ∧
      t.host0.hottest = h)) ∧
  (∀ d, s.host0.elogsize = 0 → ∃ t, exec (.thermalShutdown d) s = .next t ∧ quiet s t ∧ t.stopped = true) ∧
  (∀ v : BitVec 64, ∃ t, exec (.registerWrite 0x90 8 v) s = .next t ∧ quiet s t ∧ t.rate = (v.setWidth 32).toInt) ∧
  (∀ v : BitVec 64, ∃ t, exec (.registerWrite 0x40 8 v) s = .next t ∧ quiet s t ∧ t.host0.ttbase = v.toNat) ∧
  (∀ v : BitVec 64, ∃ t, exec (.registerWrite 0x200 8 v) s = .next t ∧ quiet s t ∧ t.host0.pwrcap = v.toNat) ∧
  (∀ (o n : Nat) (v : BitVec 64), n ≠ 8 ∨ o % 8 ≠ 0 → s.host0.elogsize = 0 → ∃ t, exec (.registerWrite o n v) s = .next t ∧ quiet s t ∧
    t.host0 = { s.host0 with elogdrop := min (s.host0.elogdrop + 1) (2 ^ 64 - 1) })) ∧
  ((∀ (s : State), ∃ t, exec .reset s = .next t ∧ t.ws = s.ws ∧ t.host = s.host ∧
    (∀ f, { t with hbm := [], mods := [], ws := [], host := [], fresh := f } = { State.reset with fresh := f }) ∧
    ((∀ e ∈ s.l2, e.2.st ≠ .m) → t.hbm = s.hbm ∧ t.mods = s.mods)) ∧
  (∀ (s : State) (b : Nat), s.bad = none →
    (b ∈ readyBits → ∃ t, exec (.selfTestPass b) s = .next t ∧ t.ready.getLsbD b = true ∧ quiet s t ∧
      ∀ i < 64, i ≠ b → t.ready.getLsbD i = s.ready.getLsbD i) ∧
    (¬b ∈ readyBits → exec (.selfTestPass b) s = .next s) ∧
    (s.ready.getLsbD b = false → exec (.readyFall b) s = .next s) ∧
    (s.ready.getLsbD b = true → s.host0.elogsize = 0 → b < 16 ∨ 24 ≤ b → ∃ t, exec (.readyFall b) s = .next t ∧ t.ready.getLsbD b = false ∧
      quiet s t ∧ ∀ i < 64, i ≠ b → t.ready.getLsbD i = s.ready.getLsbD i)) ∧
  (∀ (s : State) (d : Nat), s.bad = none →
    (d < 6 → refreshPhase s.clk d < 320 → ∃ t, exec (.refreshWindowStart d) s = .next t ∧ untouched s t ∧ t.refresh.get d false = true) ∧
    (320 ≤ refreshPhase s.clk d → exec (.refreshWindowStart d) s = .next s ∧
      ∃ t, exec (.refreshWindowEnd d) s = .next t ∧ untouched s t ∧ t.refresh.get d false = false) ∧
    (refreshPhase s.clk d < 320 → exec (.refreshWindowEnd d) s = .next s)))

/-- R32 and R412: a weight-store write is performed once no block runs on the die and the die does not wait to be zeroed: the
bytes of the image stand at the offset in the die's store, and the launch has one unit fewer; an unreadable source fails it. A die
that waits to be zeroed is zeroed once it is idle, and no other die's store changes. R375 and R429: a storage error marks the half
of the register that it meets, and no value changes; a cause that a check finds while a handler runs is dropped, and its word
stands to issue again. -/
def Obligations.WeightStoresAndStorageErrors : Prop :=
  ((∀ (s : State) (id d : Nat) (r : Bool), s.launches.find id = none → exec (.wsloadWrite id d r) s = .next s) ∧
  (∀ (s u : State) (id d : Nat) (l : Launch) (bs : List Byte), s.bad = none → u.bad = none → s.launches.find id = some l → dKind l.desc = 2 →
    l.stage ≠ 0 → l.suspended = false → l.todo = [(d, 0)] →
    (s.dieIdle d = false ∨ s.zeroing.contains d = true → ∀ r, exec (.wsloadWrite id d r) s = .next s) ∧
    (s.dieIdle d = true → s.zeroing.contains d = false → s.lcRead l.asid (dCode l.desc) (dCores l.desc) = (.ok, bs, u) → l.fail = none →
      (∃ t, exec (.wsloadWrite id d true) s = .next t ∧ sameRegisters u t ∧
        t.launches.find id = some { l with todo := [], stage := 2, left := l.left - 1 } ∧
        (∀ j (h : j < bs.length), byteAt t (.weights (d * 2 ^ 29 + dArg l.desc % 2 ^ 32 + j)) = bs[j]) ∧
        ∀ p, (∀ j < bs.length, p ≠ .weights (d * 2 ^ 29 + dArg l.desc % 2 ^ 32 + j)) → byteAt t p = byteAt u p) ∧
      (∃ t, exec (.wsloadWrite id d false) s = .next t ∧ sameRegisters u t ∧ sameBytes u t ∧ t.launches.find id =
        some { l with todo := [], stage := 2, left := l.left - 1, fail := some { cause := 4, ckind := 1, addr := dCode l.desc } }))) ∧
  (∀ (s : State) (d : Nat), s.bad = none →
    (s.zeroing.contains d = false ∨ s.dieIdle d = false → exec (.weightStoreZeroing d) s = .next s) ∧
    (s.zeroing.contains d = true → s.dieIdle d = true → ∃ t, exec (.weightStoreZeroing d) s = .next t ∧ sameRegisters s t ∧
      t.zeroing.contains d = false ∧ (∀ a < 2 ^ 29, byteAt t (.weights (d * 2 ^ 29 + a)) = 0) ∧
      ∀ p, (∀ a < 2 ^ 29, p ≠ .weights (d * 2 ^ 29 + a)) → byteAt t p = byteAt s p))) ∧
  ((∀ (s : State) (c w r l h : Nat) (b : Block), s.bad = none → (s.core c).block = some b →
    (w < b.kernel.nwarps → r < b.kernel.n → l < b.kernel.w → h < 2 → ∃ t, exec (.registerFileEcc c (.vreg w r l h)) s = .next t ∧
      sameBytes s t ∧ (((t.core c).warp w).vreg r).bad.find (2 * l + h) = some {} ∧
      (∀ i, (((t.core c).warp w).vreg r).lane i = (((s.core c).warp w).vreg r).lane i) ∧
      ∀ r', r' ≠ r → ((t.core c).warp w).vreg r' = ((s.core c).warp w).vreg r') ∧
    (b.kernel.nwarps ≤ w ∨ b.kernel.n ≤ r ∨ b.kernel.w ≤ l ∨ 2 ≤ h → ∃ t, exec (.registerFileEcc c (.vreg w r l h)) s = .next t ∧
      untouched s t)) ∧
  (∀ (s : State) (c : Nat) (u : EccUnit), (s.core c).block = none → exec (.registerFileEcc c u) s = .next s) ∧
  (∀ (s : State) (c : Nat) (p : Party) (n : Nat), (s.core c).halt = none → exec (.deferredCauseInHandler c p n) s = .next s) ∧
  (∀ (s : State) (c v n l : Nat) (o : Op) (h : Halt) (x : HSplit) (p : Split) (ca : Cause) (va : Nat) (st : Word64), s.bad = none →
    (s.core c).halt = some h → h.handler = some x → (s.core c).ops = [o] → o.party = .compute v → o.slot = n → o.handler = false →
    o.stage = .check → o.fn = .ld ∨ o.fn = .st → o.eng = none → o.since + 3 ≤ s.clk → opLanes o = [l] →
    (∃ a b, s.laneCheck c o.fn false (o.status != 0) o.regions (opSize o) (o.addr.get l 0) = .bad a ca b) →
    ((s.core c).warp v).splits.find n = some p →
    ∃ t, exec (.deferredCauseInHandler c (.compute v) n) s = .next t ∧ untouched s t ∧ (t.core c).ops = [] ∧ (t.core c).halt = some h ∧
      ((t.core c).warp v).splits.find n = some { p with held := none }))

/-- R363, R376, R377, R379 and R380: a request to a block whose context handles pre-emption halts it with PREEMPT; one that does
not is halted to be saved by hardware; a request that a handler does not serve in 200 µs is saved by hardware as well. The save,
once the skid clocks are over and nothing is in flight (here: of a block that is saved alone and leaves its launch's other block
of the cluster behind), writes the parts into the block's save area, and the block waits to be placed again with its area. Placed
again, it starts its kernel on the core that placement gives it; a block that its handler saved enters the handler with RESUME on
warp 0. -/
def Obligations.PreemptionSavesAndResumes : Prop :=
  (∀ (s : State) (c : Nat) (b : Block) (q : Preempt), s.bad = none → (s.core c).block = some b → (s.core c).preempt = some q →
    (s.core c).halt = none → b.failed = none →
    let x (save : Bool) : Halt := { found := s.clk, party := .matrix, trap := plain .preempt, save := save }
    let k (save : Bool) : Core := { s.core c with halt := some (x save), haltclk := s.clk }
    let handles : Prop := (s.core c).ptrap = true ∧ (s.ctx b.asid).handler ≠ 0
    (handles → exec (.preempt c) s = .next (s.setCore c (k false)) ∧ exec (.hardwareSave c) s = .next s) ∧
    (¬handles → exec (.preempt c) s = .next s ∧ exec (.hardwareSave c) s = .next (s.setCore c (k true)))) ∧
  (∀ (s : State) (c : Nat), (s.core c).block = none → exec (.preempt c) s = .next s ∧ exec (.hardwareSave c) s = .next s ∧
    exec (.handlerSaveTimeout c) s = .next s) ∧
  (∀ (s : State) (c : Nat) (b : Block) (q : Preempt) (h : Halt), s.bad = none → (s.core c).block = some b → (s.core c).preempt = some q →
    (s.core c).halt = some h → b.failed = none → h.save = false → h.entered = true →
    (s.ref < q.since + ticksOf 200 → exec (.handlerSaveTimeout c) s = .next s) ∧
    (q.since + ticksOf 200 ≤ s.ref →
      exec (.handlerSaveTimeout c) s = .next (s.setCore c { s.core c with halt := some { h with save := true } }))) ∧
  (∀ (s : State) (c : Nat) (b : Block) (h : Halt), s.bad = none → (s.core c).block = some b → b.failed = none → (s.core c).halt = some h →
    h.save = true → (s.clk < h.found + 5 → exec (.hardwareSave c) s = .next s) ∧
    (h.found + 5 ≤ s.clk → h.soft = false → (∀ e ∈ s.scores, e.2.queue = [] ∧ e.2.job = .idle) → (s.core c).ops = [] → (s.core c).pends = [] →
      (s.core c).array = [] → (s.core c).busy = 0 → (s.core c).slotPending = false → s.savedWith c = [] → (s.core c).mtxWaiting = none →
      s.aloneOn c b.launch = false →
      (∀ p ∈ (s.core c).usedParts, (s.core c).partPoisoned p (s.core c).allWarps = false) → (∀ q, (s.core c).preempt = some q → q.tie = none) →
      let u := (s.cancelBlock c).abandonWaits c
      let parts := (s.core c).usedParts
      let mask := parts.foldl (fun m p => m + 2 ^ p) 0
      let v := parts.foldl (fun t p => t.areaPut b.asid b.savebase (partBytes u c true p mask (s.core c).allWarps)) u
      v.bad = none → ∃ t x, exec (.hardwareSave c) s = .next t ∧ sameBytes { v with cores := t.cores } t ∧ (t.core c).block = none ∧
        t.away.find s.nextAway = some x ∧ x.launch = b.launch ∧ x.b = b.b ∧ x.how = 1 ∧ x.area = b.savebase ∧ x.relaunch = b.relaunch)) ∧
  (∀ (s : State) (n : Nat), s.away.find n = none → exec (.hardwareRestore n) s = .next s ∧ exec (.resume n) s = .next s) ∧
  (∀ (s : State) (n id b c : Nat) (l : Launch) (x : Away), s.bad = none → s.placement = some (id, l, b, some n, c) → s.away.find n = some x →
    (x.how ≠ 1 → exec (.hardwareRestore n) s = .next s) ∧ (x.how ≠ 2 → exec (.resume n) s = .next s) ∧
    (x.how = 1 → ∃ t y, exec (.hardwareRestore n) s = .next t ∧ t.away.find n = none ∧ (t.core c).block = some y ∧ y.launch = x.launch ∧
      y.b = x.b ∧ y.kernel = l.kernel ∧ y.savebase = x.area ∧ (t.core c).haltclk = x.haltclk) ∧
    (x.how = 2 → (s.ctx l.asid).handler ≠ 0 → ∃ t y g h, exec (.resume n) s = .next t ∧ t.away.find n = none ∧ (t.core c).block = some y ∧
      y.launch = x.launch ∧ y.b = x.b ∧ y.kernel = l.kernel ∧ (t.core c).halt = some g ∧ g.trap.cause = .resume ∧ g.entered = true ∧
      g.handler = some h ∧ h.warp = 0 ∧ h.pc = (s.ctx l.asid).handler ∧ h.m = ((t.core c).warp 0).live))

/-- R408, R409: a context descriptor with reserved bits set gives FORM; a create that grants a stack group or a weight store of
another live context gives CONFLICT; a regrant or destroy of a context that does not live gives NOCTX; a regrant to units of
another context gives CONFLICT, and one that changes the handler gives FORM. A create takes the lowest free number, with the fields of its descriptor, a table of its own and its stack
cores scrubbed. A write while a change goes on gives BUSY. -/
def Obligations.Contexts : Prop :=
  ∀ (s : State) (a : Nat), s.bad = none →
  let op := numberAt s .hbm (a + 0x30) 1
  let asid := numberAt s .hbm (a + 0x31) 1
  let v := numberAt s .hbm a 8
  let form : Prop := s.descForm a = true
  (op = 1 ∨ op = 2 → exec (.contextCreate a) s = .next s) ∧ (op ≠ 1 → exec (.contextRegrant a) s = .next s) ∧
  (op ≠ 2 → exec (.contextDestroy a) s = .next s) ∧
  (∀ i, (i = .contextCreate a ∧ op ≠ 1 ∧ op ≠ 2 ∨ i = .contextRegrant a ∧ op = 1 ∨ i = .contextDestroy a ∧ op = 2) →
    (∀ x, s.change = some x → x.descriptor ≠ a ∨ i = .contextCreate a → ∃ t, exec i s = .next t ∧ untouched { s with host0 := t.host0 } t ∧
      t.host0.ctxstat = 3 + x.asid * 2 ^ 8) ∧
    (s.change = none → ¬form → ∃ t, exec i s = .next t ∧ untouched { s with host0 := t.host0 } t ∧ t.host0.ctxstat = 1) ∧
    (s.change = none → form → i ≠ .contextCreate a → (s.ctx asid).live = false → ∃ t, exec i s = .next t ∧
      untouched { s with host0 := t.host0 } t ∧ t.host0.ctxstat = 6 + asid * 2 ^ 8)) ∧
  (op = 0 → s.change = none → form →
    (s.conflict 256 (v % 2 ^ 24) (v / 2 ^ 24 % 2 ^ 6) = true → ∃ t, exec (.contextCreate a) s = .next t ∧
      untouched { s with host0 := t.host0 } t ∧ t.host0.ctxstat = 4) ∧
    (∀ n root u, s.conflict 256 (v % 2 ^ 24) (v / 2 ^ 24 % 2 ^ 6) = false → n < 256 → (s.ctx n).live = false →
      (∀ i < n, (s.ctx i).live = true) → s.allocTable n 2 = some (root, u) → ∃ t, exec (.contextCreate a) s = .next t ∧ sameRegisters s t ∧ (
        let x := t.ctx n
        let w := numberAt u .hbm a 8
        x.live = true ∧ x.root = root ∧ x.sgrant = v % 2 ^ 24 ∧ x.wsgrant = v / 2 ^ 24 % 2 ^ 6 ∧ x.priocap = w / 2 ^ 30 % 8 ∧
        x.c48 = w.testBit 33 ∧ x.ptrap = w.testBit 34 ∧ x.handler = BitVec.ofNat 64 (numberAt u .hbm (a + 8) 8) ∧
        x.quota = numberAt u .hbm (a + 0x10) 8 ∧ x.htout = numberAt u .hbm (a + 0x18) 4 ∧
        t.host0.ctxstat = n * 2 ^ 8 ∧ (∀ g k, g < 24 → k < 64 → v.testBit g = true → t.sc g k = { asid := n })) ∧
        ∀ i, i ≠ n → t.ctx i = s.ctx i)) ∧
  (op = 1 → s.change = none → form → (s.ctx asid).live = true →
    (s.conflict asid (v % 2 ^ 24) (v / 2 ^ 24 % 2 ^ 6) = true → ∃ t, exec (.contextRegrant a) s = .next t ∧
      untouched { s with host0 := t.host0 } t ∧ t.host0.ctxstat = 4 + asid * 2 ^ 8) ∧
    (s.conflict asid (v % 2 ^ 24) (v / 2 ^ 24 % 2 ^ 6) = false → numberAt s .hbm (a + 8) 8 ≠ (s.ctx asid).handler.toNat →
      ∃ t, exec (.contextRegrant a) s = .next t ∧ untouched { s with host0 := t.host0 } t ∧ t.host0.ctxstat = 1 + asid * 2 ^ 8))

/-- R396 and R397: page requests. With no request nothing is done. A request for a page that is already resident and grants it is
served with no more done, and one whose page does not grant it is refused to the lane that waits. The host's answer makes a HOST
page RESIDENT in its frame; a call that waits past the bound of its context ends as a refusal, and so does a wait for a MIGRATING
page of 200 µs. R397 to R399: what the memory-management processor does to a leaf on the host's requests. An unmap removes it, a
protect replaces R, W and X, an eviction of an HBM page makes it NOTRES, and a migration makes it MIGRATING, each only when no
shootdown of the page goes on, and a place in a slice only inside its near window; with the leaf RESIDENT a shootdown is sent to
every receiver. An answer of the last receiver to a shootdown ends it. A request for a page that is not mapped does nothing. -/
def Obligations.PageRequestsAndShootdowns : Prop :=
  ((∀ (s : State), s.mmpq = [] → exec .mmpPageRequest s = .next s) ∧
  (∀ (s : State) (r : PageReq) (leaf base lvl : Nat), s.bad = none → s.mmpq = [r] → s.shooting r.asid r.va = false →
    s.walk r.asid r.va = .ok leaf base lvl →
    (r.granted leaf = true → exec .mmpPageRequest s = .next { s with mmpq := [] }) ∧
    (∀ c id l, r.granted leaf = false → r.waiters = [⟨c, id, l⟩] → c < 96 → ∃ t, exec .mmpPageRequest s = .next t ∧ t.mmpq = [] ∧
      sameBytes s t ∧ (t.core c).ops = (s.core c).ops.map (fun o => if o.id = id then { o with outs := o.outs.set l 1 } else o))) ∧
  (∀ (s : State) (asid page f : Nat), s.callFor asid page = none →
    exec (.hostPageCallAnswer asid page f) s = .next s ∧ exec (.hostCallTimeout asid page) s = .next s) ∧
  (∀ (s : State) (asid page f place size x : Nat) (y : HostCall), s.callFor asid page = some y → mapped s asid page place size x →
    (s.walk asid page = .notres x → leafTy x = 1 → y.req.granted x = true → f * 2 ^ 16 % size = 0 → f < 2 ^ 36 → s.shooting asid page = false →
      ∃ t, exec (.hostPageCallAnswer asid page f) s = .next t ∧ sameRegisters s t ∧ t.calls = s.calls.erase y ∧
        releaf s t place (residentLeaf x (f * 2 ^ 16)))) ∧
  (∀ (s : State) (asid page : Nat) (y : HostCall), s.callFor asid page = some y → s.bad = none →
    let us := if (s.ctx asid).htout = 0 then 1000 else (s.ctx asid).htout
    (s.ref < y.since + ticksOf us → exec (.hostCallTimeout asid page) s = .next s) ∧
    (∀ c id l, y.since + ticksOf us ≤ s.ref → y.req.waiters = [⟨c, id, l⟩] → c < 96 → ∃ t, exec (.hostCallTimeout asid page) s = .next t ∧
      t.calls = s.calls.erase y ∧ sameBytes s t ∧
      (t.core c).ops = (s.core c).ops.map (fun o => if o.id = id then { o with outs := o.outs.set l 1 } else o))) ∧
  (∀ (s : State) (c id t0 : Nat) (o : Op), s.bad = none → (s.core c).findOp id = some o → o.stage ≠ .done → o.waits = [(0, t0)] →
    (s.ref < t0 + ticksOf 200 → exec (.migratingWaitTimeout c id) s = .next s) ∧
    (t0 + ticksOf 200 ≤ s.ref → ∃ t, exec (.migratingWaitTimeout c id) s = .next t ∧ untouched s t ∧
      (t.core c).findOp id = some { o with status := 1, waits := [] }))) ∧
  ((∀ (s : State) (asid : Nat) (va : BitVec 64), s.leafOf asid va.toNat = none →
    exec (.mmpUnmap asid va) s = .next s ∧ (∀ r w x, exec (.mmpProtect asid va r w x) s = .next s) ∧
      (∀ f, exec (.mmpEvict asid va f) s = .next s) ∧ exec (.mmpPin asid va) s = .next s ∧
      (s.bad = none → ∀ f b, exec (.mmpMigrate asid va f b) s = .next s ∧ exec (.mmpPlace asid (.page va f b)) s = .next s)) ∧
  (∀ (s : State) (asid place size x : Nat) (va : BitVec 64), mapped s asid va.toNat place size x →
    let base := va.toNat - va.toNat % size
    (s.shooting asid base = true → exec (.mmpUnmap asid va) s = .next s ∧ (∀ r w e, exec (.mmpProtect asid va r w e) s = .next s) ∧
      ∀ f, exec (.mmpEvict asid va f) s = .next s ∧ exec (.mmpMigrate asid va f false) s = .next s) ∧
    (s.shooting asid base = false →
      (leafHO x = false → leafSt x = 0 → s.kvBacks asid base = false → ∃ t, exec (.mmpUnmap asid va) s = .next t ∧ sameRegisters s t ∧
        releaf s t place 0 ∧ shot s t asid base size (if leafTy x = 0 then .release (leafFrame x / 2 ^ 16) else .nothing)) ∧
      (∀ r w e, leafHO x = false → leafSt x = 0 → (w = true → r = true) → ∃ t, exec (.mmpProtect asid va r w e) s = .next t ∧ sameRegisters s t ∧
        releaf s t place (setBits x 7 5 ((if r then 1 else 0) + 2 * (if w then 1 else 0) + 4 * (if e then 1 else 0))) ∧
        shot s t asid base size .nothing) ∧
      (∀ f, leafPN x = false → leafSt x = 0 → leafTy x = 0 → ∃ t, exec (.mmpEvict asid va f) s = .next t ∧ sameRegisters s t ∧
        releaf s t place (setBits (setBits x 10 9 1) 51 16 0) ∧ shot s t asid base size (.evict (leafFrame x / 2 ^ 16) size (f * 2 ^ 16))) ∧
      (∀ f, leafPN x = true → exec (.mmpEvict asid va f) s = .next s)) ∧
    (∀ f, leafSt x = 2 ∨ leafTy x ≠ 0 ∨ leafPN x = true → exec (.mmpMigrate asid va f false) s = .next s ∧
      ∀ b, exec (.mmpPlace asid (.page va f b)) s = .next s) ∧
    (∀ f, s.inNear asid va.toNat f = false → exec (.mmpPlace asid (.page va f true)) s = .next s) ∧
    (∀ f, leafSt x ≠ 2 → exec (.mmpMigrate asid va f true) s = .next s) ∧
    (∀ f n, leafValid x size = true → leafSt x = 0 → leafTy x = 0 → leafPN x = false → s.shooting asid base = false → n = size / 2 ^ 16 →
      f % n = 0 → s.runOk asid f n = true → place + 8 ≤ f * 2 ^ 16 ∨ (f + n) * 2 ^ 16 ≤ place →
      ∃ t, exec (.mmpMigrate asid va f false) s = .next t ∧ exec (.mmpPlace asid (.page va f false)) s = .next t ∧
        (s.inNear asid va.toNat f = true → exec (.mmpPlace asid (.page va f true)) s = .next t) ∧ sameRegisters s t ∧
        numberAt t .hbm place 8 = setBits x 10 9 2 % 2 ^ 64 ∧ shot s t asid base size .nothing ∧
        (t.ctx asid).moves.find base = some f)) ∧
  (∀ (s : State) (r : Nat), (∀ x ∈ s.shoots, r ∉ x.waiting) → s.bad = none → exec (.shootdown r) s = .next s) ∧
  (∀ (s : State) (x : Shoot), s.bad = none → s.shoots = [x] → x.waiting = [192] → x.after = .nothing →
    ∃ t, exec (.shootdown 192) s = .next t ∧ quiet s t ∧ t.shoots = [] ∧ ∀ e ∈ t.ltlb, x.hits e = false))

/-- R237, R260, R309, R382 and R397: the mappings that the host asks for. A leaf of a HOST page is written where its table stands;
a request for a context that does not live does nothing. A near window in granules within a granted stack is set; a region over
unpinned HBM pages is entered FREE; a KV space is entered with its parameters; save areas lie in pages of their own; a pin sets
PN. -/
def Obligations.MappingsAndSpaces : Prop :=
  (∀ (s : State) (asid : Nat), (s.ctx asid).live = false → ∀ (va leaf : BitVec 64) (n a b c d e f : Nat),
    exec (.mmpMap asid va leaf n) s = .next s ∧ exec (.mmpCreateKvSpace asid a b c d e f) s = .next s ∧
      exec (.mmpCreateRegion asid a va n) s = .next s ∧ exec (.mmpSaveAreas asid va n) s = .next s ∧
      exec (.mmpPlace asid (.window a b c d)) s = .next s) ∧
  (∀ (s u : State) (asid n e : Nat) (va leaf : BitVec 64), s.bad = none → (s.ctx asid).live = true → 1 ≤ n → n ≤ 3 →
    va.toNat % levelSize n = 0 → leafValid leaf.toNat (levelSize n) = true → leafRV leaf.toNat = false → leafHO leaf.toNat = false →
    leafPN leaf.toNat = false → leafSt leaf.toNat ≠ 2 → s.leafOf asid va.toNat = none → s.shooting asid va.toNat = false → leafTy leaf.toNat = 1 →
    va.toNat < 2 ^ 57 → s.entryFor asid va.toNat n 4 (s.ctx asid).root = some (e, u) → u.bad = none → e + 8 ≤ hbmTop →
    ∃ t, exec (.mmpMap asid va leaf n) s = .next t ∧ releaf u t e leaf.toNat) ∧
  (∀ (s : State) (asid g k lo hi : Nat), s.bad = none → (s.ctx asid).live = true → (s.ctx asid).sgrant.testBit g = true → g < 24 → k < 64 →
    lo % 2 ^ 16 = 0 → hi % 2 ^ 16 = 0 → lo ≤ hi → hi ≤ 0x5FF00000 →
    (s.onlyPages asid (nearPa g k lo) (hi - lo) = true → ∃ t, exec (.mmpPlace asid (.window g k lo hi)) s = .next t ∧ quiet s t ∧
      t.sc g k = { s.sc g k with nwbase := lo, nwlim := hi }) ∧
    (s.onlyPages asid (nearPa g k lo) (hi - lo) = false → exec (.mmpPlace asid (.window g k lo hi)) s = .next s)) ∧
  (∀ (s : State) (asid r n place x : Nat) (va : BitVec 64), mapped s asid va.toNat place (2 ^ 16) x → (s.ctx asid).live = true → r < 4096 →
    (s.region r).valid = false → n = 1 → va.toNat % 2 ^ 16 = 0 → leafTy x = 0 → leafRV x = false → leafHO x = false → leafSt x = 0 →
    s.shooting asid va.toNat = false → ∃ t, exec (.mmpCreateRegion asid r va n) s = .next t ∧ sameRegisters s t ∧
      t.region r = { valid := true, len := 1, asid := asid, base := va.toNat } ∧ (∀ i, i ≠ r → t.region i = s.region i) ∧
      releaf s t place (setBits (setBits x 63 52 r) 15 15 1) ∧ shot s t asid va.toNat (2 ^ 16) .nothing) ∧
  (∀ (s u : State) (asid k nseq nlayer nhead npage dhg pa : Nat), s.bad = none → u.bad = none → (s.ctx asid).live = true → k < 16 →
    (s.ctx asid).kvSpace k = none → nseq < 2 ^ 20 → nlayer < 256 → nhead < 256 → npage < 2 ^ 18 → dhg < 8 →
    s.allocFor asid (levelFrames (nseq + 1)) .directory = some (pa, u) → pa % 2 ^ 16 = 0 → pa < 2 ^ 63 →
    ∃ t, exec (.mmpCreateKvSpace asid k nseq nlayer nhead npage dhg) s = .next t ∧ quiet u t ∧ (
      let f (o n : Nat) : Nat := (t.ctx asid).kvtab.num (64 * k + o) n
      f 0 8 = pa + 1 ∧ f 8 4 = nlayer * 2 ^ 24 + nhead * 2 ^ 16 + dhg ∧ f 0xC 4 = nseq ∧ f 0x10 4 = npage)) ∧
  (∀ (s u : State) (asid n : Nat) (va : BitVec 64), s.bad = none → u.bad = none → (s.ctx asid).live = true → va.toNat % 2 ^ 16 = 0 → 0 < va.toNat →
    va.toNat + 96 * n * 2 ^ 16 ≤ 2 ^ 57 →
    (∀ i < 96 * n, s.leafOf asid (va.toNat + i * 2 ^ 16) = none ∧ s.shooting asid (va.toNat + i * 2 ^ 16) = false) →
    (List.range (96 * n)).foldl (fun t i => t.bind (fun t => t.mapSave asid (va.toNat + i * 2 ^ 16))) (some s) = some u →
    ∃ t, exec (.mmpSaveAreas asid va n) s = .next t ∧ quiet u t ∧ ∀ i < n, (t.ctx asid).areas.find (va.toNat + i * 0x600000) = some false) ∧
  (∀ (s : State) (asid place size x : Nat) (va : BitVec 64), mapped s asid va.toNat place size x → leafSt x ≠ 2 →
    ∃ t, exec (.mmpPin asid va) s = .next t ∧ sameRegisters s t ∧ (t.ctx asid).hostPins.get (va.toNat - va.toNat % size) false = true ∧
      ∃ y, (numberAt t .hbm place 8 = y % 2 ^ 64 ∧ leafPN y = true))

/-! Duties that other engines do for an instruction. -/

namespace Sys2Proof.Spec

open Sys2Proof.Machine

/-- A queue of a module stands unpoisoned at its header and at the ring place of a count, and the package attaches to the module. -/
structure QueueAt (s : State) (m base head tail cap count : Nat) : Prop where
  header : s.queueHead m base = some (head, tail, cap)
  near : ∃ j, s.route m none = .direct j
  clean : s.modPoison m base 12 = false
  place : s.modPoison m (base + 0x400 + 64 * (count % cap)) 64 = false

/-- An exchange (R342) that has sent nothing, whose checks hold and whose ring is there, with one record to send: `x`. -/
structure Sends (s : State) (c id v : Nat) (o : Op) (w : RWord) (r : Ring) (x : XRec) : Prop extends InFlight s c id v o w where
  kind : o.fn = .xchPush ∨ o.fn = .replay
  turn : s.podEarlier c o = false
  ready : (s.core c).releaseReady o.party o.id = true
  early : s.ref < o.born + ticksOf (s.group (s.core c).asid (w.fld 21 18)).tout
  ring : s.ringPages c (s.core c).asid 32 .read [(o.arg 1).toNat] = .ready
  descriptor : s.ringAt (s.core c).asid (o.arg 1) = some r
  good : r.ok (o.arg 2).toNat = true
  room : o.fn = .xchPush → r.used + (o.arg 2).toNat < r.cap
  tail : s.ringPages c (s.core c).asid 128 .write
    (r.entries r.tail (if o.fn = .xchPush then (o.arg 2).toNat else min (o.arg 2).toNat r.used)) = .ready
  head : o.fn = .replay → s.ringPages c (s.core c).asid 128 .read (r.entries r.head (min (o.arg 2).toNat r.used)) = .ready
  only : exchangeRecords s c o w r = [x]
  whole : x.bytes.length = 64
  fit : s.recordBad (s.core c).asid r.xgoff x = none

/-- A node of an active graph that is not ending: one more record neither fills a batch nor leaves one to submit. -/
def restsAt (g : GraphSlot) (n more : Nat) : Prop :=
  n < tNodes g.table ∧ g.enders = [] ∧ (∀ b ∈ (g.node n).batches, b.launch ≠ none ∨ b.isOver = true) ∧
    (tMaxb g.table n ≤ (g.node n).outstanding ∨ (g.node n).pend + more < tTile g.table n ∧ (g.node n).flush = false)

end Sys2Proof.Spec

/-- R342: an XCH.PUSH or REPLAY of one record gives it the next SEQ of its queue and the package's number as SRC, writes the reply
word with the SEQ half round and CODE 0xFF, and pushes the record into the module's ring. R338: a courier serves a read: the 64
bytes stand in the staging area, and the request has left its queue. R341, R354 and R357: a record that the drain engine pops and
the node takes is answered with CODE 0; NQ.PUSH of one record puts it at the ring's tail and gives 1; NQ.FLUSH of a node with
records that may form no batch now leaves its flush to be done and gives 0; a retry submits a batch that waits, under the next
LNCHID. R334: a COL.RS notes an armed window that it finds done. R409: a regrant of a context without launches and with the same
stacks gives it the weight stores, the priority cap and PTRAP of its descriptor; a destroy of one without launches, blocks or
stacks ends it and frees its frames. R396: a page request for an absent HBM page makes it resident in the frames that are found,
no slice holding a sector of a region newer than HBM. Nothing else of the registers changes. -/
def Obligations.WorkDoneForInstructions : Prop :=
  ((∀ (s : State) (c id v m off head tail cap : Nat) (o : Op) (w : RWord) (r : Ring) (x : XRec), Sends s c id v o w r x →
    s.podPlace (s.core c).asid x.grp x.maddr 0x10000 = .ok (some (m, off, none)) → QueueAt s m off head tail cap tail →
    queueUsed head tail cap < cap →
    let seq := (s.ctx (s.core c).asid).xseq.get (modKey m off) 0 % 2 ^ 16
    let slot := off + 0x400 + 64 * (tail % cap)
    r.xgoff % 8 = 0 → s.modRegion m (replyOff r.xgoff s.self seq) 8 = .data →
    ∃ t q, exec (.variableLatencyCompletion c id) s = .next t ∧ sameRegisters s t ∧ (t.core c).findOp id = some q ∧ q.stage = .held ∧
      q.pos = 1 ∧ (t.ctx (s.core c).asid).xseq.get (modKey m off) 0 = (seq + 1) % 2 ^ 16 ∧
      moduleNumber t m (replyOff r.xgoff s.self seq) 8 = (seq + 0x8000) % 2 ^ 16 * 2 ^ 48 + 0xFF ∧
      moduleNumber t m (off + 4) 4 = (tail + 1) % countMod cap ∧
      moduleNumber t m slot 8 = leNat (x.bytes.take 8) % 2 ^ 40 + s.self % 2 ^ 8 * 2 ^ 40 + seq * 2 ^ 48 ∧
      moduleNumber t m (slot + 8) 56 = leNat (x.bytes.drop 8)) ∧
  (∀ (s : State) (j head tail cap m off : Nat) (via : Option Nat), s.bad = none → (s.port j).state = 1 → s.order ≠ 0 → j ≤ s.order →
    let sm := moduleAt s.order s.self j
    let base := queueBase (56 + j)
    let x := CourierReq.ofRecord (s.modBytes sm (base + 0x400 + 64 * (head % cap)) 64)
    QueueAt s sm base head tail cap head → queueUsed head tail cap ≠ 0 → x.op = 1 → s.maddr 0xFF x.dest = .ok (m, off, via) →
    s.carryBad x sm m off = none → (∃ i, s.route m none = .direct i) → s.modReadable m off 64 = true →
    ∃ t, exec (.courierRequest j) s = .next t ∧ sameRegisters s t ∧ moduleNumber t sm x.stage 64 = moduleNumber s m off 64 ∧
      moduleNumber t sm base 4 = (head + 1) % countMod cap)) ∧
  ((∀ (s u : State) (asid slot e m base head tail cap : Nat) (g : GraphSlot), s.bad = none → u.bad = none →
    (s.ctx asid).graphs.find slot = some g → e < 8 → tMaddr g.table e ≠ 0 → (∀ d < 8, d ≠ e → tMaddr g.table d = 0) →
    g.unreachable = [] → s.drainBad asid g.table e = none →
    s.maddr (s.group asid (tGrp g.table e)).dead (tMaddr g.table e) = .ok (m, base, none) → QueueAt s m base head tail cap head →
    queueUsed head tail cap ≠ 0 →
    let record := s.modBytes m (base + 0x400 + 64 * (head % cap)) 64
    let seq := bits (leNat (record.take 8)) 63 48
    let off := replyOff (tXgoff g.table e) (bits (leNat (record.take 8)) 47 40) seq
    s.appendRecord asid slot (leNat (record.take 4)) record = (.taken, u) → QueueAt u m base head tail cap head →
    u.modRegion m off 8 = .data → off % 8 = 0 →
    ∃ t, exec (.drainRecord asid slot e) s = .next t ∧ sameRegisters u t ∧ moduleNumber t m base 4 = (head + 1) % countMod cap ∧
      moduleNumber t m off 8 = seq * 2 ^ 48 ∧
      keepsBut u t (fun p => portSlots u m p ∨ (∃ j, j < 4 ∧ p = .module (modKey m (base + j))) ∨
        ∃ j, j < 8 ∧ p = .module (modKey m (off + j)))) ∧
  (∀ (s : State) (c id v : Nat) (o : Op) (w : RWord) (g : GraphSlot), InFlight s c id v o w →
    let asid := (s.core c).asid
    let slot := w.fld 21 20
    let n := (o.arg 0).toNat
    let x := g.node n
    (s.ctx asid).graphs.find slot = some g →
    (∀ u leaf base lvl pa, o.fn = .nqPush → o.pos = 0 → w.fld 5 0 = 0 → (s.core c).releaseReady o.party o.id = true → restsAt g n 1 →
      x.pend + x.heldRecords < tCap g.table n →
      let a := (tBase g.table n + 64 * x.tail) % 2 ^ 64
      s.lcRange asid a 64 .write = (.ok, u) → u.bad = none → a % 64 = 0 → u.xlate u.ltlb asid a = .ok leaf base lvl →
      placeOf leaf base a = .hbm pa → pa + 64 ≤ hbmTop →
      ∃ t h, exec (.variableLatencyCompletion c id) s = .next t ∧ completed s t c o ∧ onlyS s t c v [w.d.toNat] ∧
        sHolds t c v w.d.toNat 1 ∧ numberAt t .hbm pa 64 = numberAt s (.scratch c) (o.arg 1).toNat 64 ∧
        keepsBut s t (fun p => ∃ j, j < 64 ∧ p = .hbm (pa + j)) ∧ (t.ctx asid).graphs.find slot = some h ∧
        (h.node n).pend = x.pend + 1 ∧ (h.node n).tail = (x.tail + 1) % tCap g.table n) ∧
    (o.fn = .nqFlush → n < tNodes g.table → 0 < x.pend → g.enders = [] → tMaxb g.table n ≤ x.outstanding →
      (∀ b ∈ x.batches, b.launch ≠ none ∨ b.isOver = true) →
      ∃ t h, exec (.variableLatencyCompletion c id) s = .next t ∧ completed s t c o ∧ sameBytes s t ∧ onlyS s t c v [w.d.toNat] ∧
        sHolds t c v w.d.toNat 0 ∧ (t.ctx asid).graphs.find slot = some h ∧ h.node n = { x with flush := true })) ∧
  (∀ (s u : State) (asid slot node : Nat) (g : GraphSlot) (b : Batch) (l : Launch), s.bad = none → u.bad = none →
    (s.ctx asid).graphs.find slot = some g → g.enders = [] → 0 < tTile g.table node →
    let x := g.node node
    x.pend = 0 → x.flush = false → x.batches = [b] → b.launch = none → b.isOver = false →
    (s.setSlot asid slot (g.setNode node x)).batchLaunch asid slot node g b = (.ok l, u) →
    ∃ t h, exec (.batchSubmissionRetry asid slot node) s = .next t ∧ sameRegisters u t ∧ sameBytes u t ∧
      t.launches.find u.nextLaunch = some l ∧ t.nextLaunch = u.nextLaunch + 1 ∧
      (t.ctx asid).graphs.find slot = some h ∧ (h.node node).batches = [{ b with launch := some u.nextLaunch }]) ∧
  (∀ (s : State) (asid col k : Nat) (x : Collective) (e : Nat × Nat), s.bad = none → (s.ctx asid).cols.find col = some x → x.stage = .run →
    x.gather = false → x.armed = [e] → x.seen = [] → s.reaches e.1 = true →
    (moduleNumber s e.1 (windowBase e.2 + 8) 4).testBit 24 = true →
    k ∈ (s.group asid x.grp).members s.order → k ≠ s.self → x.done.getLsbD k = false →
    s.ref < x.since + ticksOf (s.group asid x.grp).tout →
    ∃ t, exec (.collectiveGather asid col) s = .next t ∧ sameRegisters s t ∧ sameBytes s t ∧
      (t.ctx asid).cols.find col = some { x with seen := [e] })) ∧
  ((∀ (s : State) (a : Nat), s.bad = none → s.change = none → s.descForm a = true →
    let asid := numberAt s .hbm (a + 0x31) 1
    let v := numberAt s .hbm a 8
    let y := s.ctx asid
    y.live = true → (∀ e ∈ s.launches, e.2.asid ≠ asid) →
    (numberAt s .hbm (a + 0x30) 1 = 1 → numberAt s .hbm (a + 8) 8 = y.handler.toNat → numberAt s .hbm (a + 0x10) 8 = y.quota →
      numberAt s .hbm (a + 0x18) 4 = y.htout → numberAt s .hbm (a + 0x20) 8 = y.mrangeAt → numberAt s .hbm (a + 0x28) 8 = y.clog →
      v.testBit 33 = y.c48 → s.conflict asid (v % 2 ^ 24) (v / 2 ^ 24 % 2 ^ 6) = false → y.sgrant = v % 2 ^ 24 →
      ∃ t, exec (.contextRegrant a) s = .next t ∧ quiet s t ∧ t.host0.ctxstat = asid * 2 ^ 8 ∧ t.change = none ∧
        t.ctx asid = { y with wsgrant := v / 2 ^ 24 % 2 ^ 6, priocap := v / 2 ^ 30 % 8, ptrap := v.testBit 34 } ∧
        ∀ i, i ≠ asid → t.ctx i = s.ctx i) ∧
    (numberAt s .hbm (a + 0x30) 1 = 2 → y.sgrant = 0 → (∀ e ∈ s.cores, ∀ b, e.2.block = some b → b.asid ≠ asid) →
      ∃ t, exec (.contextDestroy a) s = .next t ∧ quiet s t ∧ t.host0.ctxstat = asid * 2 ^ 8 ∧ t.change = none ∧
        (t.ctx asid).live = false ∧ (∀ f z, t.frames.find f = some z → z.owner = asid + 1 → z.role = .free) ∧
        ∀ i, i ≠ asid → t.ctx i = s.ctx i)) ∧
  (∀ (s u : State) (q : PageReq) (x e size pa : Nat), s.bad = none → u.bad = none → s.mmpq = [q] → s.shooting q.asid q.va = false →
    s.walk q.asid q.va = .notres x → s.leafOf q.asid q.va = some (e, size, x) → q.granted x = true → leafTy x = 0 →
    State.allocFor { s with mmpq := [] } q.asid (size / 2 ^ 16) .page = some (pa, u) → pa % 2 ^ 16 = 0 → pa < 2 ^ 52 → e + 8 ≤ hbmTop →
    allSettled u → u.leafOf q.asid q.va = some (e, size, x) → e % 8 = 0 → (u.ctx q.asid).root % 8 = 0 →
    (u.ctx q.asid).evicted.find (q.va - q.va % size) = none → u.kvCopies = [] →
    ∃ t y, exec .mmpPageRequest s = .next t ∧ t.mmpq = [] ∧ sameRegisters u t ∧ numberAt t .hbm e 8 = y % 2 ^ 64 ∧ leafSt y = 0 ∧
      leafFrame y = pa ∧ ∀ p, (∀ j < 8, p ≠ .hbm (e + j)) → byteAt t p = byteAt u p))
end

