-- ==== Sys2Proof/Laws/Encoding.lean ====
section
/-! SUPPORT. Packing a word and reading its fields back (R36, R44). -/

namespace Sys2Proof

/-- A field of a concatenation that lies in its upper part. -/
theorem field_hi {n m lo len : Nat} {x : BitVec n} {y : BitVec m} {z : BitVec len} (h : m ≤ lo)
    (e : x.extractLsb' (lo - m) len = z) : (x ++ y).extractLsb' lo len = z := by
  rw [← e]
  apply BitVec.eq_of_getLsbD_eq
  intro i hi
  simp only [BitVec.getLsbD_extractLsb', BitVec.getLsbD_append]
  have : ¬ (lo + i < m) := by omega
  simp only [this, if_false, hi, decide_true, Bool.true_and]
  congr 1
  omega

/-- A field of a concatenation that lies in its lower part. -/
theorem field_lo {n m lo len : Nat} {x : BitVec n} {y : BitVec m} {z : BitVec len} (h : lo + len ≤ m)
    (e : y.extractLsb' lo len = z) : (x ++ y).extractLsb' lo len = z := by
  rw [← e]
  apply BitVec.eq_of_getLsbD_eq
  intro i hi
  simp only [BitVec.getLsbD_extractLsb', BitVec.getLsbD_append]
  have : lo + i < m := by omega
  simp [this]

/-- The whole of a vector. -/
theorem field_all {n : Nat} (x : BitVec n) : x.extractLsb' 0 n = x := by
  apply BitVec.eq_of_getLsbD_eq
  intro i hi
  simp [hi]

theorem bit_hi {n m i : Nat} {x : BitVec n} {y : BitVec m} {b : Bool} (h : m ≤ i) (e : x.getLsbD (i - m) = b) :
    (x ++ y).getLsbD i = b := by
  rw [BitVec.getLsbD_append, if_neg (by omega), e]

theorem bit_lo {n m i : Nat} {x : BitVec n} {y : BitVec m} {b : Bool} (h : i < m) (e : y.getLsbD i = b) :
    (x ++ y).getLsbD i = b := by
  rw [BitVec.getLsbD_append, if_pos h, e]

theorem bit_ofBool (b : Bool) : (BitVec.ofBool b).getLsbD 0 = b := by cases b <;> rfl

/-- The control fields come back from the low 30 bits of any word. -/
theorem ctlOf_append (x : BitVec 66) (c : Ctl) : ctlOf (x ++ packCtl c : BitVec 96) = c := by
  obtain ⟨g, stall, wait, setf, reuse, yld, pair⟩ := c
  unfold ctlOf
  congr 1
  · exact field_lo (by decide) (field_hi (by decide) (field_hi (by decide) (field_hi (by decide) (field_hi (by decide)
      (field_hi (by decide) (field_hi (by decide) (field_all g)))))))
  · exact field_lo (by decide) (field_hi (by decide) (field_hi (by decide) (field_hi (by decide) (field_hi (by decide)
      (field_hi (by decide) (field_lo (by decide) (field_all stall)))))))
  · exact field_lo (by decide) (field_hi (by decide) (field_hi (by decide) (field_hi (by decide) (field_hi (by decide)
      (field_lo (by decide) (field_all wait))))))
  · exact field_lo (by decide) (field_hi (by decide) (field_hi (by decide) (field_hi (by decide)
      (field_lo (by decide) (field_all setf)))))
  · exact field_lo (by decide) (field_hi (by decide) (field_hi (by decide) (field_lo (by decide) (field_all reuse))))
  · exact bit_lo (by decide) (bit_hi (by decide) (bit_lo (by decide) (bit_ofBool yld)))
  · exact bit_lo (by decide) (bit_lo (by decide) (bit_ofBool pair))

/-- The fields of a packed R-form word. -/
theorem rOf_packR (opc : BitVec 10) (w : RWord) : rOf (packR opc w) = w := by
  obtain ⟨d, a, b, mod, ctl⟩ := w
  unfold rOf
  congr 1
  · exact field_hi (by decide) (field_hi (by decide) (field_hi (by decide) (field_hi (by decide)
      (field_lo (by decide) (field_all d)))))
  · exact field_hi (by decide) (field_hi (by decide) (field_hi (by decide) (field_lo (by decide) (field_all a))))
  · exact field_hi (by decide) (field_hi (by decide) (field_lo (by decide) (field_all b)))
  · exact field_hi (by decide) (field_lo (by decide) (field_all mod))
  · exact ctlOf_append (opc ++ d ++ a ++ b ++ mod) ctl

/-- The fields of a packed I-form word. -/
theorem iOf_packI (opc : BitVec 10) (w : IWord) : iOf (packI opc w) = w := by
  obtain ⟨d, a, imm, modi, ctl⟩ := w
  unfold iOf
  congr 1
  · exact field_hi (by decide) (field_hi (by decide) (field_hi (by decide) (field_hi (by decide)
      (field_lo (by decide) (field_all d)))))
  · exact field_hi (by decide) (field_hi (by decide) (field_hi (by decide) (field_lo (by decide) (field_all a))))
  · exact field_hi (by decide) (field_hi (by decide) (field_lo (by decide) (field_all imm)))
  · exact field_hi (by decide) (field_lo (by decide) (field_all modi))
  · exact ctlOf_append (opc ++ d ++ a ++ imm ++ modi) ctl

theorem opcOf_packR (opc : BitVec 10) (w : RWord) : opcOf (packR opc w) = opc :=
  field_hi (by decide) (field_hi (by decide) (field_hi (by decide) (field_hi (by decide) (field_hi (by decide)
    (field_all opc)))))

theorem opcOf_packI (opc : BitVec 10) (w : IWord) : opcOf (packI opc w) = opc :=
  field_hi (by decide) (field_hi (by decide) (field_hi (by decide) (field_hi (by decide) (field_hi (by decide)
    (field_all opc)))))

theorem class_packR (opc : BitVec 10) (w : RWord) : (packR opc w).extractLsb' 92 4 = opc.extractLsb' 6 4 :=
  field_hi (by decide) (field_hi (by decide) (field_hi (by decide) (field_hi (by decide) (field_hi (by decide) rfl))))

theorem class_packI (opc : BitVec 10) (w : IWord) : (packI opc w).extractLsb' 92 4 = opc.extractLsb' 6 4 :=
  field_hi (by decide) (field_hi (by decide) (field_hi (by decide) (field_hi (by decide) (field_hi (by decide) rfl))))

theorem fn_packR (opc : BitVec 10) (w : RWord) : (packR opc w).extractLsb' 86 6 = opc.extractLsb' 0 6 :=
  field_hi (by decide) (field_hi (by decide) (field_hi (by decide) (field_hi (by decide) (field_hi (by decide) rfl))))

theorem fn_packI (opc : BitVec 10) (w : IWord) : (packI opc w).extractLsb' 86 6 = opc.extractLsb' 0 6 :=
  field_hi (by decide) (field_hi (by decide) (field_hi (by decide) (field_hi (by decide) (field_hi (by decide) rfl))))

/-- The bits of a two-bit field. -/
theorem RWord.fld_two (w : RWord) : w.fld 1 0 = (w.mb 0).toNat + 2 * (w.mb 1).toNat := by
  have h (n : Nat) : n / 2 ^ 0 % 2 ^ (1 + 1 - 0) = (n.testBit 0).toNat + 2 * (n.testBit 1).toNat := by
    rw [Nat.toNat_testBit, Nat.toNat_testBit]
    simp only [Nat.pow_zero, Nat.div_one, Nat.reduceAdd, Nat.reduceSub, Nat.reducePow]
    omega
  exact h w.mod.toNat

/-- A well-formed word meets the special check of its form. -/
theorem wellFormed_other {st : Machine.Stream} {i : Instr} {f : Fn} (h : wellFormed st i = true) (hf : fnOf i = some f) :
    (∃ w, bodyOf i = .r w) → (Machine.formOf f (bodyOf i)).other = true := by
  rintro ⟨w, hb⟩
  unfold wellFormed at h
  rw [hf] at h
  simp only [Bool.and_eq_true] at h
  have := h.2
  unfold Machine.formOk at this
  rw [hb] at this ⊢
  simp only [Bool.and_eq_true] at this
  exact this.1.1.1.1.1.1.1.1.1.2

end Sys2Proof
end

