-- ==== Sys2Proof/Laws/Maps.lean ====
section
/-! SUPPORT. Sparse maps: what a read finds after each operation, and that every operation keeps the canonical form. -/

namespace Sys2Proof

variable {α : Type}

theorem FMap.find_ins (m : FMap α) (k j : Nat) (x : α) (h : m.find k = none) :
    (m.ins k x).find j = if j = k then some x else m.find j := by
  induction m with
  | nil => by_cases e : k = j <;> simp [FMap.ins, FMap.find, e, eq_comm]
  | cons p m ih =>
    obtain ⟨i, y⟩ := p
    have hik : i ≠ k := by intro e; simp [FMap.find, e] at h
    have hk : FMap.find m k = none := by simpa [FMap.find, hik] using h
    unfold FMap.ins
    split
    · by_cases e : k = j
      · simp [FMap.find, e]
      · simp [FMap.find, e, Ne.symm e]
    · by_cases e : i = j
      · subst e; simp [FMap.find, hik]
      · simp [FMap.find, e, ih hk]

theorem FMap.find_del (m : FMap α) (k j : Nat) :
    (m.del k).find j = if j = k then none else m.find j := by
  induction m with
  | nil => simp [FMap.del, FMap.find]
  | cons p m ih =>
    obtain ⟨i, y⟩ := p
    unfold FMap.del
    split
    · rename_i e
      by_cases e2 : j = k
      · rw [ih]; simp [e2]
      · have : i ≠ j := by omega
        simp [FMap.find, ih, e2, this]
    · by_cases e2 : i = j
      · subst e2; simp_all [FMap.find]
      · simp [FMap.find, e2, ih]

theorem FMap.find_set (m : FMap α) (k j : Nat) (x : α) :
    (m.set k x).find j = if j = k then some x else m.find j := by
  unfold FMap.set
  rw [FMap.find_ins _ _ _ _ (by simp [FMap.find_del])]
  by_cases e : j = k <;> simp [FMap.find_del, e]

/-- Reading a map after a write: the written number reads as written, every other number as before. -/
theorem FMap.get_put [DecidableEq α] (m : FMap α) (k j : Nat) (x d : α) :
    (m.put k x d).get j d = if j = k then x else m.get j d := by
  unfold FMap.put FMap.get
  split <;> by_cases e : j = k <;> simp_all [FMap.find_del, FMap.find_set]

@[simp] theorem FMap.get_put_self [DecidableEq α] (m : FMap α) (k : Nat) (x d : α) : (m.put k x d).get k d = x := by
  simp [FMap.get_put]

theorem FMap.get_put_ne [DecidableEq α] (m : FMap α) {k j : Nat} (x d : α) (h : j ≠ k) :
    (m.put k x d).get j d = m.get j d := by
  simp [FMap.get_put, h]

/-! The canonical form. -/

theorem FMap.rising_mono {m : FMap α} {lo lo' : Nat} (h : lo ≤ lo') (hm : FMap.risingFrom lo' m = true) :
    FMap.risingFrom lo m = true := by
  cases m with
  | nil => rfl
  | cons p m =>
    obtain ⟨i, y⟩ := p
    simp only [FMap.risingFrom, Bool.and_eq_true, decide_eq_true_eq] at *
    exact ⟨by omega, hm.2⟩

theorem FMap.rising_del (m : FMap α) (k lo : Nat) (hm : FMap.risingFrom lo m = true) :
    FMap.risingFrom lo (m.del k) = true := by
  induction m generalizing lo with
  | nil => rfl
  | cons p m ih =>
    obtain ⟨i, y⟩ := p
    simp only [FMap.risingFrom, Bool.and_eq_true, decide_eq_true_eq] at hm
    unfold FMap.del
    split
    · exact FMap.rising_mono (by omega) (ih _ hm.2)
    · simp only [FMap.risingFrom, Bool.and_eq_true, decide_eq_true_eq]
      exact ⟨hm.1, ih _ hm.2⟩

theorem FMap.rising_ins (m : FMap α) (k lo : Nat) (x : α) (hk : lo ≤ k) (hn : m.find k = none)
    (hm : FMap.risingFrom lo m = true) : FMap.risingFrom lo (m.ins k x) = true := by
  induction m generalizing lo with
  | nil => simp [FMap.ins, FMap.risingFrom, hk]
  | cons p m ih =>
    obtain ⟨i, y⟩ := p
    have hik : i ≠ k := by intro e; simp [FMap.find, e] at hn
    have hn' : FMap.find m k = none := by simpa [FMap.find, hik] using hn
    simp only [FMap.risingFrom, Bool.and_eq_true, decide_eq_true_eq] at hm
    unfold FMap.ins
    split
    · simp only [FMap.risingFrom, Bool.and_eq_true, decide_eq_true_eq]
      exact ⟨hk, by omega, hm.2⟩
    · simp only [FMap.risingFrom, Bool.and_eq_true, decide_eq_true_eq]
      exact ⟨hm.1, ih _ (by omega) hn' hm.2⟩

theorem FMap.mem_del {m : FMap α} {k : Nat} {e : Nat × α} (h : e ∈ m.del k) : e ∈ m := by
  induction m with
  | nil => simp [FMap.del] at h
  | cons p m ih =>
    obtain ⟨i, y⟩ := p
    unfold FMap.del at h
    split at h
    · exact List.mem_cons_of_mem _ (ih h)
    · rcases List.mem_cons.1 h with h | h
      · simp [h]
      · exact List.mem_cons_of_mem _ (ih h)

theorem FMap.mem_ins {m : FMap α} {k : Nat} {x : α} {e : Nat × α} (h : e ∈ m.ins k x) : e = (k, x) ∨ e ∈ m := by
  induction m with
  | nil => simpa [FMap.ins] using h
  | cons p m ih =>
    obtain ⟨i, y⟩ := p
    unfold FMap.ins at h
    split at h
    · simpa using h
    · rcases List.mem_cons.1 h with h | h
      · simp [h]
      · rcases ih h with h | h <;> simp [h]

theorem FMap.wf_iff [DecidableEq α] (m : FMap α) (d : α) :
    m.wf d = true ↔ FMap.risingFrom 0 m = true ∧ ∀ e ∈ m, e.2 ≠ d := by
  simp [FMap.wf, List.all_eq_true]

theorem FMap.wf_nil [DecidableEq α] (d : α) : FMap.wf ([] : FMap α) d = true := rfl

theorem FMap.wf_del [DecidableEq α] {m : FMap α} {d : α} (k : Nat) (h : m.wf d = true) : (m.del k).wf d = true := by
  rw [FMap.wf_iff] at *
  exact ⟨FMap.rising_del _ _ _ h.1, fun e he => h.2 e (FMap.mem_del he)⟩

/-- A write keeps the canonical form. -/
theorem FMap.wf_put [DecidableEq α] {m : FMap α} {d : α} (k : Nat) (x : α) (h : m.wf d = true) :
    (m.put k x d).wf d = true := by
  unfold FMap.put
  split
  · exact FMap.wf_del k h
  · rename_i hx
    have h1 := FMap.wf_del k h
    rw [FMap.wf_iff] at *
    refine ⟨FMap.rising_ins _ _ _ _ (Nat.zero_le _) (by simp [FMap.find_del]) h1.1, fun e he => ?_⟩
    rcases FMap.mem_ins he with rfl | he
    · exact hx
    · exact h1.2 e he

theorem FMap.rising_filter {m : FMap α} (p : Nat × α → Bool) (lo : Nat) (hm : FMap.risingFrom lo m = true) :
    FMap.risingFrom lo (m.filter p) = true := by
  induction m generalizing lo with
  | nil => rfl
  | cons q m ih =>
    obtain ⟨i, y⟩ := q
    simp only [FMap.risingFrom, Bool.and_eq_true, decide_eq_true_eq] at hm
    rw [List.filter_cons]
    split
    · simp only [FMap.risingFrom, Bool.and_eq_true, decide_eq_true_eq]
      exact ⟨hm.1, ih _ hm.2⟩
    · exact FMap.rising_mono (by omega) (ih _ hm.2)

theorem FMap.wf_keep [DecidableEq α] {m : FMap α} {d : α} (p : Nat → α → Bool) (h : m.wf d = true) :
    (m.keep p).wf d = true := by
  rw [FMap.wf_iff] at *
  exact ⟨FMap.rising_filter _ _ h.1, fun e he => h.2 e ((List.mem_filter.1 he).1)⟩

/-! Bytes. -/

theorem FMap.wf_putBytes {m : FMap Byte} (a : Nat) (bs : List Byte) (h : m.wf 0 = true) :
    (m.putBytes a bs).wf 0 = true := by
  induction bs generalizing m a with
  | nil => exact h
  | cons b bs ih => exact ih _ (FMap.wf_put _ _ h)

theorem FMap.wf_putNum {m : FMap Byte} (a n v : Nat) (h : m.wf 0 = true) : (m.putNum a n v).wf 0 = true :=
  FMap.wf_putBytes _ _ h

/-- One byte read after a write of a list of bytes: inside the list its byte, outside what it was. -/
theorem FMap.get_putBytes (m : FMap Byte) (a j : Nat) (bs : List Byte) :
    (m.putBytes a bs).get j 0 = if a ≤ j ∧ j < a + bs.length then bs.getD (j - a) 0 else m.get j 0 := by
  induction bs generalizing m a with
  | nil =>
    have : ¬ (a ≤ j ∧ j < a + 0) := by omega
    simp only [FMap.putBytes, List.length_nil, if_neg this]
  | cons b bs ih =>
    simp only [FMap.putBytes, ih, List.length_cons, FMap.get_put]
    by_cases e : j = a
    · subst e
      rw [if_neg (by omega), if_pos (by omega)]
      simp
    · by_cases c : a ≤ j ∧ j < a + (bs.length + 1)
      · obtain ⟨n, hn⟩ : ∃ n, j = a + 1 + n := ⟨j - a - 1, by omega⟩
        have h1 : a + 1 ≤ j ∧ j < a + 1 + bs.length := by omega
        have h2 : j - a = n + 1 := by omega
        have h3 : j - (a + 1) = n := by omega
        rw [if_pos h1, if_pos c, h2, h3, List.getD_cons_succ]
      · have h1 : ¬ (a + 1 ≤ j ∧ j < a + 1 + bs.length) := by omega
        rw [if_neg h1, if_neg c, if_neg e]

theorem FMap.length_getBytes (m : FMap Byte) (a n : Nat) : (m.getBytes a n).length = n := by
  induction n generalizing a with
  | zero => rfl
  | succ n ih => simp [FMap.getBytes, ih]

/-- Reading back what was written. -/
theorem FMap.getBytes_putBytes (m : FMap Byte) (a : Nat) (bs : List Byte) :
    (m.putBytes a bs).getBytes a bs.length = bs := by
  induction bs generalizing m a with
  | nil => rfl
  | cons b bs ih =>
    simp only [List.length_cons, FMap.getBytes, FMap.putBytes, ih]
    rw [FMap.get_putBytes]
    have : ¬ (a + 1 ≤ a ∧ a < a + 1 + bs.length) := by omega
    simp [this]

/-- Reading beside what was written. -/
theorem FMap.getBytes_putBytes_ne (m : FMap Byte) (a b n : Nat) (bs : List Byte)
    (h : b + n ≤ a ∨ a + bs.length ≤ b) : (m.putBytes a bs).getBytes b n = m.getBytes b n := by
  induction n generalizing b with
  | zero => rfl
  | succ n ih =>
    simp only [FMap.getBytes]
    rw [ih (b + 1) (by omega), FMap.get_putBytes]
    have : ¬ (a ≤ b ∧ b < a + bs.length) := by omega
    simp [this]

end Sys2Proof
end

