-- ==== Sys2Proof/Laws/State.lean ====
section
/-! SUPPORT. What each update of the state leaves of each field, so that no later proof unfolds a record update; and reading a
core, a warp, a stack core or a context back after it was replaced. -/

namespace Sys2Proof.Machine

@[simp] theorem State.setCore_ref (s : State) (c : Nat) (k : Core) : (s.setCore c k).ref = s.ref := rfl
@[simp] theorem State.onCore_ref (s : State) (c : Nat) (f : Core → Core) : (s.onCore c f).ref = s.ref := rfl
@[simp] theorem State.onWarp_ref (s : State) (c w : Nat) (f : Warp → Warp) : (s.onWarp c w f).ref = s.ref := rfl
@[simp] theorem State.setSc_ref (s : State) (g k : Nat) (x : SCore) : (s.setSc g k x).ref = s.ref := rfl
@[simp] theorem State.onSc_ref (s : State) (g k : Nat) (f : SCore → SCore) : (s.onSc g k f).ref = s.ref := rfl
@[simp] theorem State.onCtx_ref (s : State) (a : Nat) (f : Context → Context) : (s.onCtx a f).ref = s.ref := rfl
@[simp] theorem State.setOp_ref (s : State) (c : Nat) (o : Op) : (s.setOp c o).ref = s.ref := rfl
@[simp] theorem State.setCore_clk (s : State) (c : Nat) (k : Core) : (s.setCore c k).clk = s.clk := rfl
@[simp] theorem State.onCore_clk (s : State) (c : Nat) (f : Core → Core) : (s.onCore c f).clk = s.clk := rfl
@[simp] theorem State.onWarp_clk (s : State) (c w : Nat) (f : Warp → Warp) : (s.onWarp c w f).clk = s.clk := rfl
@[simp] theorem State.setSc_clk (s : State) (g k : Nat) (x : SCore) : (s.setSc g k x).clk = s.clk := rfl
@[simp] theorem State.onSc_clk (s : State) (g k : Nat) (f : SCore → SCore) : (s.onSc g k f).clk = s.clk := rfl
@[simp] theorem State.onCtx_clk (s : State) (a : Nat) (f : Context → Context) : (s.onCtx a f).clk = s.clk := rfl
@[simp] theorem State.setOp_clk (s : State) (c : Nat) (o : Op) : (s.setOp c o).clk = s.clk := rfl
@[simp] theorem State.setCore_sclk (s : State) (c : Nat) (k : Core) : (s.setCore c k).sclk = s.sclk := rfl
@[simp] theorem State.onCore_sclk (s : State) (c : Nat) (f : Core → Core) : (s.onCore c f).sclk = s.sclk := rfl
@[simp] theorem State.onWarp_sclk (s : State) (c w : Nat) (f : Warp → Warp) : (s.onWarp c w f).sclk = s.sclk := rfl
@[simp] theorem State.setSc_sclk (s : State) (g k : Nat) (x : SCore) : (s.setSc g k x).sclk = s.sclk := rfl
@[simp] theorem State.onSc_sclk (s : State) (g k : Nat) (f : SCore → SCore) : (s.onSc g k f).sclk = s.sclk := rfl
@[simp] theorem State.onCtx_sclk (s : State) (a : Nat) (f : Context → Context) : (s.onCtx a f).sclk = s.sclk := rfl
@[simp] theorem State.setOp_sclk (s : State) (c : Nat) (o : Op) : (s.setOp c o).sclk = s.sclk := rfl
@[simp] theorem State.setSc_cores (s : State) (g k : Nat) (x : SCore) : (s.setSc g k x).cores = s.cores := rfl
@[simp] theorem State.onSc_cores (s : State) (g k : Nat) (f : SCore → SCore) : (s.onSc g k f).cores = s.cores := rfl
@[simp] theorem State.onCtx_cores (s : State) (a : Nat) (f : Context → Context) : (s.onCtx a f).cores = s.cores := rfl
@[simp] theorem State.setCore_scores (s : State) (c : Nat) (k : Core) : (s.setCore c k).scores = s.scores := rfl
@[simp] theorem State.onCore_scores (s : State) (c : Nat) (f : Core → Core) : (s.onCore c f).scores = s.scores := rfl
@[simp] theorem State.onWarp_scores (s : State) (c w : Nat) (f : Warp → Warp) : (s.onWarp c w f).scores = s.scores := rfl
@[simp] theorem State.onCtx_scores (s : State) (a : Nat) (f : Context → Context) : (s.onCtx a f).scores = s.scores := rfl
@[simp] theorem State.setOp_scores (s : State) (c : Nat) (o : Op) : (s.setOp c o).scores = s.scores := rfl
@[simp] theorem State.setCore_hbm (s : State) (c : Nat) (k : Core) : (s.setCore c k).hbm = s.hbm := rfl
@[simp] theorem State.onCore_hbm (s : State) (c : Nat) (f : Core → Core) : (s.onCore c f).hbm = s.hbm := rfl
@[simp] theorem State.onWarp_hbm (s : State) (c w : Nat) (f : Warp → Warp) : (s.onWarp c w f).hbm = s.hbm := rfl
@[simp] theorem State.setSc_hbm (s : State) (g k : Nat) (x : SCore) : (s.setSc g k x).hbm = s.hbm := rfl
@[simp] theorem State.onSc_hbm (s : State) (g k : Nat) (f : SCore → SCore) : (s.onSc g k f).hbm = s.hbm := rfl
@[simp] theorem State.onCtx_hbm (s : State) (a : Nat) (f : Context → Context) : (s.onCtx a f).hbm = s.hbm := rfl
@[simp] theorem State.setOp_hbm (s : State) (c : Nat) (o : Op) : (s.setOp c o).hbm = s.hbm := rfl
@[simp] theorem State.setCore_l2 (s : State) (c : Nat) (k : Core) : (s.setCore c k).l2 = s.l2 := rfl
@[simp] theorem State.onCore_l2 (s : State) (c : Nat) (f : Core → Core) : (s.onCore c f).l2 = s.l2 := rfl
@[simp] theorem State.onWarp_l2 (s : State) (c w : Nat) (f : Warp → Warp) : (s.onWarp c w f).l2 = s.l2 := rfl
@[simp] theorem State.setSc_l2 (s : State) (g k : Nat) (x : SCore) : (s.setSc g k x).l2 = s.l2 := rfl
@[simp] theorem State.onSc_l2 (s : State) (g k : Nat) (f : SCore → SCore) : (s.onSc g k f).l2 = s.l2 := rfl
@[simp] theorem State.onCtx_l2 (s : State) (a : Nat) (f : Context → Context) : (s.onCtx a f).l2 = s.l2 := rfl
@[simp] theorem State.setOp_l2 (s : State) (c : Nat) (o : Op) : (s.setOp c o).l2 = s.l2 := rfl
@[simp] theorem State.setCore_copies (s : State) (c : Nat) (k : Core) : (s.setCore c k).copies = s.copies := rfl
@[simp] theorem State.onCore_copies (s : State) (c : Nat) (f : Core → Core) : (s.onCore c f).copies = s.copies := rfl
@[simp] theorem State.onWarp_copies (s : State) (c w : Nat) (f : Warp → Warp) : (s.onWarp c w f).copies = s.copies := rfl
@[simp] theorem State.setSc_copies (s : State) (g k : Nat) (x : SCore) : (s.setSc g k x).copies = s.copies := rfl
@[simp] theorem State.onSc_copies (s : State) (g k : Nat) (f : SCore → SCore) : (s.onSc g k f).copies = s.copies := rfl
@[simp] theorem State.onCtx_copies (s : State) (a : Nat) (f : Context → Context) : (s.onCtx a f).copies = s.copies := rfl
@[simp] theorem State.setOp_copies (s : State) (c : Nat) (o : Op) : (s.setOp c o).copies = s.copies := rfl
@[simp] theorem State.setCore_dir (s : State) (c : Nat) (k : Core) : (s.setCore c k).dir = s.dir := rfl
@[simp] theorem State.onCore_dir (s : State) (c : Nat) (f : Core → Core) : (s.onCore c f).dir = s.dir := rfl
@[simp] theorem State.onWarp_dir (s : State) (c w : Nat) (f : Warp → Warp) : (s.onWarp c w f).dir = s.dir := rfl
@[simp] theorem State.setSc_dir (s : State) (g k : Nat) (x : SCore) : (s.setSc g k x).dir = s.dir := rfl
@[simp] theorem State.onSc_dir (s : State) (g k : Nat) (f : SCore → SCore) : (s.onSc g k f).dir = s.dir := rfl
@[simp] theorem State.onCtx_dir (s : State) (a : Nat) (f : Context → Context) : (s.onCtx a f).dir = s.dir := rfl
@[simp] theorem State.setOp_dir (s : State) (c : Nat) (o : Op) : (s.setOp c o).dir = s.dir := rfl
@[simp] theorem State.setCore_rels (s : State) (c : Nat) (k : Core) : (s.setCore c k).rels = s.rels := rfl
@[simp] theorem State.onCore_rels (s : State) (c : Nat) (f : Core → Core) : (s.onCore c f).rels = s.rels := rfl
@[simp] theorem State.onWarp_rels (s : State) (c w : Nat) (f : Warp → Warp) : (s.onWarp c w f).rels = s.rels := rfl
@[simp] theorem State.setSc_rels (s : State) (g k : Nat) (x : SCore) : (s.setSc g k x).rels = s.rels := rfl
@[simp] theorem State.onSc_rels (s : State) (g k : Nat) (f : SCore → SCore) : (s.onSc g k f).rels = s.rels := rfl
@[simp] theorem State.onCtx_rels (s : State) (a : Nat) (f : Context → Context) : (s.onCtx a f).rels = s.rels := rfl
@[simp] theorem State.setOp_rels (s : State) (c : Nat) (o : Op) : (s.setOp c o).rels = s.rels := rfl
@[simp] theorem State.setCore_pins (s : State) (c : Nat) (k : Core) : (s.setCore c k).pins = s.pins := rfl
@[simp] theorem State.onCore_pins (s : State) (c : Nat) (f : Core → Core) : (s.onCore c f).pins = s.pins := rfl
@[simp] theorem State.onWarp_pins (s : State) (c w : Nat) (f : Warp → Warp) : (s.onWarp c w f).pins = s.pins := rfl
@[simp] theorem State.setSc_pins (s : State) (g k : Nat) (x : SCore) : (s.setSc g k x).pins = s.pins := rfl
@[simp] theorem State.onSc_pins (s : State) (g k : Nat) (f : SCore → SCore) : (s.onSc g k f).pins = s.pins := rfl
@[simp] theorem State.onCtx_pins (s : State) (a : Nat) (f : Context → Context) : (s.onCtx a f).pins = s.pins := rfl
@[simp] theorem State.setOp_pins (s : State) (c : Nat) (o : Op) : (s.setOp c o).pins = s.pins := rfl
@[simp] theorem State.setCore_heldBytes (s : State) (c : Nat) (k : Core) : (s.setCore c k).heldBytes = s.heldBytes := rfl
@[simp] theorem State.onCore_heldBytes (s : State) (c : Nat) (f : Core → Core) : (s.onCore c f).heldBytes = s.heldBytes := rfl
@[simp] theorem State.onWarp_heldBytes (s : State) (c w : Nat) (f : Warp → Warp) : (s.onWarp c w f).heldBytes = s.heldBytes := rfl
@[simp] theorem State.setSc_heldBytes (s : State) (g k : Nat) (x : SCore) : (s.setSc g k x).heldBytes = s.heldBytes := rfl
@[simp] theorem State.onSc_heldBytes (s : State) (g k : Nat) (f : SCore → SCore) : (s.onSc g k f).heldBytes = s.heldBytes := rfl
@[simp] theorem State.onCtx_heldBytes (s : State) (a : Nat) (f : Context → Context) : (s.onCtx a f).heldBytes = s.heldBytes := rfl
@[simp] theorem State.setOp_heldBytes (s : State) (c : Nat) (o : Op) : (s.setOp c o).heldBytes = s.heldBytes := rfl
@[simp] theorem State.setCore_regions (s : State) (c : Nat) (k : Core) : (s.setCore c k).regions = s.regions := rfl
@[simp] theorem State.onCore_regions (s : State) (c : Nat) (f : Core → Core) : (s.onCore c f).regions = s.regions := rfl
@[simp] theorem State.onWarp_regions (s : State) (c w : Nat) (f : Warp → Warp) : (s.onWarp c w f).regions = s.regions := rfl
@[simp] theorem State.setSc_regions (s : State) (g k : Nat) (x : SCore) : (s.setSc g k x).regions = s.regions := rfl
@[simp] theorem State.onSc_regions (s : State) (g k : Nat) (f : SCore → SCore) : (s.onSc g k f).regions = s.regions := rfl
@[simp] theorem State.onCtx_regions (s : State) (a : Nat) (f : Context → Context) : (s.onCtx a f).regions = s.regions := rfl
@[simp] theorem State.setOp_regions (s : State) (c : Nat) (o : Op) : (s.setOp c o).regions = s.regions := rfl
@[simp] theorem State.setCore_host (s : State) (c : Nat) (k : Core) : (s.setCore c k).host = s.host := rfl
@[simp] theorem State.onCore_host (s : State) (c : Nat) (f : Core → Core) : (s.onCore c f).host = s.host := rfl
@[simp] theorem State.onWarp_host (s : State) (c w : Nat) (f : Warp → Warp) : (s.onWarp c w f).host = s.host := rfl
@[simp] theorem State.setSc_host (s : State) (g k : Nat) (x : SCore) : (s.setSc g k x).host = s.host := rfl
@[simp] theorem State.onSc_host (s : State) (g k : Nat) (f : SCore → SCore) : (s.onSc g k f).host = s.host := rfl
@[simp] theorem State.onCtx_host (s : State) (a : Nat) (f : Context → Context) : (s.onCtx a f).host = s.host := rfl
@[simp] theorem State.setOp_host (s : State) (c : Nat) (o : Op) : (s.setOp c o).host = s.host := rfl
@[simp] theorem State.setCore_mods (s : State) (c : Nat) (k : Core) : (s.setCore c k).mods = s.mods := rfl
@[simp] theorem State.onCore_mods (s : State) (c : Nat) (f : Core → Core) : (s.onCore c f).mods = s.mods := rfl
@[simp] theorem State.onWarp_mods (s : State) (c w : Nat) (f : Warp → Warp) : (s.onWarp c w f).mods = s.mods := rfl
@[simp] theorem State.setSc_mods (s : State) (g k : Nat) (x : SCore) : (s.setSc g k x).mods = s.mods := rfl
@[simp] theorem State.onSc_mods (s : State) (g k : Nat) (f : SCore → SCore) : (s.onSc g k f).mods = s.mods := rfl
@[simp] theorem State.onCtx_mods (s : State) (a : Nat) (f : Context → Context) : (s.onCtx a f).mods = s.mods := rfl
@[simp] theorem State.setOp_mods (s : State) (c : Nat) (o : Op) : (s.setOp c o).mods = s.mods := rfl
@[simp] theorem State.setCore_ws (s : State) (c : Nat) (k : Core) : (s.setCore c k).ws = s.ws := rfl
@[simp] theorem State.onCore_ws (s : State) (c : Nat) (f : Core → Core) : (s.onCore c f).ws = s.ws := rfl
@[simp] theorem State.onWarp_ws (s : State) (c w : Nat) (f : Warp → Warp) : (s.onWarp c w f).ws = s.ws := rfl
@[simp] theorem State.setSc_ws (s : State) (g k : Nat) (x : SCore) : (s.setSc g k x).ws = s.ws := rfl
@[simp] theorem State.onSc_ws (s : State) (g k : Nat) (f : SCore → SCore) : (s.onSc g k f).ws = s.ws := rfl
@[simp] theorem State.onCtx_ws (s : State) (a : Nat) (f : Context → Context) : (s.onCtx a f).ws = s.ws := rfl
@[simp] theorem State.setOp_ws (s : State) (c : Nat) (o : Op) : (s.setOp c o).ws = s.ws := rfl
@[simp] theorem State.setCore_ctxs (s : State) (c : Nat) (k : Core) : (s.setCore c k).ctxs = s.ctxs := rfl
@[simp] theorem State.onCore_ctxs (s : State) (c : Nat) (f : Core → Core) : (s.onCore c f).ctxs = s.ctxs := rfl
@[simp] theorem State.onWarp_ctxs (s : State) (c w : Nat) (f : Warp → Warp) : (s.onWarp c w f).ctxs = s.ctxs := rfl
@[simp] theorem State.setSc_ctxs (s : State) (g k : Nat) (x : SCore) : (s.setSc g k x).ctxs = s.ctxs := rfl
@[simp] theorem State.onSc_ctxs (s : State) (g k : Nat) (f : SCore → SCore) : (s.onSc g k f).ctxs = s.ctxs := rfl
@[simp] theorem State.setOp_ctxs (s : State) (c : Nat) (o : Op) : (s.setOp c o).ctxs = s.ctxs := rfl
@[simp] theorem State.setCore_agenda (s : State) (c : Nat) (k : Core) : (s.setCore c k).agenda = s.agenda := rfl
@[simp] theorem State.onCore_agenda (s : State) (c : Nat) (f : Core → Core) : (s.onCore c f).agenda = s.agenda := rfl
@[simp] theorem State.onWarp_agenda (s : State) (c w : Nat) (f : Warp → Warp) : (s.onWarp c w f).agenda = s.agenda := rfl
@[simp] theorem State.setSc_agenda (s : State) (g k : Nat) (x : SCore) : (s.setSc g k x).agenda = s.agenda := rfl
@[simp] theorem State.onSc_agenda (s : State) (g k : Nat) (f : SCore → SCore) : (s.onSc g k f).agenda = s.agenda := rfl
@[simp] theorem State.onCtx_agenda (s : State) (a : Nat) (f : Context → Context) : (s.onCtx a f).agenda = s.agenda := rfl
@[simp] theorem State.setOp_agenda (s : State) (c : Nat) (o : Op) : (s.setOp c o).agenda = s.agenda := rfl
@[simp] theorem State.setCore_actor (s : State) (c : Nat) (k : Core) : (s.setCore c k).actor = s.actor := rfl
@[simp] theorem State.onCore_actor (s : State) (c : Nat) (f : Core → Core) : (s.onCore c f).actor = s.actor := rfl
@[simp] theorem State.onWarp_actor (s : State) (c w : Nat) (f : Warp → Warp) : (s.onWarp c w f).actor = s.actor := rfl
@[simp] theorem State.setSc_actor (s : State) (g k : Nat) (x : SCore) : (s.setSc g k x).actor = s.actor := rfl
@[simp] theorem State.onSc_actor (s : State) (g k : Nat) (f : SCore → SCore) : (s.onSc g k f).actor = s.actor := rfl
@[simp] theorem State.onCtx_actor (s : State) (a : Nat) (f : Context → Context) : (s.onCtx a f).actor = s.actor := rfl
@[simp] theorem State.setOp_actor (s : State) (c : Nat) (o : Op) : (s.setOp c o).actor = s.actor := rfl
@[simp] theorem State.setCore_pairing (s : State) (c : Nat) (k : Core) : (s.setCore c k).pairing = s.pairing := rfl
@[simp] theorem State.onCore_pairing (s : State) (c : Nat) (f : Core → Core) : (s.onCore c f).pairing = s.pairing := rfl
@[simp] theorem State.onWarp_pairing (s : State) (c w : Nat) (f : Warp → Warp) : (s.onWarp c w f).pairing = s.pairing := rfl
@[simp] theorem State.setSc_pairing (s : State) (g k : Nat) (x : SCore) : (s.setSc g k x).pairing = s.pairing := rfl
@[simp] theorem State.onSc_pairing (s : State) (g k : Nat) (f : SCore → SCore) : (s.onSc g k f).pairing = s.pairing := rfl
@[simp] theorem State.onCtx_pairing (s : State) (a : Nat) (f : Context → Context) : (s.onCtx a f).pairing = s.pairing := rfl
@[simp] theorem State.setOp_pairing (s : State) (c : Nat) (o : Op) : (s.setOp c o).pairing = s.pairing := rfl
@[simp] theorem State.setCore_second (s : State) (c : Nat) (k : Core) : (s.setCore c k).second = s.second := rfl
@[simp] theorem State.onCore_second (s : State) (c : Nat) (f : Core → Core) : (s.onCore c f).second = s.second := rfl
@[simp] theorem State.onWarp_second (s : State) (c w : Nat) (f : Warp → Warp) : (s.onWarp c w f).second = s.second := rfl
@[simp] theorem State.setSc_second (s : State) (g k : Nat) (x : SCore) : (s.setSc g k x).second = s.second := rfl
@[simp] theorem State.onSc_second (s : State) (g k : Nat) (f : SCore → SCore) : (s.onSc g k f).second = s.second := rfl
@[simp] theorem State.onCtx_second (s : State) (a : Nat) (f : Context → Context) : (s.onCtx a f).second = s.second := rfl
@[simp] theorem State.setOp_second (s : State) (c : Nat) (o : Op) : (s.setOp c o).second = s.second := rfl
@[simp] theorem State.setCore_raised (s : State) (c : Nat) (k : Core) : (s.setCore c k).raised = s.raised := rfl
@[simp] theorem State.onCore_raised (s : State) (c : Nat) (f : Core → Core) : (s.onCore c f).raised = s.raised := rfl
@[simp] theorem State.onWarp_raised (s : State) (c w : Nat) (f : Warp → Warp) : (s.onWarp c w f).raised = s.raised := rfl
@[simp] theorem State.setSc_raised (s : State) (g k : Nat) (x : SCore) : (s.setSc g k x).raised = s.raised := rfl
@[simp] theorem State.onSc_raised (s : State) (g k : Nat) (f : SCore → SCore) : (s.onSc g k f).raised = s.raised := rfl
@[simp] theorem State.onCtx_raised (s : State) (a : Nat) (f : Context → Context) : (s.onCtx a f).raised = s.raised := rfl
@[simp] theorem State.setOp_raised (s : State) (c : Nat) (o : Op) : (s.setOp c o).raised = s.raised := rfl
@[simp] theorem State.setCore_tod (s : State) (c : Nat) (k : Core) : (s.setCore c k).tod = s.tod := rfl
@[simp] theorem State.onCore_tod (s : State) (c : Nat) (f : Core → Core) : (s.onCore c f).tod = s.tod := rfl
@[simp] theorem State.onWarp_tod (s : State) (c w : Nat) (f : Warp → Warp) : (s.onWarp c w f).tod = s.tod := rfl
@[simp] theorem State.setSc_tod (s : State) (g k : Nat) (x : SCore) : (s.setSc g k x).tod = s.tod := rfl
@[simp] theorem State.onSc_tod (s : State) (g k : Nat) (f : SCore → SCore) : (s.onSc g k f).tod = s.tod := rfl
@[simp] theorem State.onCtx_tod (s : State) (a : Nat) (f : Context → Context) : (s.onCtx a f).tod = s.tod := rfl
@[simp] theorem State.setOp_tod (s : State) (c : Nat) (o : Op) : (s.setOp c o).tod = s.tod := rfl
@[simp] theorem State.setCore_tick (s : State) (c : Nat) (k : Core) : (s.setCore c k).tick = s.tick := rfl
@[simp] theorem State.onCore_tick (s : State) (c : Nat) (f : Core → Core) : (s.onCore c f).tick = s.tick := rfl
@[simp] theorem State.onWarp_tick (s : State) (c w : Nat) (f : Warp → Warp) : (s.onWarp c w f).tick = s.tick := rfl
@[simp] theorem State.setSc_tick (s : State) (g k : Nat) (x : SCore) : (s.setSc g k x).tick = s.tick := rfl
@[simp] theorem State.onSc_tick (s : State) (g k : Nat) (f : SCore → SCore) : (s.onSc g k f).tick = s.tick := rfl
@[simp] theorem State.onCtx_tick (s : State) (a : Nat) (f : Context → Context) : (s.onCtx a f).tick = s.tick := rfl
@[simp] theorem State.setOp_tick (s : State) (c : Nat) (o : Op) : (s.setOp c o).tick = s.tick := rfl
@[simp] theorem State.setCore_todStep (s : State) (c : Nat) (k : Core) : (s.setCore c k).todStep = s.todStep := rfl
@[simp] theorem State.onCore_todStep (s : State) (c : Nat) (f : Core → Core) : (s.onCore c f).todStep = s.todStep := rfl
@[simp] theorem State.onWarp_todStep (s : State) (c w : Nat) (f : Warp → Warp) : (s.onWarp c w f).todStep = s.todStep := rfl
@[simp] theorem State.setSc_todStep (s : State) (g k : Nat) (x : SCore) : (s.setSc g k x).todStep = s.todStep := rfl
@[simp] theorem State.onSc_todStep (s : State) (g k : Nat) (f : SCore → SCore) : (s.onSc g k f).todStep = s.todStep := rfl
@[simp] theorem State.onCtx_todStep (s : State) (a : Nat) (f : Context → Context) : (s.onCtx a f).todStep = s.todStep := rfl
@[simp] theorem State.setOp_todStep (s : State) (c : Nat) (o : Op) : (s.setOp c o).todStep = s.todStep := rfl
@[simp] theorem State.setCore_rate (s : State) (c : Nat) (k : Core) : (s.setCore c k).rate = s.rate := rfl
@[simp] theorem State.onCore_rate (s : State) (c : Nat) (f : Core → Core) : (s.onCore c f).rate = s.rate := rfl
@[simp] theorem State.onWarp_rate (s : State) (c w : Nat) (f : Warp → Warp) : (s.onWarp c w f).rate = s.rate := rfl
@[simp] theorem State.setSc_rate (s : State) (g k : Nat) (x : SCore) : (s.setSc g k x).rate = s.rate := rfl
@[simp] theorem State.onSc_rate (s : State) (g k : Nat) (f : SCore → SCore) : (s.onSc g k f).rate = s.rate := rfl
@[simp] theorem State.onCtx_rate (s : State) (a : Nat) (f : Context → Context) : (s.onCtx a f).rate = s.rate := rfl
@[simp] theorem State.setOp_rate (s : State) (c : Nat) (o : Op) : (s.setOp c o).rate = s.rate := rfl
@[simp] theorem State.setCore_throttle (s : State) (c : Nat) (k : Core) : (s.setCore c k).throttle = s.throttle := rfl
@[simp] theorem State.onCore_throttle (s : State) (c : Nat) (f : Core → Core) : (s.onCore c f).throttle = s.throttle := rfl
@[simp] theorem State.onWarp_throttle (s : State) (c w : Nat) (f : Warp → Warp) : (s.onWarp c w f).throttle = s.throttle := rfl
@[simp] theorem State.setSc_throttle (s : State) (g k : Nat) (x : SCore) : (s.setSc g k x).throttle = s.throttle := rfl
@[simp] theorem State.onSc_throttle (s : State) (g k : Nat) (f : SCore → SCore) : (s.onSc g k f).throttle = s.throttle := rfl
@[simp] theorem State.onCtx_throttle (s : State) (a : Nat) (f : Context → Context) : (s.onCtx a f).throttle = s.throttle := rfl
@[simp] theorem State.setOp_throttle (s : State) (c : Nat) (o : Op) : (s.setOp c o).throttle = s.throttle := rfl
@[simp] theorem State.setCore_frames (s : State) (c : Nat) (k : Core) : (s.setCore c k).frames = s.frames := rfl
@[simp] theorem State.onCore_frames (s : State) (c : Nat) (f : Core → Core) : (s.onCore c f).frames = s.frames := rfl
@[simp] theorem State.onWarp_frames (s : State) (c w : Nat) (f : Warp → Warp) : (s.onWarp c w f).frames = s.frames := rfl
@[simp] theorem State.setSc_frames (s : State) (g k : Nat) (x : SCore) : (s.setSc g k x).frames = s.frames := rfl
@[simp] theorem State.onSc_frames (s : State) (g k : Nat) (f : SCore → SCore) : (s.onSc g k f).frames = s.frames := rfl
@[simp] theorem State.onCtx_frames (s : State) (a : Nat) (f : Context → Context) : (s.onCtx a f).frames = s.frames := rfl
@[simp] theorem State.setOp_frames (s : State) (c : Nat) (o : Op) : (s.setOp c o).frames = s.frames := rfl
@[simp] theorem State.setCore_shoots (s : State) (c : Nat) (k : Core) : (s.setCore c k).shoots = s.shoots := rfl
@[simp] theorem State.onCore_shoots (s : State) (c : Nat) (f : Core → Core) : (s.onCore c f).shoots = s.shoots := rfl
@[simp] theorem State.onWarp_shoots (s : State) (c w : Nat) (f : Warp → Warp) : (s.onWarp c w f).shoots = s.shoots := rfl
@[simp] theorem State.setSc_shoots (s : State) (g k : Nat) (x : SCore) : (s.setSc g k x).shoots = s.shoots := rfl
@[simp] theorem State.onSc_shoots (s : State) (g k : Nat) (f : SCore → SCore) : (s.onSc g k f).shoots = s.shoots := rfl
@[simp] theorem State.onCtx_shoots (s : State) (a : Nat) (f : Context → Context) : (s.onCtx a f).shoots = s.shoots := rfl
@[simp] theorem State.setOp_shoots (s : State) (c : Nat) (o : Op) : (s.setOp c o).shoots = s.shoots := rfl
@[simp] theorem State.setCore_kvCopies (s : State) (c : Nat) (k : Core) : (s.setCore c k).kvCopies = s.kvCopies := rfl
@[simp] theorem State.onCore_kvCopies (s : State) (c : Nat) (f : Core → Core) : (s.onCore c f).kvCopies = s.kvCopies := rfl
@[simp] theorem State.onWarp_kvCopies (s : State) (c w : Nat) (f : Warp → Warp) : (s.onWarp c w f).kvCopies = s.kvCopies := rfl
@[simp] theorem State.setSc_kvCopies (s : State) (g k : Nat) (x : SCore) : (s.setSc g k x).kvCopies = s.kvCopies := rfl
@[simp] theorem State.onSc_kvCopies (s : State) (g k : Nat) (f : SCore → SCore) : (s.onSc g k f).kvCopies = s.kvCopies := rfl
@[simp] theorem State.onCtx_kvCopies (s : State) (a : Nat) (f : Context → Context) : (s.onCtx a f).kvCopies = s.kvCopies := rfl
@[simp] theorem State.setOp_kvCopies (s : State) (c : Nat) (o : Op) : (s.setOp c o).kvCopies = s.kvCopies := rfl
@[simp] theorem State.setCore_kvBack (s : State) (c : Nat) (k : Core) : (s.setCore c k).kvBack = s.kvBack := rfl
@[simp] theorem State.onCore_kvBack (s : State) (c : Nat) (f : Core → Core) : (s.onCore c f).kvBack = s.kvBack := rfl
@[simp] theorem State.onWarp_kvBack (s : State) (c w : Nat) (f : Warp → Warp) : (s.onWarp c w f).kvBack = s.kvBack := rfl
@[simp] theorem State.setSc_kvBack (s : State) (g k : Nat) (x : SCore) : (s.setSc g k x).kvBack = s.kvBack := rfl
@[simp] theorem State.onSc_kvBack (s : State) (g k : Nat) (f : SCore → SCore) : (s.onSc g k f).kvBack = s.kvBack := rfl
@[simp] theorem State.onCtx_kvBack (s : State) (a : Nat) (f : Context → Context) : (s.onCtx a f).kvBack = s.kvBack := rfl
@[simp] theorem State.setOp_kvBack (s : State) (c : Nat) (o : Op) : (s.setOp c o).kvBack = s.kvBack := rfl
@[simp] theorem State.setCore_kvHandle (s : State) (c : Nat) (k : Core) : (s.setCore c k).kvHandle = s.kvHandle := rfl
@[simp] theorem State.onCore_kvHandle (s : State) (c : Nat) (f : Core → Core) : (s.onCore c f).kvHandle = s.kvHandle := rfl
@[simp] theorem State.onWarp_kvHandle (s : State) (c w : Nat) (f : Warp → Warp) : (s.onWarp c w f).kvHandle = s.kvHandle := rfl
@[simp] theorem State.setSc_kvHandle (s : State) (g k : Nat) (x : SCore) : (s.setSc g k x).kvHandle = s.kvHandle := rfl
@[simp] theorem State.onSc_kvHandle (s : State) (g k : Nat) (f : SCore → SCore) : (s.onSc g k f).kvHandle = s.kvHandle := rfl
@[simp] theorem State.onCtx_kvHandle (s : State) (a : Nat) (f : Context → Context) : (s.onCtx a f).kvHandle = s.kvHandle := rfl
@[simp] theorem State.setOp_kvHandle (s : State) (c : Nat) (o : Op) : (s.setOp c o).kvHandle = s.kvHandle := rfl
@[simp] theorem State.setCore_kvq (s : State) (c : Nat) (k : Core) : (s.setCore c k).kvq = s.kvq := rfl
@[simp] theorem State.onCore_kvq (s : State) (c : Nat) (f : Core → Core) : (s.onCore c f).kvq = s.kvq := rfl
@[simp] theorem State.onWarp_kvq (s : State) (c w : Nat) (f : Warp → Warp) : (s.onWarp c w f).kvq = s.kvq := rfl
@[simp] theorem State.setSc_kvq (s : State) (g k : Nat) (x : SCore) : (s.setSc g k x).kvq = s.kvq := rfl
@[simp] theorem State.onSc_kvq (s : State) (g k : Nat) (f : SCore → SCore) : (s.onSc g k f).kvq = s.kvq := rfl
@[simp] theorem State.onCtx_kvq (s : State) (a : Nat) (f : Context → Context) : (s.onCtx a f).kvq = s.kvq := rfl
@[simp] theorem State.setOp_kvq (s : State) (c : Nat) (o : Op) : (s.setOp c o).kvq = s.kvq := rfl
@[simp] theorem State.setCore_ltlb (s : State) (c : Nat) (k : Core) : (s.setCore c k).ltlb = s.ltlb := rfl
@[simp] theorem State.onCore_ltlb (s : State) (c : Nat) (f : Core → Core) : (s.onCore c f).ltlb = s.ltlb := rfl
@[simp] theorem State.onWarp_ltlb (s : State) (c w : Nat) (f : Warp → Warp) : (s.onWarp c w f).ltlb = s.ltlb := rfl
@[simp] theorem State.setSc_ltlb (s : State) (g k : Nat) (x : SCore) : (s.setSc g k x).ltlb = s.ltlb := rfl
@[simp] theorem State.onSc_ltlb (s : State) (g k : Nat) (f : SCore → SCore) : (s.onSc g k f).ltlb = s.ltlb := rfl
@[simp] theorem State.onCtx_ltlb (s : State) (a : Nat) (f : Context → Context) : (s.onCtx a f).ltlb = s.ltlb := rfl
@[simp] theorem State.setOp_ltlb (s : State) (c : Nat) (o : Op) : (s.setOp c o).ltlb = s.ltlb := rfl
@[simp] theorem State.setCore_mmpq (s : State) (c : Nat) (k : Core) : (s.setCore c k).mmpq = s.mmpq := rfl
@[simp] theorem State.onCore_mmpq (s : State) (c : Nat) (f : Core → Core) : (s.onCore c f).mmpq = s.mmpq := rfl
@[simp] theorem State.onWarp_mmpq (s : State) (c w : Nat) (f : Warp → Warp) : (s.onWarp c w f).mmpq = s.mmpq := rfl
@[simp] theorem State.setSc_mmpq (s : State) (g k : Nat) (x : SCore) : (s.setSc g k x).mmpq = s.mmpq := rfl
@[simp] theorem State.onSc_mmpq (s : State) (g k : Nat) (f : SCore → SCore) : (s.onSc g k f).mmpq = s.mmpq := rfl
@[simp] theorem State.onCtx_mmpq (s : State) (a : Nat) (f : Context → Context) : (s.onCtx a f).mmpq = s.mmpq := rfl
@[simp] theorem State.setOp_mmpq (s : State) (c : Nat) (o : Op) : (s.setOp c o).mmpq = s.mmpq := rfl
@[simp] theorem State.setCore_calls (s : State) (c : Nat) (k : Core) : (s.setCore c k).calls = s.calls := rfl
@[simp] theorem State.onCore_calls (s : State) (c : Nat) (f : Core → Core) : (s.onCore c f).calls = s.calls := rfl
@[simp] theorem State.onWarp_calls (s : State) (c w : Nat) (f : Warp → Warp) : (s.onWarp c w f).calls = s.calls := rfl
@[simp] theorem State.setSc_calls (s : State) (g k : Nat) (x : SCore) : (s.setSc g k x).calls = s.calls := rfl
@[simp] theorem State.onSc_calls (s : State) (g k : Nat) (f : SCore → SCore) : (s.onSc g k f).calls = s.calls := rfl
@[simp] theorem State.onCtx_calls (s : State) (a : Nat) (f : Context → Context) : (s.onCtx a f).calls = s.calls := rfl
@[simp] theorem State.setOp_calls (s : State) (c : Nat) (o : Op) : (s.setOp c o).calls = s.calls := rfl
@[simp] theorem State.setCore_refresh (s : State) (c : Nat) (k : Core) : (s.setCore c k).refresh = s.refresh := rfl
@[simp] theorem State.onCore_refresh (s : State) (c : Nat) (f : Core → Core) : (s.onCore c f).refresh = s.refresh := rfl
@[simp] theorem State.onWarp_refresh (s : State) (c w : Nat) (f : Warp → Warp) : (s.onWarp c w f).refresh = s.refresh := rfl
@[simp] theorem State.setSc_refresh (s : State) (g k : Nat) (x : SCore) : (s.setSc g k x).refresh = s.refresh := rfl
@[simp] theorem State.onSc_refresh (s : State) (g k : Nat) (f : SCore → SCore) : (s.onSc g k f).refresh = s.refresh := rfl
@[simp] theorem State.onCtx_refresh (s : State) (a : Nat) (f : Context → Context) : (s.onCtx a f).refresh = s.refresh := rfl
@[simp] theorem State.setOp_refresh (s : State) (c : Nat) (o : Op) : (s.setOp c o).refresh = s.refresh := rfl
@[simp] theorem State.setCore_podcfg (s : State) (c : Nat) (k : Core) : (s.setCore c k).podcfg = s.podcfg := rfl
@[simp] theorem State.onCore_podcfg (s : State) (c : Nat) (f : Core → Core) : (s.onCore c f).podcfg = s.podcfg := rfl
@[simp] theorem State.onWarp_podcfg (s : State) (c w : Nat) (f : Warp → Warp) : (s.onWarp c w f).podcfg = s.podcfg := rfl
@[simp] theorem State.setSc_podcfg (s : State) (g k : Nat) (x : SCore) : (s.setSc g k x).podcfg = s.podcfg := rfl
@[simp] theorem State.onSc_podcfg (s : State) (g k : Nat) (f : SCore → SCore) : (s.onSc g k f).podcfg = s.podcfg := rfl
@[simp] theorem State.onCtx_podcfg (s : State) (a : Nat) (f : Context → Context) : (s.onCtx a f).podcfg = s.podcfg := rfl
@[simp] theorem State.setOp_podcfg (s : State) (c : Nat) (o : Op) : (s.setOp c o).podcfg = s.podcfg := rfl
@[simp] theorem State.setCore_ready (s : State) (c : Nat) (k : Core) : (s.setCore c k).ready = s.ready := rfl
@[simp] theorem State.onCore_ready (s : State) (c : Nat) (f : Core → Core) : (s.onCore c f).ready = s.ready := rfl
@[simp] theorem State.onWarp_ready (s : State) (c w : Nat) (f : Warp → Warp) : (s.onWarp c w f).ready = s.ready := rfl
@[simp] theorem State.setSc_ready (s : State) (g k : Nat) (x : SCore) : (s.setSc g k x).ready = s.ready := rfl
@[simp] theorem State.onSc_ready (s : State) (g k : Nat) (f : SCore → SCore) : (s.onSc g k f).ready = s.ready := rfl
@[simp] theorem State.onCtx_ready (s : State) (a : Nat) (f : Context → Context) : (s.onCtx a f).ready = s.ready := rfl
@[simp] theorem State.setOp_ready (s : State) (c : Nat) (o : Op) : (s.setOp c o).ready = s.ready := rfl
@[simp] theorem State.setCore_ports (s : State) (c : Nat) (k : Core) : (s.setCore c k).ports = s.ports := rfl
@[simp] theorem State.onCore_ports (s : State) (c : Nat) (f : Core → Core) : (s.onCore c f).ports = s.ports := rfl
@[simp] theorem State.onWarp_ports (s : State) (c w : Nat) (f : Warp → Warp) : (s.onWarp c w f).ports = s.ports := rfl
@[simp] theorem State.setSc_ports (s : State) (g k : Nat) (x : SCore) : (s.setSc g k x).ports = s.ports := rfl
@[simp] theorem State.onSc_ports (s : State) (g k : Nat) (f : SCore → SCore) : (s.onSc g k f).ports = s.ports := rfl
@[simp] theorem State.onCtx_ports (s : State) (a : Nat) (f : Context → Context) : (s.onCtx a f).ports = s.ports := rfl
@[simp] theorem State.setOp_ports (s : State) (c : Nat) (o : Op) : (s.setOp c o).ports = s.ports := rfl
@[simp] theorem State.setCore_host0 (s : State) (c : Nat) (k : Core) : (s.setCore c k).host0 = s.host0 := rfl
@[simp] theorem State.onCore_host0 (s : State) (c : Nat) (f : Core → Core) : (s.onCore c f).host0 = s.host0 := rfl
@[simp] theorem State.onWarp_host0 (s : State) (c w : Nat) (f : Warp → Warp) : (s.onWarp c w f).host0 = s.host0 := rfl
@[simp] theorem State.setSc_host0 (s : State) (g k : Nat) (x : SCore) : (s.setSc g k x).host0 = s.host0 := rfl
@[simp] theorem State.onSc_host0 (s : State) (g k : Nat) (f : SCore → SCore) : (s.onSc g k f).host0 = s.host0 := rfl
@[simp] theorem State.onCtx_host0 (s : State) (a : Nat) (f : Context → Context) : (s.onCtx a f).host0 = s.host0 := rfl
@[simp] theorem State.setOp_host0 (s : State) (c : Nat) (o : Op) : (s.setOp c o).host0 = s.host0 := rfl
@[simp] theorem State.setCore_launches (s : State) (c : Nat) (k : Core) : (s.setCore c k).launches = s.launches := rfl
@[simp] theorem State.onCore_launches (s : State) (c : Nat) (f : Core → Core) : (s.onCore c f).launches = s.launches := rfl
@[simp] theorem State.onWarp_launches (s : State) (c w : Nat) (f : Warp → Warp) : (s.onWarp c w f).launches = s.launches := rfl
@[simp] theorem State.setSc_launches (s : State) (g k : Nat) (x : SCore) : (s.setSc g k x).launches = s.launches := rfl
@[simp] theorem State.onSc_launches (s : State) (g k : Nat) (f : SCore → SCore) : (s.onSc g k f).launches = s.launches := rfl
@[simp] theorem State.onCtx_launches (s : State) (a : Nat) (f : Context → Context) : (s.onCtx a f).launches = s.launches := rfl
@[simp] theorem State.setOp_launches (s : State) (c : Nat) (o : Op) : (s.setOp c o).launches = s.launches := rfl
@[simp] theorem State.setCore_nextLaunch (s : State) (c : Nat) (k : Core) : (s.setCore c k).nextLaunch = s.nextLaunch := rfl
@[simp] theorem State.onCore_nextLaunch (s : State) (c : Nat) (f : Core → Core) : (s.onCore c f).nextLaunch = s.nextLaunch := rfl
@[simp] theorem State.onWarp_nextLaunch (s : State) (c w : Nat) (f : Warp → Warp) : (s.onWarp c w f).nextLaunch = s.nextLaunch := rfl
@[simp] theorem State.setSc_nextLaunch (s : State) (g k : Nat) (x : SCore) : (s.setSc g k x).nextLaunch = s.nextLaunch := rfl
@[simp] theorem State.onSc_nextLaunch (s : State) (g k : Nat) (f : SCore → SCore) : (s.onSc g k f).nextLaunch = s.nextLaunch := rfl
@[simp] theorem State.onCtx_nextLaunch (s : State) (a : Nat) (f : Context → Context) : (s.onCtx a f).nextLaunch = s.nextLaunch := rfl
@[simp] theorem State.setOp_nextLaunch (s : State) (c : Nat) (o : Op) : (s.setOp c o).nextLaunch = s.nextLaunch := rfl
@[simp] theorem State.setCore_releases (s : State) (c : Nat) (k : Core) : (s.setCore c k).releases = s.releases := rfl
@[simp] theorem State.onCore_releases (s : State) (c : Nat) (f : Core → Core) : (s.onCore c f).releases = s.releases := rfl
@[simp] theorem State.onWarp_releases (s : State) (c w : Nat) (f : Warp → Warp) : (s.onWarp c w f).releases = s.releases := rfl
@[simp] theorem State.setSc_releases (s : State) (g k : Nat) (x : SCore) : (s.setSc g k x).releases = s.releases := rfl
@[simp] theorem State.onSc_releases (s : State) (g k : Nat) (f : SCore → SCore) : (s.onSc g k f).releases = s.releases := rfl
@[simp] theorem State.onCtx_releases (s : State) (a : Nat) (f : Context → Context) : (s.onCtx a f).releases = s.releases := rfl
@[simp] theorem State.setOp_releases (s : State) (c : Nat) (o : Op) : (s.setOp c o).releases = s.releases := rfl
@[simp] theorem State.setCore_away (s : State) (c : Nat) (k : Core) : (s.setCore c k).away = s.away := rfl
@[simp] theorem State.onCore_away (s : State) (c : Nat) (f : Core → Core) : (s.onCore c f).away = s.away := rfl
@[simp] theorem State.onWarp_away (s : State) (c w : Nat) (f : Warp → Warp) : (s.onWarp c w f).away = s.away := rfl
@[simp] theorem State.setSc_away (s : State) (g k : Nat) (x : SCore) : (s.setSc g k x).away = s.away := rfl
@[simp] theorem State.onSc_away (s : State) (g k : Nat) (f : SCore → SCore) : (s.onSc g k f).away = s.away := rfl
@[simp] theorem State.onCtx_away (s : State) (a : Nat) (f : Context → Context) : (s.onCtx a f).away = s.away := rfl
@[simp] theorem State.setOp_away (s : State) (c : Nat) (o : Op) : (s.setOp c o).away = s.away := rfl
@[simp] theorem State.setCore_nextAway (s : State) (c : Nat) (k : Core) : (s.setCore c k).nextAway = s.nextAway := rfl
@[simp] theorem State.onCore_nextAway (s : State) (c : Nat) (f : Core → Core) : (s.onCore c f).nextAway = s.nextAway := rfl
@[simp] theorem State.onWarp_nextAway (s : State) (c w : Nat) (f : Warp → Warp) : (s.onWarp c w f).nextAway = s.nextAway := rfl
@[simp] theorem State.setSc_nextAway (s : State) (g k : Nat) (x : SCore) : (s.setSc g k x).nextAway = s.nextAway := rfl
@[simp] theorem State.onSc_nextAway (s : State) (g k : Nat) (f : SCore → SCore) : (s.onSc g k f).nextAway = s.nextAway := rfl
@[simp] theorem State.onCtx_nextAway (s : State) (a : Nat) (f : Context → Context) : (s.onCtx a f).nextAway = s.nextAway := rfl
@[simp] theorem State.setOp_nextAway (s : State) (c : Nat) (o : Op) : (s.setOp c o).nextAway = s.nextAway := rfl
@[simp] theorem State.setCore_denied (s : State) (c : Nat) (k : Core) : (s.setCore c k).denied = s.denied := rfl
@[simp] theorem State.onCore_denied (s : State) (c : Nat) (f : Core → Core) : (s.onCore c f).denied = s.denied := rfl
@[simp] theorem State.onWarp_denied (s : State) (c w : Nat) (f : Warp → Warp) : (s.onWarp c w f).denied = s.denied := rfl
@[simp] theorem State.setSc_denied (s : State) (g k : Nat) (x : SCore) : (s.setSc g k x).denied = s.denied := rfl
@[simp] theorem State.onSc_denied (s : State) (g k : Nat) (f : SCore → SCore) : (s.onSc g k f).denied = s.denied := rfl
@[simp] theorem State.onCtx_denied (s : State) (a : Nat) (f : Context → Context) : (s.onCtx a f).denied = s.denied := rfl
@[simp] theorem State.setOp_denied (s : State) (c : Nat) (o : Op) : (s.setOp c o).denied = s.denied := rfl
@[simp] theorem State.setCore_moving (s : State) (c : Nat) (k : Core) : (s.setCore c k).moving = s.moving := rfl
@[simp] theorem State.onCore_moving (s : State) (c : Nat) (f : Core → Core) : (s.onCore c f).moving = s.moving := rfl
@[simp] theorem State.onWarp_moving (s : State) (c w : Nat) (f : Warp → Warp) : (s.onWarp c w f).moving = s.moving := rfl
@[simp] theorem State.setSc_moving (s : State) (g k : Nat) (x : SCore) : (s.setSc g k x).moving = s.moving := rfl
@[simp] theorem State.onSc_moving (s : State) (g k : Nat) (f : SCore → SCore) : (s.onSc g k f).moving = s.moving := rfl
@[simp] theorem State.onCtx_moving (s : State) (a : Nat) (f : Context → Context) : (s.onCtx a f).moving = s.moving := rfl
@[simp] theorem State.setOp_moving (s : State) (c : Nat) (o : Op) : (s.setOp c o).moving = s.moving := rfl
@[simp] theorem State.setCore_zeroing (s : State) (c : Nat) (k : Core) : (s.setCore c k).zeroing = s.zeroing := rfl
@[simp] theorem State.onCore_zeroing (s : State) (c : Nat) (f : Core → Core) : (s.onCore c f).zeroing = s.zeroing := rfl
@[simp] theorem State.onWarp_zeroing (s : State) (c w : Nat) (f : Warp → Warp) : (s.onWarp c w f).zeroing = s.zeroing := rfl
@[simp] theorem State.setSc_zeroing (s : State) (g k : Nat) (x : SCore) : (s.setSc g k x).zeroing = s.zeroing := rfl
@[simp] theorem State.onSc_zeroing (s : State) (g k : Nat) (f : SCore → SCore) : (s.onSc g k f).zeroing = s.zeroing := rfl
@[simp] theorem State.onCtx_zeroing (s : State) (a : Nat) (f : Context → Context) : (s.onCtx a f).zeroing = s.zeroing := rfl
@[simp] theorem State.setOp_zeroing (s : State) (c : Nat) (o : Op) : (s.setOp c o).zeroing = s.zeroing := rfl
@[simp] theorem State.setCore_timetable (s : State) (c : Nat) (k : Core) : (s.setCore c k).timetable = s.timetable := rfl
@[simp] theorem State.onCore_timetable (s : State) (c : Nat) (f : Core → Core) : (s.onCore c f).timetable = s.timetable := rfl
@[simp] theorem State.onWarp_timetable (s : State) (c w : Nat) (f : Warp → Warp) : (s.onWarp c w f).timetable = s.timetable := rfl
@[simp] theorem State.setSc_timetable (s : State) (g k : Nat) (x : SCore) : (s.setSc g k x).timetable = s.timetable := rfl
@[simp] theorem State.onSc_timetable (s : State) (g k : Nat) (f : SCore → SCore) : (s.onSc g k f).timetable = s.timetable := rfl
@[simp] theorem State.onCtx_timetable (s : State) (a : Nat) (f : Context → Context) : (s.onCtx a f).timetable = s.timetable := rfl
@[simp] theorem State.setOp_timetable (s : State) (c : Nat) (o : Op) : (s.setOp c o).timetable = s.timetable := rfl
@[simp] theorem State.setCore_change (s : State) (c : Nat) (k : Core) : (s.setCore c k).change = s.change := rfl
@[simp] theorem State.onCore_change (s : State) (c : Nat) (f : Core → Core) : (s.onCore c f).change = s.change := rfl
@[simp] theorem State.onWarp_change (s : State) (c w : Nat) (f : Warp → Warp) : (s.onWarp c w f).change = s.change := rfl
@[simp] theorem State.setSc_change (s : State) (g k : Nat) (x : SCore) : (s.setSc g k x).change = s.change := rfl
@[simp] theorem State.onSc_change (s : State) (g k : Nat) (f : SCore → SCore) : (s.onSc g k f).change = s.change := rfl
@[simp] theorem State.onCtx_change (s : State) (a : Nat) (f : Context → Context) : (s.onCtx a f).change = s.change := rfl
@[simp] theorem State.setOp_change (s : State) (c : Nat) (o : Op) : (s.setOp c o).change = s.change := rfl
@[simp] theorem State.setCore_stopped (s : State) (c : Nat) (k : Core) : (s.setCore c k).stopped = s.stopped := rfl
@[simp] theorem State.onCore_stopped (s : State) (c : Nat) (f : Core → Core) : (s.onCore c f).stopped = s.stopped := rfl
@[simp] theorem State.onWarp_stopped (s : State) (c w : Nat) (f : Warp → Warp) : (s.onWarp c w f).stopped = s.stopped := rfl
@[simp] theorem State.setSc_stopped (s : State) (g k : Nat) (x : SCore) : (s.setSc g k x).stopped = s.stopped := rfl
@[simp] theorem State.onSc_stopped (s : State) (g k : Nat) (f : SCore → SCore) : (s.onSc g k f).stopped = s.stopped := rfl
@[simp] theorem State.onCtx_stopped (s : State) (a : Nat) (f : Context → Context) : (s.onCtx a f).stopped = s.stopped := rfl
@[simp] theorem State.setOp_stopped (s : State) (c : Nat) (o : Op) : (s.setOp c o).stopped = s.stopped := rfl
@[simp] theorem State.setCore_fresh (s : State) (c : Nat) (k : Core) : (s.setCore c k).fresh = s.fresh := rfl
@[simp] theorem State.onCore_fresh (s : State) (c : Nat) (f : Core → Core) : (s.onCore c f).fresh = s.fresh := rfl
@[simp] theorem State.onWarp_fresh (s : State) (c w : Nat) (f : Warp → Warp) : (s.onWarp c w f).fresh = s.fresh := rfl
@[simp] theorem State.setSc_fresh (s : State) (g k : Nat) (x : SCore) : (s.setSc g k x).fresh = s.fresh := rfl
@[simp] theorem State.onSc_fresh (s : State) (g k : Nat) (f : SCore → SCore) : (s.onSc g k f).fresh = s.fresh := rfl
@[simp] theorem State.onCtx_fresh (s : State) (a : Nat) (f : Context → Context) : (s.onCtx a f).fresh = s.fresh := rfl
@[simp] theorem State.setOp_fresh (s : State) (c : Nat) (o : Op) : (s.setOp c o).fresh = s.fresh := rfl
@[simp] theorem State.setCore_opId (s : State) (c : Nat) (k : Core) : (s.setCore c k).opId = s.opId := rfl
@[simp] theorem State.onCore_opId (s : State) (c : Nat) (f : Core → Core) : (s.onCore c f).opId = s.opId := rfl
@[simp] theorem State.onWarp_opId (s : State) (c w : Nat) (f : Warp → Warp) : (s.onWarp c w f).opId = s.opId := rfl
@[simp] theorem State.setSc_opId (s : State) (g k : Nat) (x : SCore) : (s.setSc g k x).opId = s.opId := rfl
@[simp] theorem State.onSc_opId (s : State) (g k : Nat) (f : SCore → SCore) : (s.onSc g k f).opId = s.opId := rfl
@[simp] theorem State.onCtx_opId (s : State) (a : Nat) (f : Context → Context) : (s.onCtx a f).opId = s.opId := rfl
@[simp] theorem State.setOp_opId (s : State) (c : Nat) (o : Op) : (s.setOp c o).opId = s.opId := rfl
@[simp] theorem State.setCore_bad (s : State) (c : Nat) (k : Core) : (s.setCore c k).bad = s.bad := rfl
@[simp] theorem State.onCore_bad (s : State) (c : Nat) (f : Core → Core) : (s.onCore c f).bad = s.bad := rfl
@[simp] theorem State.onWarp_bad (s : State) (c w : Nat) (f : Warp → Warp) : (s.onWarp c w f).bad = s.bad := rfl
@[simp] theorem State.setSc_bad (s : State) (g k : Nat) (x : SCore) : (s.setSc g k x).bad = s.bad := rfl
@[simp] theorem State.onSc_bad (s : State) (g k : Nat) (f : SCore → SCore) : (s.onSc g k f).bad = s.bad := rfl
@[simp] theorem State.onCtx_bad (s : State) (a : Nat) (f : Context → Context) : (s.onCtx a f).bad = s.bad := rfl
@[simp] theorem State.setOp_bad (s : State) (c : Nat) (o : Op) : (s.setOp c o).bad = s.bad := rfl
@[simp] theorem State.setCore_strm (s : State) (c : Nat) (k : Core) : (s.setCore c k).strm = s.strm := rfl
@[simp] theorem State.onCore_strm (s : State) (c : Nat) (f : Core → Core) : (s.onCore c f).strm = s.strm := rfl
@[simp] theorem State.onWarp_strm (s : State) (c w : Nat) (f : Warp → Warp) : (s.onWarp c w f).strm = s.strm := rfl
@[simp] theorem State.setSc_strm (s : State) (g k : Nat) (x : SCore) : (s.setSc g k x).strm = s.strm := rfl
@[simp] theorem State.onSc_strm (s : State) (g k : Nat) (f : SCore → SCore) : (s.onSc g k f).strm = s.strm := rfl
@[simp] theorem State.onCtx_strm (s : State) (a : Nat) (f : Context → Context) : (s.onCtx a f).strm = s.strm := rfl
@[simp] theorem State.setOp_strm (s : State) (c : Nat) (o : Op) : (s.setOp c o).strm = s.strm := rfl
@[simp] theorem State.setCore_kvBad (s : State) (c : Nat) (k : Core) : (s.setCore c k).kvBad = s.kvBad := rfl
@[simp] theorem State.onCore_kvBad (s : State) (c : Nat) (f : Core → Core) : (s.onCore c f).kvBad = s.kvBad := rfl
@[simp] theorem State.onWarp_kvBad (s : State) (c w : Nat) (f : Warp → Warp) : (s.onWarp c w f).kvBad = s.kvBad := rfl
@[simp] theorem State.setSc_kvBad (s : State) (g k : Nat) (x : SCore) : (s.setSc g k x).kvBad = s.kvBad := rfl
@[simp] theorem State.onSc_kvBad (s : State) (g k : Nat) (f : SCore → SCore) : (s.onSc g k f).kvBad = s.kvBad := rfl
@[simp] theorem State.onCtx_kvBad (s : State) (a : Nat) (f : Context → Context) : (s.onCtx a f).kvBad = s.kvBad := rfl
@[simp] theorem State.setOp_kvBad (s : State) (c : Nat) (o : Op) : (s.setOp c o).kvBad = s.kvBad := rfl
@[simp] theorem State.setCore_relays (s : State) (c : Nat) (k : Core) : (s.setCore c k).relays = s.relays := rfl
@[simp] theorem State.onCore_relays (s : State) (c : Nat) (f : Core → Core) : (s.onCore c f).relays = s.relays := rfl
@[simp] theorem State.onWarp_relays (s : State) (c w : Nat) (f : Warp → Warp) : (s.onWarp c w f).relays = s.relays := rfl
@[simp] theorem State.setSc_relays (s : State) (g k : Nat) (x : SCore) : (s.setSc g k x).relays = s.relays := rfl
@[simp] theorem State.onSc_relays (s : State) (g k : Nat) (f : SCore → SCore) : (s.onSc g k f).relays = s.relays := rfl
@[simp] theorem State.onCtx_relays (s : State) (a : Nat) (f : Context → Context) : (s.onCtx a f).relays = s.relays := rfl
@[simp] theorem State.setOp_relays (s : State) (c : Nat) (o : Op) : (s.setOp c o).relays = s.relays := rfl
@[simp] theorem State.setCore_modBad (s : State) (c : Nat) (k : Core) : (s.setCore c k).modBad = s.modBad := rfl
@[simp] theorem State.onCore_modBad (s : State) (c : Nat) (f : Core → Core) : (s.onCore c f).modBad = s.modBad := rfl
@[simp] theorem State.onWarp_modBad (s : State) (c w : Nat) (f : Warp → Warp) : (s.onWarp c w f).modBad = s.modBad := rfl
@[simp] theorem State.setSc_modBad (s : State) (g k : Nat) (x : SCore) : (s.setSc g k x).modBad = s.modBad := rfl
@[simp] theorem State.onSc_modBad (s : State) (g k : Nat) (f : SCore → SCore) : (s.onSc g k f).modBad = s.modBad := rfl
@[simp] theorem State.onCtx_modBad (s : State) (a : Nat) (f : Context → Context) : (s.onCtx a f).modBad = s.modBad := rfl
@[simp] theorem State.setOp_modBad (s : State) (c : Nat) (o : Op) : (s.setOp c o).modBad = s.modBad := rfl
@[simp] theorem State.setCore_courierWait (s : State) (c : Nat) (k : Core) : (s.setCore c k).courierWait = s.courierWait := rfl
@[simp] theorem State.onCore_courierWait (s : State) (c : Nat) (f : Core → Core) : (s.onCore c f).courierWait = s.courierWait := rfl
@[simp] theorem State.onWarp_courierWait (s : State) (c w : Nat) (f : Warp → Warp) : (s.onWarp c w f).courierWait = s.courierWait := rfl
@[simp] theorem State.setSc_courierWait (s : State) (g k : Nat) (x : SCore) : (s.setSc g k x).courierWait = s.courierWait := rfl
@[simp] theorem State.onSc_courierWait (s : State) (g k : Nat) (f : SCore → SCore) : (s.onSc g k f).courierWait = s.courierWait := rfl
@[simp] theorem State.onCtx_courierWait (s : State) (a : Nat) (f : Context → Context) : (s.onCtx a f).courierWait = s.courierWait := rfl
@[simp] theorem State.setOp_courierWait (s : State) (c : Nat) (o : Op) : (s.setOp c o).courierWait = s.courierWait := rfl
@[simp] theorem State.setCore_errors (s : State) (c : Nat) (k : Core) : (s.setCore c k).errors = s.errors := rfl
@[simp] theorem State.onCore_errors (s : State) (c : Nat) (f : Core → Core) : (s.onCore c f).errors = s.errors := rfl
@[simp] theorem State.onWarp_errors (s : State) (c w : Nat) (f : Warp → Warp) : (s.onWarp c w f).errors = s.errors := rfl
@[simp] theorem State.setSc_errors (s : State) (g k : Nat) (x : SCore) : (s.setSc g k x).errors = s.errors := rfl
@[simp] theorem State.onSc_errors (s : State) (g k : Nat) (f : SCore → SCore) : (s.onSc g k f).errors = s.errors := rfl
@[simp] theorem State.onCtx_errors (s : State) (a : Nat) (f : Context → Context) : (s.onCtx a f).errors = s.errors := rfl
@[simp] theorem State.setOp_errors (s : State) (c : Nat) (o : Op) : (s.setOp c o).errors = s.errors := rfl
@[simp] theorem State.setCore_lastRead (s : State) (c : Nat) (k : Core) : (s.setCore c k).lastRead = s.lastRead := rfl
@[simp] theorem State.onCore_lastRead (s : State) (c : Nat) (f : Core → Core) : (s.onCore c f).lastRead = s.lastRead := rfl
@[simp] theorem State.onWarp_lastRead (s : State) (c w : Nat) (f : Warp → Warp) : (s.onWarp c w f).lastRead = s.lastRead := rfl
@[simp] theorem State.setSc_lastRead (s : State) (g k : Nat) (x : SCore) : (s.setSc g k x).lastRead = s.lastRead := rfl
@[simp] theorem State.onSc_lastRead (s : State) (g k : Nat) (f : SCore → SCore) : (s.onSc g k f).lastRead = s.lastRead := rfl
@[simp] theorem State.onCtx_lastRead (s : State) (a : Nat) (f : Context → Context) : (s.onCtx a f).lastRead = s.lastRead := rfl
@[simp] theorem State.setOp_lastRead (s : State) (c : Nat) (o : Op) : (s.setOp c o).lastRead = s.lastRead := rfl

@[simp] theorem Core.setWarp_block (k : Core) (w : Nat) (x : Warp) : (k.setWarp w x).block = k.block := rfl
@[simp] theorem Core.setWarp_scratch (k : Core) (w : Nat) (x : Warp) : (k.setWarp w x).scratch = k.scratch := rfl
@[simp] theorem Core.setWarp_wbuf (k : Core) (w : Nat) (x : Warp) : (k.setWarp w x).wbuf = k.wbuf := rfl
@[simp] theorem Core.setWarp_codebook (k : Core) (w : Nat) (x : Warp) : (k.setWarp w x).codebook = k.codebook := rfl
@[simp] theorem Core.setWarp_tiles (k : Core) (w : Nat) (x : Warp) : (k.setWarp w x).tiles = k.tiles := rfl
@[simp] theorem Core.setWarp_shapes (k : Core) (w : Nat) (x : Warp) : (k.setWarp w x).shapes = k.shapes := rfl
@[simp] theorem Core.setWarp_tags (k : Core) (w : Nat) (x : Warp) : (k.setWarp w x).tags = k.tags := rfl
@[simp] theorem Core.setWarp_busy (k : Core) (w : Nat) (x : Warp) : (k.setWarp w x).busy = k.busy := rfl
@[simp] theorem Core.setWarp_tagerr (k : Core) (w : Nat) (x : Warp) : (k.setWarp w x).tagerr = k.tagerr := rfl
@[simp] theorem Core.setWarp_tagrec (k : Core) (w : Nat) (x : Warp) : (k.setWarp w x).tagrec = k.tagrec := rfl
@[simp] theorem Core.setWarp_bars (k : Core) (w : Nat) (x : Warp) : (k.setWarp w x).bars = k.bars := rfl
@[simp] theorem Core.setWarp_sys (k : Core) (w : Nat) (x : Warp) : (k.setWarp w x).sys = k.sys := rfl
@[simp] theorem Core.setWarp_ptrap (k : Core) (w : Nat) (x : Warp) : (k.setWarp w x).ptrap = k.ptrap := rfl
@[simp] theorem Core.setWarp_haltclk (k : Core) (w : Nat) (x : Warp) : (k.setWarp w x).haltclk = k.haltclk := rfl
@[simp] theorem Core.setWarp_halt (k : Core) (w : Nat) (x : Warp) : (k.setWarp w x).halt = k.halt := rfl
@[simp] theorem Core.setWarp_mst (k : Core) (w : Nat) (x : Warp) : (k.setWarp w x).mst = k.mst := rfl
@[simp] theorem Core.setWarp_array (k : Core) (w : Nat) (x : Warp) : (k.setWarp w x).array = k.array := rfl
@[simp] theorem Core.setWarp_arrayFetch (k : Core) (w : Nat) (x : Warp) : (k.setWarp w x).arrayFetch = k.arrayFetch := rfl
@[simp] theorem Core.setWarp_arrayCompute (k : Core) (w : Nat) (x : Warp) : (k.setWarp w x).arrayCompute = k.arrayCompute := rfl
@[simp] theorem Core.setWarp_latch (k : Core) (w : Nat) (x : Warp) : (k.setWarp w x).latch = k.latch := rfl
@[simp] theorem Core.setWarp_ops (k : Core) (w : Nat) (x : Warp) : (k.setWarp w x).ops = k.ops := rfl
@[simp] theorem Core.setWarp_pends (k : Core) (w : Nat) (x : Warp) : (k.setWarp w x).pends = k.pends := rfl
@[simp] theorem Core.setWarp_replays (k : Core) (w : Nat) (x : Warp) : (k.setWarp w x).replays = k.replays := rfl
@[simp] theorem Core.setWarp_marks (k : Core) (w : Nat) (x : Warp) : (k.setWarp w x).marks = k.marks := rfl
@[simp] theorem Core.setWarp_lastOp (k : Core) (w : Nat) (x : Warp) : (k.setWarp w x).lastOp = k.lastOp := rfl
@[simp] theorem Core.setWarp_quads (k : Core) (w : Nat) (x : Warp) : (k.setWarp w x).quads = k.quads := rfl
@[simp] theorem Core.setWarp_preempt (k : Core) (w : Nat) (x : Warp) : (k.setWarp w x).preempt = k.preempt := rfl
@[simp] theorem Core.setWarp_reserved (k : Core) (w : Nat) (x : Warp) : (k.setWarp w x).reserved = k.reserved := rfl
@[simp] theorem Core.setWarp_tlb (k : Core) (w : Nat) (x : Warp) : (k.setWarp w x).tlb = k.tlb := rfl
@[simp] theorem Core.setWarp_ctlb (k : Core) (w : Nat) (x : Warp) : (k.setWarp w x).ctlb = k.ctlb := rfl
@[simp] theorem Core.setWarp_kvc (k : Core) (w : Nat) (x : Warp) : (k.setWarp w x).kvc = k.kvc := rfl
@[simp] theorem Core.setWarp_l1 (k : Core) (w : Nat) (x : Warp) : (k.setWarp w x).l1 = k.l1 := rfl
@[simp] theorem Core.setWarp_bloom (k : Core) (w : Nat) (x : Warp) : (k.setWarp w x).bloom = k.bloom := rfl
@[simp] theorem Core.setWarp_tenant (k : Core) (w : Nat) (x : Warp) : (k.setWarp w x).tenant = k.tenant := rfl
@[simp] theorem Core.setWarp_fwaits (k : Core) (w : Nat) (x : Warp) : (k.setWarp w x).fwaits = k.fwaits := rfl
@[simp] theorem Core.setWarp_fenced (k : Core) (w : Nat) (x : Warp) : (k.setWarp w x).fenced = k.fenced := rfl
@[simp] theorem Core.setWarp_fmarks (k : Core) (w : Nat) (x : Warp) : (k.setWarp w x).fmarks = k.fmarks := rfl
@[simp] theorem Core.setWarp_nmarks (k : Core) (w : Nat) (x : Warp) : (k.setWarp w x).nmarks = k.nmarks := rfl
@[simp] theorem Core.setWarp_badCode (k : Core) (w : Nat) (x : Warp) : (k.setWarp w x).badCode = k.badCode := rfl
@[simp] theorem Core.setWarp_redRead (k : Core) (w : Nat) (x : Warp) : (k.setWarp w x).redRead = k.redRead := rfl

/-! Reading back. -/

@[simp] theorem State.core_setCore (s : State) (c : Nat) (k : Core) : (s.setCore c k).core c = k := by
  simp [State.core, State.setCore]

theorem State.core_setCore_ne (s : State) (c d : Nat) (k : Core) (h : d ≠ c) : (s.setCore c k).core d = s.core d := by
  simp [State.core, State.setCore, FMap.get_put, h]

@[simp] theorem State.core_onCore (s : State) (c : Nat) (f : Core → Core) : (s.onCore c f).core c = f (s.core c) := by
  simp [State.onCore]

theorem State.core_onCore_ne (s : State) (c d : Nat) (f : Core → Core) (h : d ≠ c) : (s.onCore c f).core d = s.core d := by
  simp [State.onCore, State.core_setCore_ne, h]

@[simp] theorem Core.warp_setWarp (k : Core) (w : Nat) (x : Warp) : (k.setWarp w x).warp w = x := by
  simp [Core.warp, Core.setWarp]

theorem Core.warp_setWarp_ne (k : Core) (w v : Nat) (x : Warp) (h : v ≠ w) : (k.setWarp w x).warp v = k.warp v := by
  simp [Core.warp, Core.setWarp, FMap.get_put, h]

@[simp] theorem State.core_onWarp (s : State) (c w : Nat) (f : Warp → Warp) :
    (s.onWarp c w f).core c = (s.core c).setWarp w (f ((s.core c).warp w)) := by
  simp [State.onWarp]

theorem State.core_onWarp_ne (s : State) (c d w : Nat) (f : Warp → Warp) (h : d ≠ c) :
    (s.onWarp c w f).core d = s.core d := by
  simp [State.onWarp, State.core_onCore_ne, h]

@[simp] theorem State.sc_setSc (s : State) (g k : Nat) (x : SCore) : (s.setSc g k x).sc g k = x := by
  simp [State.sc, State.setSc]

@[simp] theorem State.sc_onSc (s : State) (g k : Nat) (f : SCore → SCore) : (s.onSc g k f).sc g k = f (s.sc g k) := by
  simp [State.onSc]

@[simp] theorem State.ctx_onCtx (s : State) (a : Nat) (f : Context → Context) : (s.onCtx a f).ctx a = f (s.ctx a) := by
  simp [State.ctx, State.onCtx]

end Sys2Proof.Machine
end

