-- ==== Sys2Proof/Laws/Issue.lean ====
section
/-! SUPPORT. One lemma for each shared way of running a word: what runWhen, runWord, runFixed, runVariable and runStackWhen do
with a word that is not issuable, that traps, or that issues, and what issuing and retiring keep. -/

namespace Sys2Proof.Machine

theorem done_ok {s : State} (h : s.bad = none) : done s = .next s := by simp [done, h]

theorem done_next {s t : State} (h : done s = .next t) : t = s ∧ t.bad = none := by
  unfold done at h
  split at h
  · rename_i hb
    cases h
    exact ⟨rfl, hb⟩
  · cases h

theorem envOf_s {s : State} {f : Fn} {b : Body} {e : Env} (h : envOf s f b = some e) : e.s = s := by
  unfold envOf at h
  dsimp only at h
  repeat' split at h
  all_goals first
    | cases h; rfl
    | exact absurd h (by simp)

theorem envOf_fn {s : State} {f : Fn} {b : Body} {e : Env} (h : envOf s f b = some e) : e.fn = f ∧ e.body = b := by
  unfold envOf at h
  dsimp only at h
  repeat' split at h
  all_goals first
    | cases h; exact ⟨rfl, rfl⟩
    | exact absurd h (by simp)

theorem envOf_onStack {s : State} {f : Fn} {b : Body} {e : Env} (h : envOf s f b = some e) : onStack s = false := by
  unfold envOf at h
  unfold onStack
  cases ha : s.actor <;> simp [ha] at h ⊢

/-- A word that is not issuable does nothing. -/
theorem runWhen_stays {fn : Fn} {body : Body} {cond : Env → Bool} {k : Meaning} {s : State} {e : Env}
    (h : envOf s fn body = some e) (ha : e.issuable = false) : runWhen fn body cond k s = .next s := by
  simp [runWhen, h, ha]

/-- A word that its entry's own condition holds back does nothing, unless R55 refuses the word as such. -/
theorem runWhen_waits {fn : Fn} {body : Body} {cond : Env → Bool} {k : Meaning} {s : State} {e : Env}
    (h : envOf s fn body = some e) (hf : e.formTrap = none) (hc : cond e = false) : runWhen fn body cond k s = .next s := by
  simp [runWhen, h, hf, hc]

/-- A word that finds a common trap raises it; one that its entry's own condition holds back finds only those of the word itself. -/
theorem runWhen_trap {fn : Fn} {body : Body} {cond : Env → Bool} {k : Meaning} {s : State} {e : Env} {r : Nat} {t : Trap}
    (h : envOf s fn body = some e) (ha : e.issuable = true) (hc : cond e = true ∨ e.formTrap ≠ none) (ht : e.trap = some (r, t)) :
    runWhen fn body cond k s = done (e.raise s r t) := by
  unfold runWhen
  rcases hc with hc | hc
  · simp [h, ha, ht, hc]
  · cases hf : e.formTrap <;> simp_all

/-- A word that issues has its meaning on the package in which it has issued. -/
theorem runWhen_issues {fn : Fn} {body : Body} {cond : Env → Bool} {k : Meaning} {s : State} {e : Env}
    (h : envOf s fn body = some e) (ha : e.issuable = true) (ht : e.trap = none) (hc : cond e = true) :
    runWhen fn body cond k s = match k e e.issued with
      | .error t => done (e.raise s 7 t)
      | .ok s' => done s' := by
  unfold runWhen
  rw [h]
  cases hk : k e e.issued <;> simp [ha, ht, hc, hk]

theorem runWord_issues {fn : Fn} {body : Body} {k : Meaning} {s : State} {e : Env}
    (h : envOf s fn body = some e) (ha : e.issuable = true) (ht : e.trap = none) :
    runWord fn body k s = match k e e.issued with
      | .error t => done (e.raise s 7 t)
      | .ok s' => done s' := runWhen_issues h ha ht rfl

@[simp] theorem onCore_bad (s : State) (c : Nat) (f : Core → Core) : (s.onCore c f).bad = s.bad := rfl
@[simp] theorem onWarp_bad (s : State) (c w : Nat) (f : Warp → Warp) : (s.onWarp c w f).bad = s.bad := rfl

@[simp] theorem noteError_bad (s : State) (cls c : Nat) (addr : Option Nat) : (s.noteError cls c addr).bad = s.bad := rfl

@[simp] theorem goto_bad (e : Env) (s : State) (pc : Word64) (r : Nat) : (e.goto s pc r).bad = s.bad := by
  unfold Env.goto
  split
  · rfl
  · rfl
  · split <;> rfl

@[simp] theorem onSplit_bad (e : Env) (s : State) (f : Split → Split) : (e.onSplit s f).bad = s.bad := by
  unfold Env.onSplit
  split <;> rfl

@[simp] theorem yieldMark_bad (e : Env) (s : State) : (e.yieldMark s).bad = s.bad := by
  unfold Env.yieldMark
  split
  · rfl
  · rfl
  · exact onSplit_bad _ _ _

@[simp] theorem retire_bad (e : Env) (s : State) (n : Nat) (l : List Wr) : (e.retire s n l).bad = s.bad := by
  unfold Env.retire
  simp

@[simp] theorem issued_bad (e : Env) : e.issued.bad = e.s.bad := by
  unfold Env.issued
  dsimp only
  have h (l : List Nat) : (if l.isEmpty then e.s else { e.s with fresh := e.s.fresh + 1 }).bad = e.s.bad := by
    split <;> rfl
  rw [goto_bad, yieldMark_bad]
  split
  · rw [noteError_bad, onCore_bad]
    split
    · exact h _
    · rw [onWarp_bad]; exact h _
  · rw [onCore_bad]
    split
    · exact h _
    · rw [onWarp_bad]; exact h _

@[simp] theorem launchOp_bad (e : Env) (s : State) (g : Stage) (f : Op → Op) : (e.launchOp s g f).bad = s.bad := rfl

theorem whenActive_on {k : Meaning} {e : Env} {s : State} (h : e.act ≠ 0) : whenActive k e s = k e s := if_neg h

theorem whenActive_off {k : Meaning} {e : Env} {s : State} (h : e.act = 0) : whenActive k e s = .ok (e.retire s 1 []) :=
  if_pos h

/-- A word of fixed latency that acts: it issues, and its results are on their way. -/
theorem runFixed_acts {fn : Fn} {body : Body} {lat : Env → Nat} {check : Env → Option Trap} {wrs : Env → List Wr} {s : State}
    {e : Env} (h : envOf s fn body = some e) (ha : e.issuable = true) (ht : e.trap = none) (hs : s.bad = none)
    (hl : e.act ≠ 0) (hc : check e = none) :
    runFixed fn body lat check wrs s = .next (e.retire e.issued (lat e) (wrs e)) := by
  unfold runFixed
  rw [runWord_issues h ha ht, whenActive_on hl]
  simp [hc, done, envOf_s h, hs]

/-- A word of fixed latency that finds a trap of its own. -/
theorem runFixed_traps {fn : Fn} {body : Body} {lat : Env → Nat} {check : Env → Option Trap} {wrs : Env → List Wr} {s : State}
    {e : Env} {t : Trap} (h : envOf s fn body = some e) (ha : e.issuable = true) (ht : e.trap = none)
    (hl : e.act ≠ 0) (hc : check e = some t) :
    runFixed fn body lat check wrs s = done (e.raise s 7 t) := by
  unfold runFixed
  rw [runWord_issues h ha ht, whenActive_on hl]
  simp [hc]

/-- A word without an active lane issues and does nothing else (R45). -/
theorem whenActive_idle {fn : Fn} {body : Body} {k : Meaning} {s : State}
    {e : Env} (h : envOf s fn body = some e) (ha : e.issuable = true) (ht : e.trap = none) (hs : s.bad = none)
    (hl : e.act = 0) : runWord fn body (whenActive k) s = .next (e.retire e.issued 1 []) := by
  rw [runWord_issues h ha ht, whenActive_off hl]
  simp [done, envOf_s h, hs]

/-- A word of variable latency that acts: it issues, and its operation is in flight. -/
theorem runVariable_acts {fn : Fn} {body : Body} {check : Env → Option Trap} {f : Env → Op → Op} {s : State} {e : Env}
    (h : envOf s fn body = some e) (ha : e.issuable = true) (ht : e.trap = none) (hs : s.bad = none)
    (hl : e.act ≠ 0) (hc : check e = none) :
    runVariable fn body check f s = .next (e.launchOp e.issued .go (f e)) := by
  unfold runVariable
  rw [runWord_issues h ha ht, whenActive_on hl]
  simp [hc, done, envOf_s h, hs]

@[simp] theorem setSc_bad (s : State) (g k : Nat) (x : SCore) : (s.setSc g k x).bad = s.bad := rfl

theorem senvOf_s {s : State} {f : Fn} {b : Body} {e : SEnv} (h : senvOf s f b = some e) : e.s = s := by
  unfold senvOf at h
  split at h
  · cases h; rfl
  · cases h

theorem senvOf_onStack {s : State} {f : Fn} {b : Body} {e : SEnv} (h : senvOf s f b = some e) : onStack s = true := by
  unfold senvOf at h
  unfold onStack
  cases ha : s.actor <;> simp [ha] at h ⊢

/-- A word of the stack profile that issues has its meaning on the stack core at the next word. -/
theorem runStackWhen_issues {fn : Fn} {body : Body} {cond : SEnv → Bool} {k : SEnv → SCore → Except Nat State} {s : State}
    {e : SEnv} (h : senvOf s fn body = some e) (ha : e.issuable = true) (ht : e.trap = none) (hl : e.act = true)
    (hc : cond e = true) :
    runStackWhen fn body cond k s = match k e e.issued with
      | .error st => done (s.setSc e.g e.k (e.sc.finish st e.sc.pc 0))
      | .ok s' => done s' := by
  unfold runStackWhen
  rw [h]
  cases hk : k e e.issued <;> simp [ha, ht, hl, hc, hk]

theorem runStackCore_issues {fn : Fn} {body : Body} {k : SEnv → SCore → Except Nat SCore} {s : State}
    {e : SEnv} (h : senvOf s fn body = some e) (ha : e.issuable = true) (ht : e.trap = none) (hs : s.bad = none)
    (hl : e.act = true) {y : SCore} (hk : k e e.issued = .ok y) :
    runStackCore fn body k s = .next (s.setSc e.g e.k y) := by
  unfold runStackCore runStack
  rw [runStackWhen_issues h ha ht hl rfl]
  simp [hk, done, hs]

end Sys2Proof.Machine
end

