-- ==== Sys2Proof/Laws/Memory.lean ====
section
/-! SUPPORT. Every memory operation keeps the canonical form of every memory (Memory.wf), and reset has it; a write is read back,
and leaves every other byte alone. -/

namespace Sys2Proof.Machine

theorem Memory.wf_iff (s : State) : Memory.wf s = true ↔
    s.hbm.wf 0 = true ∧ s.host.wf 0 = true ∧ s.mods.wf 0 = true ∧ s.ws.wf 0 = true ∧
      (∀ e ∈ s.cores, e.2.memWf = true) ∧ ∀ e ∈ s.scores, e.2.memWf = true := by
  simp [Memory.wf, List.all_eq_true, and_assoc]

theorem Memory.wf_reset : Memory.wf State.reset = true := rfl

/-- Two packages with the same memories are canonical together. -/
theorem Memory.wf_congr {s t : State} (h1 : t.hbm = s.hbm) (h2 : t.host = s.host) (h3 : t.mods = s.mods) (h4 : t.ws = s.ws)
    (h5 : t.cores = s.cores) (h6 : t.scores = s.scores) : Memory.wf t = Memory.wf s := by
  simp [Memory.wf, h1, h2, h3, h4, h5, h6]

theorem FMap.mem_put {α : Type} [DecidableEq α] {m : FMap α} {k : Nat} {x d : α} {e : Nat × α} (h : e ∈ m.put k x d) :
    e = (k, x) ∨ e ∈ m := by
  unfold FMap.put at h
  split at h
  · exact .inr (FMap.mem_del h)
  · rcases FMap.mem_ins h with h | h
    · exact .inl h
    · exact .inr (FMap.mem_del h)

theorem FMap.find_mem {α : Type} {m : FMap α} {k : Nat} {x : α} (h : m.find k = some x) : (k, x) ∈ m := by
  induction m with
  | nil => simp [FMap.find] at h
  | cons p m ih =>
    obtain ⟨i, y⟩ := p
    unfold FMap.find at h
    split at h
    · simp_all
    · exact List.mem_cons_of_mem _ (ih h)

theorem FMap.get_cases {α : Type} (m : FMap α) (k : Nat) (d : α) : m.get k d = d ∨ (k, m.get k d) ∈ m := by
  unfold FMap.get
  cases h : m.find k with
  | none => exact .inl rfl
  | some x => exact .inr (FMap.find_mem h)

/-- The memories of any core are canonical. -/
theorem Memory.wf_core {s : State} (h : Memory.wf s = true) (c : Nat) : (s.core c).memWf = true := by
  have h5 := ((Memory.wf_iff s).1 h).2.2.2.2.1
  rcases FMap.get_cases s.cores c {} with e | e
  · unfold State.core; rw [e]; rfl
  · exact h5 _ e

theorem Memory.wf_sc {s : State} (h : Memory.wf s = true) (g k : Nat) : (s.sc g k).memWf = true := by
  have h6 := ((Memory.wf_iff s).1 h).2.2.2.2.2
  rcases FMap.get_cases s.scores (scKey g k) {} with e | e
  · unfold State.sc; rw [e]; rfl
  · exact h6 _ e

theorem Memory.wf_setCore {s : State} {c : Nat} {k : Core} (h : Memory.wf s = true) (hk : k.memWf = true) :
    Memory.wf (s.setCore c k) = true := by
  rw [Memory.wf_iff] at *
  refine ⟨h.1, h.2.1, h.2.2.1, h.2.2.2.1, fun e he => ?_, h.2.2.2.2.2⟩
  rcases FMap.mem_put he with rfl | he
  · exact hk
  · exact h.2.2.2.2.1 e he

/-- A change of a core that leaves its memories canonical. -/
theorem Memory.wf_onCore {s : State} {c : Nat} {f : Core → Core} (h : Memory.wf s = true)
    (hf : ∀ k : Core, k.memWf = true → (f k).memWf = true) : Memory.wf (s.onCore c f) = true :=
  Memory.wf_setCore h (hf _ (Memory.wf_core h c))

theorem Memory.wf_onWarp {s : State} {c w : Nat} {f : Warp → Warp} (h : Memory.wf s = true) :
    Memory.wf (s.onWarp c w f) = true :=
  Memory.wf_onCore h (fun _ hk => hk)

theorem Memory.wf_setSc {s : State} {g k : Nat} {x : SCore} (h : Memory.wf s = true) (hx : x.memWf = true) :
    Memory.wf (s.setSc g k x) = true := by
  rw [Memory.wf_iff] at *
  refine ⟨h.1, h.2.1, h.2.2.1, h.2.2.2.1, h.2.2.2.2.1, fun e he => ?_⟩
  rcases FMap.mem_put he with rfl | he
  · exact hx
  · exact h.2.2.2.2.2 e he

theorem Memory.wf_onSc {s : State} {g k : Nat} {f : SCore → SCore} (h : Memory.wf s = true)
    (hf : ∀ x : SCore, x.memWf = true → (f x).memWf = true) : Memory.wf (s.onSc g k f) = true :=
  Memory.wf_setSc h (hf _ (Memory.wf_sc h g k))

/-! HBM, host memory and modules. -/

@[simp] theorem State.guardHbm_hbm (s : State) (pa n : Nat) : (s.guardHbm pa n).hbm = s.hbm := by
  unfold State.guardHbm; split <;> rfl

theorem Memory.wf_guardHbm (s : State) (pa n : Nat) : Memory.wf (s.guardHbm pa n) = Memory.wf s := by
  unfold State.guardHbm; split <;> rfl

/-- A loop of changes that each keep the memories canonical. -/
theorem Memory.wf_foldl {α : Type} {f : State → α → State} (hf : ∀ s x, Memory.wf s = true → Memory.wf (f s x) = true)
    (xs : List α) : ∀ s, Memory.wf s = true → Memory.wf (xs.foldl f s) = true := by
  induction xs with
  | nil => exact fun _ h => h
  | cons x xs ih => exact fun s h => ih _ (hf s x h)

theorem Memory.wf_putHbm {s : State} (h : Memory.wf s = true) (pa : Nat) (bs : List Byte) :
    Memory.wf { s with hbm := s.hbm.putBytes pa bs } = true := by
  rw [Memory.wf_iff] at *
  exact ⟨FMap.wf_putBytes _ _ h.1, h.2⟩

theorem Memory.wf_flushSector {s : State} (h : Memory.wf s = true) (sec : Nat) (x : HeldSector) :
    Memory.wf (s.flushSector sec x) = true := by
  unfold State.flushSector
  split
  · exact Memory.wf_putHbm h _ _
  · exact h

theorem Memory.wf_evictSector {s : State} (h : Memory.wf s = true) (slice sec : Nat) :
    Memory.wf (s.evictSector slice sec) = true := by
  unfold State.evictSector
  have key : ∀ t : State, Memory.wf t = true → Memory.wf (if home (64 * sec) = slice then { t with l2 := t.l2.del sec } else t) = true :=
    fun t ht => by split <;> exact ht
  refine key _ ?_
  split
  · rename_i x _
    exact Memory.wf_flushSector h sec x
  · exact h

theorem Memory.wf_evictLine {s : State} (h : Memory.wf s = true) (slice line : Nat) :
    Memory.wf (s.evictLine slice line) = true :=
  Memory.wf_foldl (f := fun s i => s.evictSector slice (4 * line + i)) (fun _ _ h => Memory.wf_evictSector h _ _) _ _ h

theorem Memory.wf_room {s : State} (h : Memory.wf s = true) (slice line : Nat) : Memory.wf (s.room slice line) = true := by
  unfold State.room
  dsimp only
  split
  · exact h
  · split
    · exact Memory.wf_evictLine (s := { s with fresh := s.fresh + 1 }) h _ _
    · exact h

theorem Memory.wf_setL2 {s : State} (h : Memory.wf s = true) (sec : Nat) (x : L2Sector) : Memory.wf (s.setL2 sec x) = true := by
  unfold State.setL2
  dsimp only
  split
  · exact h
  · exact Memory.wf_room h (home (64 * sec)) (sec / 4)

theorem Memory.wf_makeM {s : State} (h : Memory.wf s = true) (sec : Nat) (old : List Byte) :
    Memory.wf (s.makeM sec old) = true :=
  Memory.wf_setL2 h sec _

theorem Memory.wf_onRels {s : State} (h : Memory.wf s = true) (pa n : Nat) (f : RelSet → RelSet) :
    Memory.wf (s.onRels pa n f) = true := h

/-- Releases dropped where there are any. -/
theorem Memory.wf_ifRels {s : State} (h : Memory.wf s = true) (pa n : Nat) (f : RelSet → RelSet) :
    Memory.wf (if s.rels.isEmpty then s else s.onRels pa n f) = true := by
  split
  · exact h
  · exact Memory.wf_onRels h pa n f

theorem Memory.wf_writeHbm {s : State} (h : Memory.wf s = true) (pa : Nat) (bs : List Byte) :
    Memory.wf (s.writeHbm pa bs) = true := by
  unfold State.writeHbm
  exact Memory.wf_putHbm (Memory.wf_ifRels (Memory.wf_foldl (fun _ _ h => Memory.wf_makeM h _ _) _ _
    ((Memory.wf_guardHbm s pa bs.length).trans h)) _ _ _) _ _

theorem Memory.wf_dropSector (s : State) (sec : Nat) : Memory.wf (s.dropSector sec) = Memory.wf s := rfl

theorem Memory.wf_fetchHome {s : State} (h : Memory.wf s = true) (sec : Nat) (st : L2State) :
    Memory.wf (s.fetchHome sec st) = true := by
  unfold State.fetchHome
  split
  · exact Memory.wf_setL2 h _ _
  · exact h

theorem Memory.wf_setCopies {s : State} (h : Memory.wf s = true) (m : FMap Bool) : Memory.wf { s with copies := m } = true := h

theorem Memory.wf_fetchClean {s : State} (h : Memory.wf s = true) (slice sec : Nat) (st : L2State) :
    Memory.wf (s.fetchClean slice sec st) = true := by
  have h1 := Memory.wf_fetchHome h sec st
  unfold State.fetchClean
  dsimp only
  split
  · exact h1
  · exact Memory.wf_setCopies (Memory.wf_room h1 slice (sec / 4)) _

theorem Memory.wf_fetchL2 {s : State} (h : Memory.wf s = true) (c leaf : Nat) (p : Place) :
    Memory.wf (s.fetchL2 c leaf p) = true := by
  unfold State.fetchL2
  split
  · exact h
  · split
    · split
      · exact h
      · exact Memory.wf_room h _ _
    · exact Memory.wf_fetchClean h _ _ _
    · exact Memory.wf_fetchClean h _ _ _

theorem Memory.wf_markStrm {s : State} (h : Memory.wf s = true) (c cp : Nat) (p : Place) :
    Memory.wf (s.markStrm c cp p) = true := by
  unfold State.markStrm
  split <;> exact h

/-! Modules. -/

theorem Memory.wf_recall {s : State} (h : Memory.wf s = true) (m off n : Nat) : Memory.wf (s.recall m off n) = true := h

theorem Memory.wf_setMod {s : State} (h : Memory.wf s = true) (m off : Nat) (bs : List Byte) :
    Memory.wf (s.setMod m off bs) = true := by
  rw [Memory.wf_iff] at *
  exact ⟨h.1, h.2.1, FMap.wf_putBytes _ _ h.2.2.1, h.2.2.2⟩

theorem Memory.wf_setModNum {s : State} (h : Memory.wf s = true) (m off n v : Nat) :
    Memory.wf (s.setModNum m off n v) = true := Memory.wf_setMod h _ _ _

theorem Memory.wf_contribute {s : State} (h : Memory.wf s = true) (m base o : Nat) (bs : List Byte) :
    Memory.wf (s.contribute m base o bs) = true := by
  unfold State.contribute
  exact Memory.wf_foldl (fun _ _ h => Memory.wf_setModNum h _ _ _ _) _ _ h

theorem Memory.wf_arrival {s : State} (h : Memory.wf s = true) (m base seq gen : Nat) (ovf : Bool) :
    Memory.wf (s.arrival m base seq gen ovf) = true := by
  unfold State.arrival
  dsimp only
  split
  · exact Memory.wf_setModNum h _ _ _ _
  · exact h

theorem Memory.wf_armLine {s t : State} (h : Memory.wf s = true) {m base o : Nat} {bs : List Byte}
    (ht : s.armLine m base o bs = some t) : Memory.wf t = true := by
  unfold State.armLine at ht
  dsimp only at ht
  split at ht
  · cases ht
  · split at ht
    · split at ht <;> cases ht
      exact Memory.wf_setMod (Memory.wf_setModNum (Memory.wf_setMod h _ _ _) _ _ _ _) _ _ _
    · cases ht
      exact Memory.wf_setModNum (Memory.wf_setMod h _ _ _) _ _ _ _

/-- A write that a module takes. -/
theorem Memory.wf_moduleStore {s t : State} (h : Memory.wf s = true) {m off : Nat} {bs : List Byte}
    (ht : s.moduleStore m off bs = some t) : Memory.wf t = true := by
  unfold State.moduleStore at ht
  split at ht
  · cases ht
  · cases ht
  · cases ht; exact Memory.wf_setMod h _ _ _
  · cases ht; exact Memory.wf_setMod h _ _ _
  · split at ht
    · cases ht; exact Memory.wf_setMod h _ _ _
    · dsimp only at ht
      split at ht <;> cases ht
      exact Memory.wf_setMod h _ _ _
  · split at ht
    · split at ht <;> cases ht
      · exact Memory.wf_contribute h _ _ _ _
      · exact h
    · split at ht
      · cases ht; exact Memory.wf_arrival h _ _ _ _ _
      · split at ht
        · exact Memory.wf_armLine h ht
        · cases ht; exact Memory.wf_setMod h _ _ _

theorem Memory.wf_moduleLines {m : Nat} (xs : List (Nat × List Byte)) {s t : State} (h : Memory.wf s = true)
    (ht : s.moduleLines m xs = some t) : Memory.wf t = true := by
  induction xs generalizing s with
  | nil => cases ht; exact h
  | cons x xs ih =>
    unfold State.moduleLines at ht
    split at ht
    · cases ht
    · rename_i u hu
      refine ih ?_ ht
      have := Memory.wf_moduleStore h hu
      split <;> exact this

/-- Whatever a command does to a module keeps the memories canonical. -/
theorem Memory.wf_perform {s : State} (h : Memory.wf s = true) (m : Nat) (x : Command) :
    Memory.wf (s.perform m x).2 = true := by
  unfold State.perform
  split
  · unfold State.qpush
    split
    · exact h
    · split
      · exact h
      · split
        · exact h
        · exact Memory.wf_setModNum (Memory.wf_setMod h _ _ _) _ _ _ _
  · split
    · unfold State.qpop
      split
      · exact h
      · split
        · exact h
        · split
          · exact h
          · split
            · exact h
            · exact Memory.wf_setModNum h _ _ _ _
    · unfold State.modCommand
      split
      · split
        · exact h
        · exact Memory.wf_setModNum h _ _ _ _
      · exact h

theorem Memory.wf_atPort {s : State} (h : Memory.wf s = true) (m k : Nat) (x : Command) :
    Memory.wf (s.atPort m k x).2 = true := by
  unfold State.atPort
  exact Memory.wf_recall (Memory.wf_recall (Memory.wf_setMod (Memory.wf_perform
    (Memory.wf_setMod (s := { s with fresh := s.fresh + 2 }) h _ _ _) _ _) _ _ _) _ _ _) _ _ _

theorem Memory.wf_courier {s : State} (h : Memory.wf s = true) (agent op sm st m off : Nat) :
    Memory.wf (s.courier agent op sm st m off).2 = true := by
  unfold State.courier
  split
  · split
    · exact Memory.wf_setMod h _ _ _
    · exact h
  · split
    · rename_i e
      exact Memory.wf_moduleLines _ h e
    · exact h
  · exact Memory.wf_setMod (Memory.wf_atPort h _ _ _) _ _ _
  · split
    · split
      · rename_i e
        exact Memory.wf_arrival (Memory.wf_moduleLines _ h e) _ _ _ _ _
      · exact h
    · exact h
  · exact h

theorem Memory.wf_hop {s : State} (h : Memory.wf s = true) (c op m off : Nat) (staged : List Byte) :
    Memory.wf (s.hop c op m off staged).2 = true := by
  unfold State.hop
  split
  · exact h
  · dsimp only
    refine Memory.wf_atPort (Memory.wf_atPort ?_ _ _ _) _ _ _
    refine Memory.wf_courier (Memory.wf_atPort (Memory.wf_atPort ?_ _ _ _) _ _ _) _ _ _ _ _ _
    exact Memory.wf_setMod (s := { s with fresh := s.fresh + 2 }) h _ _ _

theorem Memory.wf_command {s : State} (h : Memory.wf s = true) (m : Nat) (via : Option Nat) (x : Command) :
    Memory.wf (s.command m via x).2 = true := by
  unfold State.command
  split
  · exact Memory.wf_hop (s := { s with fresh := s.fresh + 1 }) h _ _ _ _ _
  · exact Memory.wf_atPort h _ _ _

theorem Memory.wf_hopLines {s : State} (h : Memory.wf s = true) (c m : Nat) (xs : List (Nat × List Byte)) :
    Memory.wf (s.hopLines c m xs) = true := by
  unfold State.hopLines
  refine Memory.wf_foldl (fun t x ht => ?_) _ _ h
  refine Memory.wf_hop ?_ _ _ _ _ _
  split
  · exact ht
  · exact Memory.wf_hop ht _ _ _ _ _

theorem Memory.wf_reachWrite {s t : State} (h : Memory.wf s = true) {m off : Nat} {via : Option Nat} {bs : List Byte}
    (ht : s.reachWrite m via off bs = some t) : Memory.wf t = true := by
  unfold State.reachWrite at ht
  split at ht
  · dsimp only at ht
    split at ht <;> cases ht
    exact Memory.wf_hopLines h _ _ _
  · exact Memory.wf_moduleLines _ h ht

theorem Memory.wf_reachRead {s : State} (h : Memory.wf s = true) (m : Nat) (via : Option Nat) (off n : Nat) :
    Memory.wf (s.reachRead m via off n) = true := by
  unfold State.reachRead
  split
  · exact Memory.wf_foldl (fun _ _ h => Memory.wf_hop h _ _ _ _ _) _ _ h
  · exact h

theorem Memory.wf_writeMod {s : State} (h : Memory.wf s = true) (m off : Nat) (bs : List Byte) (via : Option Nat) :
    Memory.wf (s.writeMod m off bs via) = true := by
  unfold State.writeMod
  split
  · exact h
  · rename_i t ht
    have := Memory.wf_reachWrite h ht
    split
    · exact Memory.wf_foldl (fun _ _ h => Memory.wf_makeM h _ _) _ _ this
    · exact this

/-! Every tier. -/

/-- A write at the point of coherence of any tier. -/
theorem Memory.wf_writePlace {s : State} (h : Memory.wf s = true) (held : Option (Nat × Nat)) (p : Place) (bs : List Byte) :
    Memory.wf (s.writePlace held p bs) = true := by
  unfold State.writePlace
  split
  · split
    · rename_i pa _ cl rgn
      exact Memory.wf_ifRels (Memory.wf_room ((Memory.wf_guardHbm s pa bs.length).trans h) cl (pa / 64 / 4)) pa bs.length
        (fun r => { r with own := [] })
    · exact Memory.wf_writeHbm h _ _
  · rw [Memory.wf_iff] at *
    exact ⟨h.1, FMap.wf_putBytes _ _ h.2.1, h.2.2⟩
  · exact Memory.wf_writeMod h _ _ _ _

theorem Memory.wf_loadAt {s : State} (h : Memory.wf s = true) (c cp leaf : Nat) (p : Place) (n : Nat) :
    Memory.wf (s.loadAt c cp leaf p n).2 = true := by
  unfold State.loadAt
  dsimp only
  split
  · rename_i pa
    have hg : Memory.wf (s.guardHbm pa n) = true := (Memory.wf_guardHbm s pa n).trans h
    have hg' : Memory.wf { s.guardHbm pa n with fresh := (s.guardHbm pa n).fresh + 1 } = true := hg
    split
    · split
      · split
        · exact hg'
        · exact Memory.wf_onCore (Memory.wf_fetchL2 hg' _ _ _) (fun _ hk => hk)
      · exact Memory.wf_onCore (Memory.wf_fetchL2 hg _ _ _) (fun _ hk => hk)
    · exact Memory.wf_markStrm (Memory.wf_fetchL2 hg _ _ _) _ _ _
  · exact Memory.wf_markStrm (Memory.wf_fetchL2 (Memory.wf_reachRead h _ _ _ _) _ _ _) _ _ _
  · exact h

theorem Memory.wf_storeAt {s : State} (h : Memory.wf s = true) (c cp leaf : Nat) (p : Place) (bs : List Byte) :
    Memory.wf (s.storeAt c cp leaf p bs) = true := by
  have hw := Memory.wf_markStrm (Memory.wf_writePlace h (s.heldBy c leaf) p bs) c cp p
  unfold State.storeAt
  dsimp only
  split
  · split
    · exact Memory.wf_onCore hw (fun k hk => by split <;> exact hk)
    · exact Memory.wf_onCore hw (fun _ hk => hk)
  · exact hw

theorem Memory.wf_writeVa {s t : State} (h : Memory.wf s = true) {asid va : Nat} {ho : Bool} {bs : List Byte}
    (ht : s.writeVa asid va ho bs = some t) : Memory.wf t = true := by
  induction bs generalizing s va with
  | nil => simp only [State.writeVa, Option.some.injEq] at ht; exact ht ▸ h
  | cons b bs ih =>
    unfold State.writeVa at ht
    split at ht
    · split at ht
      · exact ih (Memory.wf_writePlace h _ _ _) ht
      · simp at ht
    · simp at ht

/-! The memories of cores. -/

theorem Core.memWf_scratch {k : Core} (h : k.memWf = true) (a : Nat) (bs : List Byte) :
    ({ k with scratch := k.scratch.putBytes a bs } : Core).memWf = true := by
  simp only [Core.memWf, Bool.and_eq_true] at *
  exact ⟨⟨FMap.wf_putBytes _ _ h.1.1, h.1.2⟩, h.2⟩

theorem Core.memWf_wbuf {k : Core} (h : k.memWf = true) (a : Nat) (bs : List Byte) :
    ({ k with wbuf := k.wbuf.putBytes a bs } : Core).memWf = true := by
  simp only [Core.memWf, Bool.and_eq_true] at *
  exact ⟨⟨h.1.1, FMap.wf_putBytes _ _ h.1.2⟩, h.2⟩

theorem Core.memWf_shapes {k : Core} (h : k.memWf = true) (a : Nat) (bs : List Byte) :
    ({ k with shapes := k.shapes.putBytes a bs } : Core).memWf = true := by
  simp only [Core.memWf, Bool.and_eq_true] at *
  exact ⟨h.1, FMap.wf_putBytes _ _ h.2⟩

/-- A result that lands keeps the memories of its core canonical. -/
theorem Core.memWf_land {k : Core} (h : k.memWf = true) (x : Wr) : (k.land x).memWf = true := by
  cases x <;> simp only [Core.land]
  case v => split <;> exact h
  case sh => exact Core.memWf_shapes h _ _
  case sys =>
    split
    · exact h
    · split <;> exact h
  all_goals exact h

theorem SCore.memWf_scratch {x : SCore} (h : x.memWf = true) (a : Nat) (bs : List Byte) :
    ({ x with scratch := x.scratch.putBytes a bs } : SCore).memWf = true := by
  simp only [SCore.memWf, Bool.and_eq_true] at *
  exact ⟨FMap.wf_putBytes _ _ h.1, h.2⟩

theorem SCore.memWf_imem {x : SCore} (h : x.memWf = true) (a : Nat) (bs : List Byte) :
    ({ x with imem := x.imem.putBytes a bs } : SCore).memWf = true := by
  simp only [SCore.memWf, Bool.and_eq_true] at *
  exact ⟨h.1, FMap.wf_putBytes _ _ h.2⟩

/-! What a write of HBM leaves. -/

/-- No sector of a held region is M: no slice holds bytes newer than HBM. -/
def State.noHeldM (s : State) : Prop := ∀ k x, s.heldBytes.find k = some x → x.m = false

/-- The package as it was for HBM and the bytes of held regions: HBM stands, and no sector of a held region is newer. -/
def State.sameHbm (s t : State) : Prop := t.hbm = s.hbm ∧ t.noHeldM

theorem State.sameHbm_evictSector {s t : State} (h : s.sameHbm t) (slice sec : Nat) : s.sameHbm (t.evictSector slice sec) := by
  have key : ∀ u : State, s.sameHbm u → s.sameHbm (if home (64 * sec) = slice then { u with l2 := u.l2.del sec } else u) :=
    fun u hu => by split <;> exact hu
  unfold State.evictSector
  refine key _ ?_
  split
  · rename_i x hx
    have : t.flushSector sec x = t := by simp [State.flushSector, h.2 _ _ hx]
    refine ⟨by rw [this]; exact h.1, fun k y hy => ?_⟩
    rw [this] at hy
    have hd : (t.heldBytes.del (heldKey slice sec)).find k = some y := hy
    rw [FMap.find_del] at hd
    split at hd
    · cases hd
    · exact h.2 k y hd
  · exact h

theorem State.sameHbm_foldl {α : Type} {s : State} {f : State → α → State} (hf : ∀ t x, s.sameHbm t → s.sameHbm (f t x))
    (xs : List α) : ∀ t, s.sameHbm t → s.sameHbm (xs.foldl f t) := by
  induction xs with
  | nil => exact fun _ h => h
  | cons x xs ih => exact fun t h => ih _ (hf t x h)

theorem State.sameHbm_evictLine {s t : State} (h : s.sameHbm t) (slice line : Nat) : s.sameHbm (t.evictLine slice line) :=
  State.sameHbm_foldl (f := fun t i => t.evictSector slice (4 * line + i)) (fun _ _ h => State.sameHbm_evictSector h _ _)
    (List.range 4) t h

/-- Replacement with no newer sector of a held region leaves HBM as it is. -/
theorem State.sameHbm_room {s t : State} (h : s.sameHbm t) (slice line : Nat) : s.sameHbm (t.room slice line) := by
  unfold State.room
  dsimp only
  split
  · exact h
  · split
    · exact State.sameHbm_evictLine (t := { t with fresh := t.fresh + 1 }) h _ _
    · exact h

theorem State.sameHbm_makeM {s t : State} (h : s.sameHbm t) (sec : Nat) (old : List Byte) : s.sameHbm (t.makeM sec old) := by
  unfold State.makeM State.setL2
  dsimp only
  split
  · exact h
  · exact State.sameHbm_room h (home (64 * sec)) (sec / 4)

/-- HBM reads back what is written to it. -/
theorem State.writeHbm_read (s : State) (pa : Nat) (bs : List Byte) : (s.writeHbm pa bs).hbmBytes pa bs.length = bs := by
  unfold State.writeHbm State.hbmBytes
  exact FMap.getBytes_putBytes _ _ _

/-- Where no slice holds bytes newer than HBM, a write changes the bytes it writes and no other: its room in a full slice writes
nothing back. -/
theorem State.writeHbm_other (s : State) (pa b n : Nat) (bs : List Byte) (hm : s.noHeldM) (h : b + n ≤ pa ∨ pa + bs.length ≤ b) :
    (s.writeHbm pa bs).hbmBytes b n = s.hbmBytes b n := by
  have h0 : s.sameHbm (s.guardHbm pa bs.length) := by unfold State.guardHbm; split <;> exact ⟨rfl, hm⟩
  have h1 := State.sameHbm_foldl (f := fun t sec => t.makeM sec (t.hbmBytes (64 * sec) 64))
    (fun _ _ h => State.sameHbm_makeM h _ _) (sectorsOf pa bs.length) _ h0
  have key : ∀ t : State, s.sameHbm t → ∀ f : RelSet → RelSet,
      ((if t.rels.isEmpty then t else t.onRels pa bs.length f).hbm.putBytes pa bs).getBytes b n = s.hbm.getBytes b n := by
    intro t ht f
    rw [FMap.getBytes_putBytes_ne _ _ _ _ _ h]
    split <;> rw [← ht.1] <;> rfl
  exact key _ h1 _

end Sys2Proof.Machine
end

