-- ==== Sys2Proof/Laws/PerInstr.lean ====
section
/-! SUPPORT. A family of statements with one lemma for each instruction: the opcode class and function that the decoder reads from
an instruction's word are the instruction's own, so the word decodes to no other instruction (R36, R57). The machine's own events
have no word. -/

namespace Sys2Proof.Laws.Encoding

/-- Every word of a well-formed instruction reads back as the instruction, with every field as it was. -/
def Statement (i : Instr) : Prop :=
  ∀ (st : Machine.Stream) (x : BitVec 96), wellFormed st i = true → encode i = some x → rawDecode x = some i

theorem nop (w : RWord) : Statement (.nop w) := by
  intro st x _ h
  cases h
  unfold rawDecode
  rw [class_packR, fn_packR, rOf_packR]
  rfl

theorem bra (w : IWord) : Statement (.bra w) := by
  intro st x _ h
  cases h
  unfold rawDecode
  rw [class_packI, fn_packI, iOf_packI]
  rfl

theorem brx (w : RWord) : Statement (.brx w) := by
  intro st x _ h
  cases h
  unfold rawDecode
  rw [class_packR, fn_packR, rOf_packR]
  rfl

theorem bru (w : IWord) : Statement (.bru w) := by
  intro st x _ h
  cases h
  unfold rawDecode
  rw [class_packI, fn_packI, iOf_packI]
  rfl

theorem call (w : IWord) : Statement (.call w) := by
  intro st x _ h
  cases h
  unfold rawDecode
  rw [class_packI, fn_packI, iOf_packI]
  rfl

theorem callx (w : RWord) : Statement (.callx w) := by
  intro st x _ h
  cases h
  unfold rawDecode
  rw [class_packR, fn_packR, rOf_packR]
  rfl

theorem ret (w : RWord) : Statement (.ret w) := by
  intro st x _ h
  cases h
  unfold rawDecode
  rw [class_packR, fn_packR, rOf_packR]
  rfl

theorem exit (w : RWord) : Statement (.exit w) := by
  intro st x _ h
  cases h
  unfold rawDecode
  rw [class_packR, fn_packR, rOf_packR]
  rfl

theorem merge (w : RWord) : Statement (.merge w) := by
  intro st x _ h
  cases h
  unfold rawDecode
  rw [class_packR, fn_packR, rOf_packR]
  rfl

theorem mergeStep (core warp : Nat) : Statement (.mergeStep core warp) := by
  intro st x _ h
  cases h

theorem loop (w : IWord) : Statement (.loop w) := by
  intro st x _ h
  cases h
  unfold rawDecode
  rw [class_packI, fn_packI, iOf_packI]
  rfl

theorem yield (w : RWord) : Statement (.yield w) := by
  intro st x _ h
  cases h
  unfold rawDecode
  rw [class_packR, fn_packR, rOf_packR]
  rfl

theorem pushp (w : RWord) : Statement (.pushp w) := by
  intro st x _ h
  cases h
  unfold rawDecode
  rw [class_packR, fn_packR, rOf_packR]
  rfl

theorem invp (w : RWord) : Statement (.invp w) := by
  intro st x _ h
  cases h
  unfold rawDecode
  rw [class_packR, fn_packR, rOf_packR]
  rfl

theorem popp (w : RWord) : Statement (.popp w) := by
  intro st x _ h
  cases h
  unfold rawDecode
  rw [class_packR, fn_packR, rOf_packR]
  rfl

theorem pand (w : RWord) : Statement (.pand w) := by
  intro st x _ h
  cases h
  unfold rawDecode
  rw [class_packR, fn_packR, rOf_packR]
  rfl

theorem por (w : RWord) : Statement (.por w) := by
  intro st x _ h
  cases h
  unfold rawDecode
  rw [class_packR, fn_packR, rOf_packR]
  rfl

theorem pxor (w : RWord) : Statement (.pxor w) := by
  intro st x _ h
  cases h
  unfold rawDecode
  rw [class_packR, fn_packR, rOf_packR]
  rfl

theorem pnot (w : RWord) : Statement (.pnot w) := by
  intro st x _ h
  cases h
  unfold rawDecode
  rw [class_packR, fn_packR, rOf_packR]
  rfl

theorem pmov (w : RWord) : Statement (.pmov w) := by
  intro st x _ h
  cases h
  unfold rawDecode
  rw [class_packR, fn_packR, rOf_packR]
  rfl

theorem p2v (w : RWord) : Statement (.p2v w) := by
  intro st x _ h
  cases h
  unfold rawDecode
  rw [class_packR, fn_packR, rOf_packR]
  rfl

theorem v2p (w : RWord) : Statement (.v2p w) := by
  intro st x _ h
  cases h
  unfold rawDecode
  rw [class_packR, fn_packR, rOf_packR]
  rfl

theorem vote (w : RWord) : Statement (.vote w) := by
  intro st x _ h
  cases h
  unfold rawDecode
  rw [class_packR, fn_packR, rOf_packR]
  rfl

theorem iadd (w : RWord) : Statement (.iadd w) := by
  intro st x _ h
  cases h
  unfold rawDecode
  rw [class_packR, fn_packR, rOf_packR]
  rfl

theorem iaddImm (w : IWord) : Statement (.iaddImm w) := by
  intro st x _ h
  cases h
  unfold rawDecode
  rw [class_packI, fn_packI, iOf_packI]
  rfl

theorem isub (w : RWord) : Statement (.isub w) := by
  intro st x _ h
  cases h
  unfold rawDecode
  rw [class_packR, fn_packR, rOf_packR]
  rfl

theorem imul (w : RWord) : Statement (.imul w) := by
  intro st x _ h
  cases h
  unfold rawDecode
  rw [class_packR, fn_packR, rOf_packR]
  rfl

theorem imulImm (w : IWord) : Statement (.imulImm w) := by
  intro st x _ h
  cases h
  unfold rawDecode
  rw [class_packI, fn_packI, iOf_packI]
  rfl

theorem imad (w : RWord) : Statement (.imad w) := by
  intro st x _ h
  cases h
  unfold rawDecode
  rw [class_packR, fn_packR, rOf_packR]
  rfl

theorem imulhi (w : RWord) : Statement (.imulhi w) := by
  intro st x _ h
  cases h
  unfold rawDecode
  rw [class_packR, fn_packR, rOf_packR]
  rfl

theorem imin (w : RWord) : Statement (.imin w) := by
  intro st x _ h
  cases h
  unfold rawDecode
  rw [class_packR, fn_packR, rOf_packR]
  rfl

theorem imax (w : RWord) : Statement (.imax w) := by
  intro st x _ h
  cases h
  unfold rawDecode
  rw [class_packR, fn_packR, rOf_packR]
  rfl

theorem iabs (w : RWord) : Statement (.iabs w) := by
  intro st x _ h
  cases h
  unfold rawDecode
  rw [class_packR, fn_packR, rOf_packR]
  rfl

theorem ineg (w : RWord) : Statement (.ineg w) := by
  intro st x _ h
  cases h
  unfold rawDecode
  rw [class_packR, fn_packR, rOf_packR]
  rfl

theorem andB (w : RWord) : Statement (.andB w) := by
  intro st x _ h
  cases h
  unfold rawDecode
  rw [class_packR, fn_packR, rOf_packR]
  rfl

theorem andImm (w : IWord) : Statement (.andImm w) := by
  intro st x _ h
  cases h
  unfold rawDecode
  rw [class_packI, fn_packI, iOf_packI]
  rfl

theorem orB (w : RWord) : Statement (.orB w) := by
  intro st x _ h
  cases h
  unfold rawDecode
  rw [class_packR, fn_packR, rOf_packR]
  rfl

theorem orImm (w : IWord) : Statement (.orImm w) := by
  intro st x _ h
  cases h
  unfold rawDecode
  rw [class_packI, fn_packI, iOf_packI]
  rfl

theorem xorB (w : RWord) : Statement (.xorB w) := by
  intro st x _ h
  cases h
  unfold rawDecode
  rw [class_packR, fn_packR, rOf_packR]
  rfl

theorem xorImm (w : IWord) : Statement (.xorImm w) := by
  intro st x _ h
  cases h
  unfold rawDecode
  rw [class_packI, fn_packI, iOf_packI]
  rfl

theorem notB (w : RWord) : Statement (.notB w) := by
  intro st x _ h
  cases h
  unfold rawDecode
  rw [class_packR, fn_packR, rOf_packR]
  rfl

theorem shl (w : RWord) : Statement (.shl w) := by
  intro st x _ h
  cases h
  unfold rawDecode
  rw [class_packR, fn_packR, rOf_packR]
  rfl

theorem shlImm (w : IWord) : Statement (.shlImm w) := by
  intro st x _ h
  cases h
  unfold rawDecode
  rw [class_packI, fn_packI, iOf_packI]
  rfl

theorem shr (w : RWord) : Statement (.shr w) := by
  intro st x _ h
  cases h
  unfold rawDecode
  rw [class_packR, fn_packR, rOf_packR]
  rfl

theorem shrImm (w : IWord) : Statement (.shrImm w) := by
  intro st x _ h
  cases h
  unfold rawDecode
  rw [class_packI, fn_packI, iOf_packI]
  rfl

theorem rot (w : RWord) : Statement (.rot w) := by
  intro st x _ h
  cases h
  unfold rawDecode
  rw [class_packR, fn_packR, rOf_packR]
  rfl

theorem icmp (w : RWord) : Statement (.icmp w) := by
  intro st x _ h
  cases h
  unfold rawDecode
  rw [class_packR, fn_packR, rOf_packR]
  rfl

theorem icmpImm (w : IWord) : Statement (.icmpImm w) := by
  intro st x _ h
  cases h
  unfold rawDecode
  rw [class_packI, fn_packI, iOf_packI]
  rfl

theorem sel (w : RWord) : Statement (.sel w) := by
  intro st x _ h
  cases h
  unfold rawDecode
  rw [class_packR, fn_packR, rOf_packR]
  rfl

theorem mov (w : RWord) : Statement (.mov w) := by
  intro st x _ h
  cases h
  unfold rawDecode
  rw [class_packR, fn_packR, rOf_packR]
  rfl

theorem movImm (w : IWord) : Statement (.movImm w) := by
  intro st x _ h
  cases h
  unfold rawDecode
  rw [class_packI, fn_packI, iOf_packI]
  rfl

theorem popc (w : RWord) : Statement (.popc w) := by
  intro st x _ h
  cases h
  unfold rawDecode
  rw [class_packR, fn_packR, rOf_packR]
  rfl

theorem clz (w : RWord) : Statement (.clz w) := by
  intro st x _ h
  cases h
  unfold rawDecode
  rw [class_packR, fn_packR, rOf_packR]
  rfl

theorem ctz (w : RWord) : Statement (.ctz w) := by
  intro st x _ h
  cases h
  unfold rawDecode
  rw [class_packR, fn_packR, rOf_packR]
  rfl

theorem brev (w : RWord) : Statement (.brev w) := by
  intro st x _ h
  cases h
  unfold rawDecode
  rw [class_packR, fn_packR, rOf_packR]
  rfl

theorem bfe (w : RWord) : Statement (.bfe w) := by
  intro st x _ h
  cases h
  unfold rawDecode
  rw [class_packR, fn_packR, rOf_packR]
  rfl

theorem bfi (w : RWord) : Statement (.bfi w) := by
  intro st x _ h
  cases h
  unfold rawDecode
  rw [class_packR, fn_packR, rOf_packR]
  rfl

theorem lea (w : RWord) : Statement (.lea w) := by
  intro st x _ h
  cases h
  unfold rawDecode
  rw [class_packR, fn_packR, rOf_packR]
  rfl

theorem leaImm (w : IWord) : Statement (.leaImm w) := by
  intro st x _ h
  cases h
  unfold rawDecode
  rw [class_packI, fn_packI, iOf_packI]
  rfl

theorem vread (w : RWord) : Statement (.vread w) := by
  intro st x _ h
  cases h
  unfold rawDecode
  rw [class_packR, fn_packR, rOf_packR]
  rfl

theorem vwrite (w : RWord) : Statement (.vwrite w) := by
  intro st x _ h
  cases h
  unfold rawDecode
  rw [class_packR, fn_packR, rOf_packR]
  rfl

theorem sadd (w : RWord) : Statement (.sadd w) := by
  intro st x _ h
  cases h
  unfold rawDecode
  rw [class_packR, fn_packR, rOf_packR]
  rfl

theorem saddImm (w : IWord) : Statement (.saddImm w) := by
  intro st x _ h
  cases h
  unfold rawDecode
  rw [class_packI, fn_packI, iOf_packI]
  rfl

theorem ssub (w : RWord) : Statement (.ssub w) := by
  intro st x _ h
  cases h
  unfold rawDecode
  rw [class_packR, fn_packR, rOf_packR]
  rfl

theorem smul (w : RWord) : Statement (.smul w) := by
  intro st x _ h
  cases h
  unfold rawDecode
  rw [class_packR, fn_packR, rOf_packR]
  rfl

theorem sand (w : RWord) : Statement (.sand w) := by
  intro st x _ h
  cases h
  unfold rawDecode
  rw [class_packR, fn_packR, rOf_packR]
  rfl

theorem sor (w : RWord) : Statement (.sor w) := by
  intro st x _ h
  cases h
  unfold rawDecode
  rw [class_packR, fn_packR, rOf_packR]
  rfl

theorem sxor (w : RWord) : Statement (.sxor w) := by
  intro st x _ h
  cases h
  unfold rawDecode
  rw [class_packR, fn_packR, rOf_packR]
  rfl

theorem sshl (w : RWord) : Statement (.sshl w) := by
  intro st x _ h
  cases h
  unfold rawDecode
  rw [class_packR, fn_packR, rOf_packR]
  rfl

theorem sshr (w : RWord) : Statement (.sshr w) := by
  intro st x _ h
  cases h
  unfold rawDecode
  rw [class_packR, fn_packR, rOf_packR]
  rfl

theorem scmp (w : RWord) : Statement (.scmp w) := by
  intro st x _ h
  cases h
  unfold rawDecode
  rw [class_packR, fn_packR, rOf_packR]
  rfl

theorem smov (w : RWord) : Statement (.smov w) := by
  intro st x _ h
  cases h
  unfold rawDecode
  rw [class_packR, fn_packR, rOf_packR]
  rfl

theorem smovImm (w : IWord) : Statement (.smovImm w) := by
  intro st x _ h
  cases h
  unfold rawDecode
  rw [class_packI, fn_packI, iOf_packI]
  rfl

theorem ssel (w : RWord) : Statement (.ssel w) := by
  intro st x _ h
  cases h
  unfold rawDecode
  rw [class_packR, fn_packR, rOf_packR]
  rfl

theorem fadd (w : RWord) : Statement (.fadd w) := by
  intro st x _ h
  cases h
  unfold rawDecode
  rw [class_packR, fn_packR, rOf_packR]
  rfl

theorem faddImm (w : IWord) : Statement (.faddImm w) := by
  intro st x _ h
  cases h
  unfold rawDecode
  rw [class_packI, fn_packI, iOf_packI]
  rfl

theorem fsub (w : RWord) : Statement (.fsub w) := by
  intro st x _ h
  cases h
  unfold rawDecode
  rw [class_packR, fn_packR, rOf_packR]
  rfl

theorem fmul (w : RWord) : Statement (.fmul w) := by
  intro st x _ h
  cases h
  unfold rawDecode
  rw [class_packR, fn_packR, rOf_packR]
  rfl

theorem fmulImm (w : IWord) : Statement (.fmulImm w) := by
  intro st x _ h
  cases h
  unfold rawDecode
  rw [class_packI, fn_packI, iOf_packI]
  rfl

theorem fma (w : RWord) : Statement (.fma w) := by
  intro st x _ h
  cases h
  unfold rawDecode
  rw [class_packR, fn_packR, rOf_packR]
  rfl

theorem fmin (w : RWord) : Statement (.fmin w) := by
  intro st x _ h
  cases h
  unfold rawDecode
  rw [class_packR, fn_packR, rOf_packR]
  rfl

theorem fmax (w : RWord) : Statement (.fmax w) := by
  intro st x _ h
  cases h
  unfold rawDecode
  rw [class_packR, fn_packR, rOf_packR]
  rfl

theorem fabs (w : RWord) : Statement (.fabs w) := by
  intro st x _ h
  cases h
  unfold rawDecode
  rw [class_packR, fn_packR, rOf_packR]
  rfl

theorem fneg (w : RWord) : Statement (.fneg w) := by
  intro st x _ h
  cases h
  unfold rawDecode
  rw [class_packR, fn_packR, rOf_packR]
  rfl

theorem fcmp (w : RWord) : Statement (.fcmp w) := by
  intro st x _ h
  cases h
  unfold rawDecode
  rw [class_packR, fn_packR, rOf_packR]
  rfl

theorem fcmpImm (w : IWord) : Statement (.fcmpImm w) := by
  intro st x _ h
  cases h
  unfold rawDecode
  rw [class_packI, fn_packI, iOf_packI]
  rfl

theorem fclass (w : RWord) : Statement (.fclass w) := by
  intro st x _ h
  cases h
  unfold rawDecode
  rw [class_packR, fn_packR, rOf_packR]
  rfl

theorem flgrd (w : RWord) : Statement (.flgrd w) := by
  intro st x _ h
  cases h
  unfold rawDecode
  rw [class_packR, fn_packR, rOf_packR]
  rfl

theorem flgwr (w : RWord) : Statement (.flgwr w) := by
  intro st x _ h
  cases h
  unfold rawDecode
  rw [class_packR, fn_packR, rOf_packR]
  rfl

theorem flgclr (w : RWord) : Statement (.flgclr w) := by
  intro st x _ h
  cases h
  unfold rawDecode
  rw [class_packR, fn_packR, rOf_packR]
  rfl

theorem cvt (w : RWord) : Statement (.cvt w) := by
  intro st x _ h
  cases h
  unfold rawDecode
  rw [class_packR, fn_packR, rOf_packR]
  rfl

theorem qcvt (w : RWord) : Statement (.qcvt w) := by
  intro st x _ h
  cases h
  unfold rawDecode
  rw [class_packR, fn_packR, rOf_packR]
  rfl

theorem dqcvt (w : RWord) : Statement (.dqcvt w) := by
  intro st x _ h
  cases h
  unfold rawDecode
  rw [class_packR, fn_packR, rOf_packR]
  rfl

theorem pack (w : RWord) : Statement (.pack w) := by
  intro st x _ h
  cases h
  unfold rawDecode
  rw [class_packR, fn_packR, rOf_packR]
  rfl

theorem unpack (w : RWord) : Statement (.unpack w) := by
  intro st x _ h
  cases h
  unfold rawDecode
  rw [class_packR, fn_packR, rOf_packR]
  rfl

theorem scale (w : RWord) : Statement (.scale w) := by
  intro st x _ h
  cases h
  unfold rawDecode
  rw [class_packR, fn_packR, rOf_packR]
  rfl

theorem amax (w : RWord) : Statement (.amax w) := by
  intro st x _ h
  cases h
  unfold rawDecode
  rw [class_packR, fn_packR, rOf_packR]
  rfl

theorem exp2 (w : RWord) : Statement (.exp2 w) := by
  intro st x _ h
  cases h
  unfold rawDecode
  rw [class_packR, fn_packR, rOf_packR]
  rfl

theorem log2 (w : RWord) : Statement (.log2 w) := by
  intro st x _ h
  cases h
  unfold rawDecode
  rw [class_packR, fn_packR, rOf_packR]
  rfl

theorem rcp (w : RWord) : Statement (.rcp w) := by
  intro st x _ h
  cases h
  unfold rawDecode
  rw [class_packR, fn_packR, rOf_packR]
  rfl

theorem rsq (w : RWord) : Statement (.rsq w) := by
  intro st x _ h
  cases h
  unfold rawDecode
  rw [class_packR, fn_packR, rOf_packR]
  rfl

theorem sqrt (w : RWord) : Statement (.sqrt w) := by
  intro st x _ h
  cases h
  unfold rawDecode
  rw [class_packR, fn_packR, rOf_packR]
  rfl

theorem stq (w : RWord) : Statement (.stq w) := by
  intro st x _ h
  cases h
  unfold rawDecode
  rw [class_packR, fn_packR, rOf_packR]
  rfl

theorem ldq (w : RWord) : Statement (.ldq w) := by
  intro st x _ h
  cases h
  unfold rawDecode
  rw [class_packR, fn_packR, rOf_packR]
  rfl

theorem srseed (w : RWord) : Statement (.srseed w) := by
  intro st x _ h
  cases h
  unfold rawDecode
  rw [class_packR, fn_packR, rOf_packR]
  rfl

theorem dot4 (w : RWord) : Statement (.dot4 w) := by
  intro st x _ h
  cases h
  unfold rawDecode
  rw [class_packR, fn_packR, rOf_packR]
  rfl

theorem dot8 (w : RWord) : Statement (.dot8 w) := by
  intro st x _ h
  cases h
  unfold rawDecode
  rw [class_packR, fn_packR, rOf_packR]
  rfl

theorem dot2 (w : RWord) : Statement (.dot2 w) := by
  intro st x _ h
  cases h
  unfold rawDecode
  rw [class_packR, fn_packR, rOf_packR]
  rfl

theorem padd (w : RWord) : Statement (.padd w) := by
  intro st x _ h
  cases h
  unfold rawDecode
  rw [class_packR, fn_packR, rOf_packR]
  rfl

theorem psub (w : RWord) : Statement (.psub w) := by
  intro st x _ h
  cases h
  unfold rawDecode
  rw [class_packR, fn_packR, rOf_packR]
  rfl

theorem pmin (w : RWord) : Statement (.pmin w) := by
  intro st x _ h
  cases h
  unfold rawDecode
  rw [class_packR, fn_packR, rOf_packR]
  rfl

theorem pmax (w : RWord) : Statement (.pmax w) := by
  intro st x _ h
  cases h
  unfold rawDecode
  rw [class_packR, fn_packR, rOf_packR]
  rfl

theorem shrRnd (w : RWord) : Statement (.shrRnd w) := by
  intro st x hw h
  have o : (!w.mb 0) = true := wellFormed_other hw rfl ⟨w, rfl⟩
  have a : w.mod.getLsbD 0 = false := by simpa [RWord.mb] using o
  cases h
  unfold rawDecode
  rw [class_packR, fn_packR, rOf_packR]
  show some (if w.mod.getLsbD 0 then Instr.shrSat w else .shrRnd w) = some (Instr.shrRnd w)
  rw [a]; rfl

theorem shrSat (w : RWord) : Statement (.shrSat w) := by
  intro st x hw h
  have o : (w.mb 0 && decide (w.fld 9 7 < Machine.perLane w.ty)) = true := wellFormed_other hw rfl ⟨w, rfl⟩
  have a : w.mod.getLsbD 0 = true := by simp only [RWord.mb, Bool.and_eq_true] at o; exact o.1
  cases h
  unfold rawDecode
  rw [class_packR, fn_packR, rOf_packR]
  show some (if w.mod.getLsbD 0 then Instr.shrSat w else .shrRnd w) = some (Instr.shrSat w)
  rw [a]; rfl

theorem shrRndImm (w : IWord) : Statement (.shrRndImm w) := by
  intro st x _ h
  cases h
  unfold rawDecode
  rw [class_packI, fn_packI, iOf_packI]
  rfl

theorem slide (w : RWord) : Statement (.slide w) := by
  intro st x _ h
  cases h
  unfold rawDecode
  rw [class_packR, fn_packR, rOf_packR]
  rfl

theorem slideImm (w : IWord) : Statement (.slideImm w) := by
  intro st x _ h
  cases h
  unfold rawDecode
  rw [class_packI, fn_packI, iOf_packI]
  rfl

theorem shfl (w : RWord) : Statement (.shfl w) := by
  intro st x _ h
  cases h
  unfold rawDecode
  rw [class_packR, fn_packR, rOf_packR]
  rfl

theorem shflImm (w : IWord) : Statement (.shflImm w) := by
  intro st x _ h
  cases h
  unfold rawDecode
  rw [class_packI, fn_packI, iOf_packI]
  rfl

theorem bcast (w : RWord) : Statement (.bcast w) := by
  intro st x _ h
  cases h
  unfold rawDecode
  rw [class_packR, fn_packR, rOf_packR]
  rfl

theorem red (w : RWord) : Statement (.red w) := by
  intro st x _ h
  cases h
  unfold rawDecode
  rw [class_packR, fn_packR, rOf_packR]
  rfl

theorem scan (w : RWord) : Statement (.scan w) := by
  intro st x _ h
  cases h
  unfold rawDecode
  rw [class_packR, fn_packR, rOf_packR]
  rfl

theorem topkIns (w : RWord) : Statement (.topkIns w) := by
  intro st x _ h
  cases h
  unfold rawDecode
  rw [class_packR, fn_packR, rOf_packR]
  rfl

theorem topkClr (w : RWord) : Statement (.topkClr w) := by
  intro st x _ h
  cases h
  unfold rawDecode
  rw [class_packR, fn_packR, rOf_packR]
  rfl

theorem ld (w : RWord) : Statement (.ld w) := by
  intro st x _ h
  cases h
  unfold rawDecode
  rw [class_packR, fn_packR, rOf_packR]
  rfl

theorem st (w : RWord) : Statement (.st w) := by
  intro st x _ h
  cases h
  unfold rawDecode
  rw [class_packR, fn_packR, rOf_packR]
  rfl

theorem ldNf (w : RWord) : Statement (.ldNf w) := by
  intro st x _ h
  cases h
  unfold rawDecode
  rw [class_packR, fn_packR, rOf_packR]
  rfl

theorem pgreq (w : RWord) : Statement (.pgreq w) := by
  intro st x _ h
  cases h
  unfold rawDecode
  rw [class_packR, fn_packR, rOf_packR]
  rfl

theorem lds (w : RWord) : Statement (.lds w) := by
  intro st x _ h
  cases h
  unfold rawDecode
  rw [class_packR, fn_packR, rOf_packR]
  rfl

theorem sts (w : RWord) : Statement (.sts w) := by
  intro st x _ h
  cases h
  unfold rawDecode
  rw [class_packR, fn_packR, rOf_packR]
  rfl

theorem ldg (w : RWord) : Statement (.ldg w) := by
  intro st x _ h
  cases h
  unfold rawDecode
  rw [class_packR, fn_packR, rOf_packR]
  rfl

theorem stg (w : RWord) : Statement (.stg w) := by
  intro st x _ h
  cases h
  unfold rawDecode
  rw [class_packR, fn_packR, rOf_packR]
  rfl

theorem ldW (w : RWord) : Statement (.ldW w) := by
  intro st x _ h
  cases h
  unfold rawDecode
  rw [class_packR, fn_packR, rOf_packR]
  rfl

theorem wsref (w : RWord) : Statement (.wsref w) := by
  intro st x _ h
  cases h
  unfold rawDecode
  rw [class_packR, fn_packR, rOf_packR]
  rfl

theorem atom (w : RWord) : Statement (.atom w) := by
  intro st x _ h
  cases h
  unfold rawDecode
  rw [class_packR, fn_packR, rOf_packR]
  rfl

theorem atoms (w : RWord) : Statement (.atoms w) := by
  intro st x _ h
  cases h
  unfold rawDecode
  rw [class_packR, fn_packR, rOf_packR]
  rfl

theorem pref (w : RWord) : Statement (.pref w) := by
  intro st x _ h
  cases h
  unfold rawDecode
  rw [class_packR, fn_packR, rOf_packR]
  rfl

theorem aadd (w : RWord) : Statement (.aadd w) := by
  intro st x _ h
  cases h
  unfold rawDecode
  rw [class_packR, fn_packR, rOf_packR]
  rfl

theorem aaddImm (w : IWord) : Statement (.aaddImm w) := by
  intro st x _ h
  cases h
  unfold rawDecode
  rw [class_packI, fn_packI, iOf_packI]
  rfl

theorem asub (w : RWord) : Statement (.asub w) := by
  intro st x _ h
  cases h
  unfold rawDecode
  rw [class_packR, fn_packR, rOf_packR]
  rfl

theorem amul (w : RWord) : Statement (.amul w) := by
  intro st x _ h
  cases h
  unfold rawDecode
  rw [class_packR, fn_packR, rOf_packR]
  rfl

theorem ashl (w : RWord) : Statement (.ashl w) := by
  intro st x _ h
  cases h
  unfold rawDecode
  rw [class_packR, fn_packR, rOf_packR]
  rfl

theorem ashr (w : RWord) : Statement (.ashr w) := by
  intro st x _ h
  cases h
  unfold rawDecode
  rw [class_packR, fn_packR, rOf_packR]
  rfl

theorem aand (w : RWord) : Statement (.aand w) := by
  intro st x _ h
  cases h
  unfold rawDecode
  rw [class_packR, fn_packR, rOf_packR]
  rfl

theorem amov (w : RWord) : Statement (.amov w) := by
  intro st x _ h
  cases h
  unfold rawDecode
  rw [class_packR, fn_packR, rOf_packR]
  rfl

theorem amovImm (w : IWord) : Statement (.amovImm w) := by
  intro st x _ h
  cases h
  unfold rawDecode
  rw [class_packI, fn_packI, iOf_packI]
  rfl

theorem acmp (w : RWord) : Statement (.acmp w) := by
  intro st x _ h
  cases h
  unfold rawDecode
  rw [class_packR, fn_packR, rOf_packR]
  rfl

theorem abr (w : IWord) : Statement (.abr w) := by
  intro st x _ h
  cases h
  unfold rawDecode
  rw [class_packI, fn_packI, iOf_packI]
  rfl

theorem abrq (w : IWord) : Statement (.abrq w) := by
  intro st x _ h
  cases h
  unfold rawDecode
  rw [class_packI, fn_packI, iOf_packI]
  rfl

theorem qld (w : RWord) : Statement (.qld w) := by
  intro st x _ h
  cases h
  unfold rawDecode
  rw [class_packR, fn_packR, rOf_packR]
  rfl

theorem qldg (w : RWord) : Statement (.qldg w) := by
  intro st x _ h
  cases h
  unfold rawDecode
  rw [class_packR, fn_packR, rOf_packR]
  rfl

theorem qpop (w : RWord) : Statement (.qpop w) := by
  intro st x _ h
  cases h
  unfold rawDecode
  rw [class_packR, fn_packR, rOf_packR]
  rfl

theorem qpush (w : RWord) : Statement (.qpush w) := by
  intro st x _ h
  cases h
  unfold rawDecode
  rw [class_packR, fn_packR, rOf_packR]
  rfl

theorem slip (w : RWord) : Statement (.slip w) := by
  intro st x _ h
  cases h
  unfold rawDecode
  rw [class_packR, fn_packR, rOf_packR]
  rfl

theorem aexit (w : RWord) : Statement (.aexit w) := by
  intro st x _ h
  cases h
  unfold rawDecode
  rw [class_packR, fn_packR, rOf_packR]
  rfl

theorem shld (w : RWord) : Statement (.shld w) := by
  intro st x _ h
  cases h
  unfold rawDecode
  rw [class_packR, fn_packR, rOf_packR]
  rfl

theorem shst (w : RWord) : Statement (.shst w) := by
  intro st x _ h
  cases h
  unfold rawDecode
  rw [class_packR, fn_packR, rOf_packR]
  rfl

theorem shset (w : RWord) : Statement (.shset w) := by
  intro st x _ h
  cases h
  unfold rawDecode
  rw [class_packR, fn_packR, rOf_packR]
  rfl

theorem cpt (w : RWord) : Statement (.cpt w) := by
  intro st x _ h
  cases h
  unfold rawDecode
  rw [class_packR, fn_packR, rOf_packR]
  rfl

theorem cptm (w : RWord) : Statement (.cptm w) := by
  intro st x _ h
  cases h
  unfold rawDecode
  rw [class_packR, fn_packR, rOf_packR]
  rfl

theorem cpl (w : RWord) : Statement (.cpl w) := by
  intro st x _ h
  cases h
  unfold rawDecode
  rw [class_packR, fn_packR, rOf_packR]
  rfl

theorem cpw (w : RWord) : Statement (.cpw w) := by
  intro st x _ h
  cases h
  unfold rawDecode
  rw [class_packR, fn_packR, rOf_packR]
  rfl

theorem waitall (w : RWord) : Statement (.waitall w) := by
  intro st x _ h
  cases h
  unfold rawDecode
  rw [class_packR, fn_packR, rOf_packR]
  rfl

theorem waitany (w : RWord) : Statement (.waitany w) := by
  intro st x _ h
  cases h
  unfold rawDecode
  rw [class_packR, fn_packR, rOf_packR]
  rfl

theorem tagfind (w : RWord) : Statement (.tagfind w) := by
  intro st x _ h
  cases h
  unfold rawDecode
  rw [class_packR, fn_packR, rOf_packR]
  rfl

theorem tagclr (w : RWord) : Statement (.tagclr w) := by
  intro st x _ h
  cases h
  unfold rawDecode
  rw [class_packR, fn_packR, rOf_packR]
  rfl

theorem waitc (w : RWord) : Statement (.waitc w) := by
  intro st x _ h
  cases h
  unfold rawDecode
  rw [class_packR, fn_packR, rOf_packR]
  rfl

theorem mma (w : RWord) : Statement (.mma w) := by
  intro st x _ h
  cases h
  unfold rawDecode
  rw [class_packR, fn_packR, rOf_packR]
  rfl

theorem mmaV (w : RWord) : Statement (.mmaV w) := by
  intro st x _ h
  cases h
  unfold rawDecode
  rw [class_packR, fn_packR, rOf_packR]
  rfl

theorem mfence (w : RWord) : Statement (.mfence w) := by
  intro st x _ h
  cases h
  unfold rawDecode
  rw [class_packR, fn_packR, rOf_packR]
  rfl

theorem mwait (w : RWord) : Statement (.mwait w) := by
  intro st x _ h
  cases h
  unfold rawDecode
  rw [class_packR, fn_packR, rOf_packR]
  rfl

theorem tseqInit (w : RWord) : Statement (.tseqInit w) := by
  intro st x hw h
  have o : decide (w.fld 2 0 = 0) = true := wellFormed_other hw rfl ⟨w, rfl⟩
  have a : w.mod.getLsbD 0 = false := by
    have h (n : Nat) (hn : n / 2 ^ 0 % 2 ^ (2 + 1 - 0) = 0) : n.testBit 0 = false := by
      rw [Nat.testBit_eq_decide_div_mod_eq]
      simp only [Nat.pow_zero, Nat.div_one, Nat.reduceAdd, Nat.reduceSub, Nat.reducePow] at hn ⊢
      simp; omega
    exact h _ (of_decide_eq_true o)
  cases h
  unfold rawDecode
  rw [class_packR, fn_packR, rOf_packR]
  show some (if w.mod.getLsbD 0 then Instr.tseqNext w else .tseqInit w) = some (Instr.tseqInit w)
  rw [a]; rfl

theorem tseqNext (w : RWord) : Statement (.tseqNext w) := by
  intro st x hw h
  have o : w.mb 0 = true := wellFormed_other hw rfl ⟨w, rfl⟩
  have a : w.mod.getLsbD 0 = true := o
  cases h
  unfold rawDecode
  rw [class_packR, fn_packR, rOf_packR]
  show some (if w.mod.getLsbD 0 then Instr.tseqNext w else .tseqInit w) = some (Instr.tseqNext w)
  rw [a]; rfl

theorem tzero (w : RWord) : Statement (.tzero w) := by
  intro st x _ h
  cases h
  unfold rawDecode
  rw [class_packR, fn_packR, rOf_packR]
  rfl

theorem tld (w : RWord) : Statement (.tld w) := by
  intro st x _ h
  cases h
  unfold rawDecode
  rw [class_packR, fn_packR, rOf_packR]
  rfl

theorem tst (w : RWord) : Statement (.tst w) := by
  intro st x _ h
  cases h
  unfold rawDecode
  rw [class_packR, fn_packR, rOf_packR]
  rfl

theorem tcvt (w : RWord) : Statement (.tcvt w) := by
  intro st x _ h
  cases h
  unfold rawDecode
  rw [class_packR, fn_packR, rOf_packR]
  rfl

theorem cbld (w : RWord) : Statement (.cbld w) := by
  intro st x _ h
  cases h
  unfold rawDecode
  rw [class_packR, fn_packR, rOf_packR]
  rfl

theorem wbld (w : RWord) : Statement (.wbld w) := by
  intro st x _ h
  cases h
  unfold rawDecode
  rw [class_packR, fn_packR, rOf_packR]
  rfl

theorem mmov (w : RWord) : Statement (.mmov w) := by
  intro st x _ h
  cases h
  unfold rawDecode
  rw [class_packR, fn_packR, rOf_packR]
  rfl

theorem mmovImm (w : IWord) : Statement (.mmovImm w) := by
  intro st x _ h
  cases h
  unfold rawDecode
  rw [class_packI, fn_packI, iOf_packI]
  rfl

theorem madd (w : RWord) : Statement (.madd w) := by
  intro st x _ h
  cases h
  unfold rawDecode
  rw [class_packR, fn_packR, rOf_packR]
  rfl

theorem maddImm (w : IWord) : Statement (.maddImm w) := by
  intro st x _ h
  cases h
  unfold rawDecode
  rw [class_packI, fn_packI, iOf_packI]
  rfl

theorem mcmp (w : RWord) : Statement (.mcmp w) := by
  intro st x _ h
  cases h
  unfold rawDecode
  rw [class_packR, fn_packR, rOf_packR]
  rfl

theorem mbr (w : IWord) : Statement (.mbr w) := by
  intro st x _ h
  cases h
  unfold rawDecode
  rw [class_packI, fn_packI, iOf_packI]
  rfl

theorem mbarArv (w : RWord) : Statement (.mbarArv w) := by
  intro st x hw h
  have o : (w.fld 1 0 == 0) = true := wellFormed_other hw rfl ⟨w, rfl⟩
  have ab : w.mod.getLsbD 0 = false ∧ w.mod.getLsbD 1 = false := by
    rw [RWord.fld_two] at o
    simp only [RWord.mb] at o
    cases h0 : w.mod.getLsbD 0 <;> cases h1 : w.mod.getLsbD 1 <;> simp_all
  cases h
  unfold rawDecode
  rw [class_packR, fn_packR, rOf_packR]
  show some (if w.mod.getLsbD 1 then Instr.mbarSync w else if w.mod.getLsbD 0 then .mbarWait w else .mbarArv w) = some (Instr.mbarArv w)
  rw [ab.1, ab.2]; rfl

theorem mbarWait (w : RWord) : Statement (.mbarWait w) := by
  intro st x hw h
  have o : (w.fld 1 0 == 1) = true := wellFormed_other hw rfl ⟨w, rfl⟩
  have ab : w.mod.getLsbD 0 = true ∧ w.mod.getLsbD 1 = false := by
    rw [RWord.fld_two] at o
    simp only [RWord.mb] at o
    cases h0 : w.mod.getLsbD 0 <;> cases h1 : w.mod.getLsbD 1 <;> simp_all
  cases h
  unfold rawDecode
  rw [class_packR, fn_packR, rOf_packR]
  show some (if w.mod.getLsbD 1 then Instr.mbarSync w else if w.mod.getLsbD 0 then .mbarWait w else .mbarArv w) = some (Instr.mbarWait w)
  rw [ab.1, ab.2]; rfl

theorem mbarSync (w : RWord) : Statement (.mbarSync w) := by
  intro st x hw h
  have o : (w.fld 1 0 == 2) = true := wellFormed_other hw rfl ⟨w, rfl⟩
  have ab : w.mod.getLsbD 0 = false ∧ w.mod.getLsbD 1 = true := by
    rw [RWord.fld_two] at o
    simp only [RWord.mb] at o
    cases h0 : w.mod.getLsbD 0 <;> cases h1 : w.mod.getLsbD 1 <;> simp_all
  cases h
  unfold rawDecode
  rw [class_packR, fn_packR, rOf_packR]
  show some (if w.mod.getLsbD 1 then Instr.mbarSync w else if w.mod.getLsbD 0 then .mbarWait w else .mbarArv w) = some (Instr.mbarSync w)
  rw [ab.1, ab.2]; rfl

theorem mexit (w : RWord) : Statement (.mexit w) := by
  intro st x _ h
  cases h
  unfold rawDecode
  rw [class_packR, fn_packR, rOf_packR]
  rfl

theorem kldK (w : RWord) : Statement (.kldK w) := by
  intro st x _ h
  cases h
  unfold rawDecode
  rw [class_packR, fn_packR, rOf_packR]
  rfl

theorem kldV (w : RWord) : Statement (.kldV w) := by
  intro st x _ h
  cases h
  unfold rawDecode
  rw [class_packR, fn_packR, rOf_packR]
  rfl

theorem kst (w : RWord) : Statement (.kst w) := by
  intro st x _ h
  cases h
  unfold rawDecode
  rw [class_packR, fn_packR, rOf_packR]
  rfl

theorem kprobe (w : RWord) : Statement (.kprobe w) := by
  intro st x _ h
  cases h
  unfold rawDecode
  rw [class_packR, fn_packR, rOf_packR]
  rfl

theorem kmap (w : RWord) : Statement (.kmap w) := by
  intro st x _ h
  cases h
  unfold rawDecode
  rw [class_packR, fn_packR, rOf_packR]
  rfl

theorem kunmap (w : RWord) : Statement (.kunmap w) := by
  intro st x _ h
  cases h
  unfold rawDecode
  rw [class_packR, fn_packR, rOf_packR]
  rfl

theorem kvsel (w : RWord) : Statement (.kvsel w) := by
  intro st x _ h
  cases h
  unfold rawDecode
  rw [class_packR, fn_packR, rOf_packR]
  rfl

theorem nmx (w : RWord) : Statement (.nmx w) := by
  intro st x _ h
  cases h
  unfold rawDecode
  rw [class_packR, fn_packR, rOf_packR]
  rfl

theorem nmxb (w : RWord) : Statement (.nmxb w) := by
  intro st x _ h
  cases h
  unfold rawDecode
  rw [class_packR, fn_packR, rOf_packR]
  rfl

theorem nmxr (w : RWord) : Statement (.nmxr w) := by
  intro st x _ h
  cases h
  unfold rawDecode
  rw [class_packR, fn_packR, rOf_packR]
  rfl

theorem nmxc (w : RWord) : Statement (.nmxc w) := by
  intro st x _ h
  cases h
  unfold rawDecode
  rw [class_packR, fn_packR, rOf_packR]
  rfl

theorem rclaim (w : RWord) : Statement (.rclaim w) := by
  intro st x _ h
  cases h
  unfold rawDecode
  rw [class_packR, fn_packR, rOf_packR]
  rfl

theorem rrel (w : RWord) : Statement (.rrel w) := by
  intro st x _ h
  cases h
  unfold rawDecode
  rw [class_packR, fn_packR, rOf_packR]
  rfl

theorem bdmaLd (w : RWord) : Statement (.bdmaLd w) := by
  intro st x _ h
  cases h
  unfold rawDecode
  rw [class_packR, fn_packR, rOf_packR]
  rfl

theorem bdmaSt (w : RWord) : Statement (.bdmaSt w) := by
  intro st x _ h
  cases h
  unfold rawDecode
  rw [class_packR, fn_packR, rOf_packR]
  rfl

theorem xld (w : RWord) : Statement (.xld w) := by
  intro st x _ h
  cases h
  unfold rawDecode
  rw [class_packR, fn_packR, rOf_packR]
  rfl

theorem xst (w : RWord) : Statement (.xst w) := by
  intro st x _ h
  cases h
  unfold rawDecode
  rw [class_packR, fn_packR, rOf_packR]
  rfl

theorem zld (w : RWord) : Statement (.zld w) := by
  intro st x _ h
  cases h
  unfold rawDecode
  rw [class_packR, fn_packR, rOf_packR]
  rfl

theorem zst (w : RWord) : Statement (.zst w) := by
  intro st x _ h
  cases h
  unfold rawDecode
  rw [class_packR, fn_packR, rOf_packR]
  rfl

theorem zadd (w : RWord) : Statement (.zadd w) := by
  intro st x _ h
  cases h
  unfold rawDecode
  rw [class_packR, fn_packR, rOf_packR]
  rfl

theorem zsub (w : RWord) : Statement (.zsub w) := by
  intro st x _ h
  cases h
  unfold rawDecode
  rw [class_packR, fn_packR, rOf_packR]
  rfl

theorem zmul (w : RWord) : Statement (.zmul w) := by
  intro st x _ h
  cases h
  unfold rawDecode
  rw [class_packR, fn_packR, rOf_packR]
  rfl

theorem zmin (w : RWord) : Statement (.zmin w) := by
  intro st x _ h
  cases h
  unfold rawDecode
  rw [class_packR, fn_packR, rOf_packR]
  rfl

theorem zmax (w : RWord) : Statement (.zmax w) := by
  intro st x _ h
  cases h
  unfold rawDecode
  rw [class_packR, fn_packR, rOf_packR]
  rfl

theorem zcmp (w : RWord) : Statement (.zcmp w) := by
  intro st x _ h
  cases h
  unfold rawDecode
  rw [class_packR, fn_packR, rOf_packR]
  rfl

theorem zsel (w : RWord) : Statement (.zsel w) := by
  intro st x _ h
  cases h
  unfold rawDecode
  rw [class_packR, fn_packR, rOf_packR]
  rfl

theorem zcvt (w : RWord) : Statement (.zcvt w) := by
  intro st x _ h
  cases h
  unfold rawDecode
  rw [class_packR, fn_packR, rOf_packR]
  rfl

theorem zbcast (w : RWord) : Statement (.zbcast w) := by
  intro st x _ h
  cases h
  unfold rawDecode
  rw [class_packR, fn_packR, rOf_packR]
  rfl

theorem zred (w : RWord) : Statement (.zred w) := by
  intro st x _ h
  cases h
  unfold rawDecode
  rw [class_packR, fn_packR, rOf_packR]
  rfl

theorem zmov (w : RWord) : Statement (.zmov w) := by
  intro st x _ h
  cases h
  unfold rawDecode
  rw [class_packR, fn_packR, rOf_packR]
  rfl

theorem cmdend (w : RWord) : Statement (.cmdend w) := by
  intro st x _ h
  cases h
  unfold rawDecode
  rw [class_packR, fn_packR, rOf_packR]
  rfl

theorem fence (w : RWord) : Statement (.fence w) := by
  intro st x _ h
  cases h
  unfold rawDecode
  rw [class_packR, fn_packR, rOf_packR]
  rfl

theorem ldAcq (w : RWord) : Statement (.ldAcq w) := by
  intro st x _ h
  cases h
  unfold rawDecode
  rw [class_packR, fn_packR, rOf_packR]
  rfl

theorem stRel (w : RWord) : Statement (.stRel w) := by
  intro st x _ h
  cases h
  unfold rawDecode
  rw [class_packR, fn_packR, rOf_packR]
  rfl

theorem atomg (w : RWord) : Statement (.atomg w) := by
  intro st x _ h
  cases h
  unfold rawDecode
  rw [class_packR, fn_packR, rOf_packR]
  rfl

theorem barArv (w : RWord) : Statement (.barArv w) := by
  intro st x _ h
  cases h
  unfold rawDecode
  rw [class_packR, fn_packR, rOf_packR]
  rfl

theorem barWait (w : RWord) : Statement (.barWait w) := by
  intro st x _ h
  cases h
  unfold rawDecode
  rw [class_packR, fn_packR, rOf_packR]
  rfl

theorem barSync (w : RWord) : Statement (.barSync w) := by
  intro st x _ h
  cases h
  unfold rawDecode
  rw [class_packR, fn_packR, rOf_packR]
  rfl

theorem barInit (w : RWord) : Statement (.barInit w) := by
  intro st x _ h
  cases h
  unfold rawDecode
  rw [class_packR, fn_packR, rOf_packR]
  rfl

theorem sigAdd (w : RWord) : Statement (.sigAdd w) := by
  intro st x _ h
  cases h
  unfold rawDecode
  rw [class_packR, fn_packR, rOf_packR]
  rfl

theorem sigWait (w : RWord) : Statement (.sigWait w) := by
  intro st x _ h
  cases h
  unfold rawDecode
  rw [class_packR, fn_packR, rOf_packR]
  rfl

theorem sigRd (w : RWord) : Statement (.sigRd w) := by
  intro st x _ h
  cases h
  unfold rawDecode
  rw [class_packR, fn_packR, rOf_packR]
  rfl

theorem acqr (w : RWord) : Statement (.acqr w) := by
  intro st x _ h
  cases h
  unfold rawDecode
  rw [class_packR, fn_packR, rOf_packR]
  rfl

theorem relr (w : RWord) : Statement (.relr w) := by
  intro st x _ h
  cases h
  unfold rawDecode
  rw [class_packR, fn_packR, rOf_packR]
  rfl

theorem wb (w : RWord) : Statement (.wb w) := by
  intro st x _ h
  cases h
  unfold rawDecode
  rw [class_packR, fn_packR, rOf_packR]
  rfl

theorem inv (w : RWord) : Statement (.inv w) := by
  intro st x _ h
  cases h
  unfold rawDecode
  rw [class_packR, fn_packR, rOf_packR]
  rfl

theorem wbinv (w : RWord) : Statement (.wbinv w) := by
  intro st x _ h
  cases h
  unfold rawDecode
  rw [class_packR, fn_packR, rOf_packR]
  rfl

theorem pin (w : RWord) : Statement (.pin w) := by
  intro st x _ h
  cases h
  unfold rawDecode
  rw [class_packR, fn_packR, rOf_packR]
  rfl

theorem unpin (w : RWord) : Statement (.unpin w) := by
  intro st x _ h
  cases h
  unfold rawDecode
  rw [class_packR, fn_packR, rOf_packR]
  rfl

theorem rgnq (w : RWord) : Statement (.rgnq w) := by
  intro st x _ h
  cases h
  unfold rawDecode
  rw [class_packR, fn_packR, rOf_packR]
  rfl

theorem mqPush (w : RWord) : Statement (.mqPush w) := by
  intro st x _ h
  cases h
  unfold rawDecode
  rw [class_packR, fn_packR, rOf_packR]
  rfl

theorem mqPop (w : RWord) : Statement (.mqPop w) := by
  intro st x _ h
  cases h
  unfold rawDecode
  rw [class_packR, fn_packR, rOf_packR]
  rfl

theorem matom (w : RWord) : Statement (.matom w) := by
  intro st x _ h
  cases h
  unfold rawDecode
  rw [class_packR, fn_packR, rOf_packR]
  rfl

theorem mred (w : RWord) : Statement (.mred w) := by
  intro st x _ h
  cases h
  unfold rawDecode
  rw [class_packR, fn_packR, rOf_packR]
  rfl

theorem mflagSet (w : RWord) : Statement (.mflagSet w) := by
  intro st x _ h
  cases h
  unfold rawDecode
  rw [class_packR, fn_packR, rOf_packR]
  rfl

theorem mflagWait (w : RWord) : Statement (.mflagWait w) := by
  intro st x _ h
  cases h
  unfold rawDecode
  rw [class_packR, fn_packR, rOf_packR]
  rfl

theorem colRs (w : RWord) : Statement (.colRs w) := by
  intro st x _ h
  cases h
  unfold rawDecode
  rw [class_packR, fn_packR, rOf_packR]
  rfl

theorem colAg (w : RWord) : Statement (.colAg w) := by
  intro st x _ h
  cases h
  unfold rawDecode
  rw [class_packR, fn_packR, rOf_packR]
  rfl

theorem colWait (w : RWord) : Statement (.colWait w) := by
  intro st x _ h
  cases h
  unfold rawDecode
  rw [class_packR, fn_packR, rOf_packR]
  rfl

theorem grpForm (w : RWord) : Statement (.grpForm w) := by
  intro st x _ h
  cases h
  unfold rawDecode
  rw [class_packR, fn_packR, rOf_packR]
  rfl

theorem grpStat (w : RWord) : Statement (.grpStat w) := by
  intro st x _ h
  cases h
  unfold rawDecode
  rw [class_packR, fn_packR, rOf_packR]
  rfl

theorem replay (w : RWord) : Statement (.replay w) := by
  intro st x _ h
  cases h
  unfold rawDecode
  rw [class_packR, fn_packR, rOf_packR]
  rfl

theorem xchPush (w : RWord) : Statement (.xchPush w) := by
  intro st x _ h
  cases h
  unfold rawDecode
  rw [class_packR, fn_packR, rOf_packR]
  rfl

theorem lnkStat (w : RWord) : Statement (.lnkStat w) := by
  intro st x _ h
  cases h
  unfold rawDecode
  rw [class_packR, fn_packR, rOf_packR]
  rfl

theorem launch (w : RWord) : Statement (.launch w) := by
  intro st x _ h
  cases h
  unfold rawDecode
  rw [class_packR, fn_packR, rOf_packR]
  rfl

theorem launchg (w : RWord) : Statement (.launchg w) := by
  intro st x _ h
  cases h
  unfold rawDecode
  rw [class_packR, fn_packR, rOf_packR]
  rfl

theorem nqPush (w : RWord) : Statement (.nqPush w) := by
  intro st x _ h
  cases h
  unfold rawDecode
  rw [class_packR, fn_packR, rOf_packR]
  rfl

theorem nqFlush (w : RWord) : Statement (.nqFlush w) := by
  intro st x _ h
  cases h
  unfold rawDecode
  rw [class_packR, fn_packR, rOf_packR]
  rfl

theorem nqStat (w : RWord) : Statement (.nqStat w) := by
  intro st x _ h
  cases h
  unfold rawDecode
  rw [class_packR, fn_packR, rOf_packR]
  rfl

theorem sigSet (w : RWord) : Statement (.sigSet w) := by
  intro st x _ h
  cases h
  unfold rawDecode
  rw [class_packR, fn_packR, rOf_packR]
  rfl

theorem trap (w : RWord) : Statement (.trap w) := by
  intro st x _ h
  cases h
  unfold rawDecode
  rw [class_packR, fn_packR, rOf_packR]
  rfl

theorem rtt (w : RWord) : Statement (.rtt w) := by
  intro st x hw h
  have o : (w.fld 1 0 == 0) = true := wellFormed_other hw rfl ⟨w, rfl⟩
  have ab : w.mod.getLsbD 0 = false ∧ w.mod.getLsbD 1 = false := by
    rw [RWord.fld_two] at o
    simp only [RWord.mb] at o
    cases h0 : w.mod.getLsbD 0 <;> cases h1 : w.mod.getLsbD 1 <;> simp_all
  cases h
  unfold rawDecode
  rw [class_packR, fn_packR, rOf_packR]
  show some (if w.mod.getLsbD 1 then (if w.mod.getLsbD 0 then Instr.rttSaved w else .rttEnd w) else (if w.mod.getLsbD 0 then .rttNext w else .rtt w)) = some (Instr.rtt w)
  rw [ab.1, ab.2]; rfl

theorem rttNext (w : RWord) : Statement (.rttNext w) := by
  intro st x hw h
  have o : (w.fld 1 0 == 1) = true := wellFormed_other hw rfl ⟨w, rfl⟩
  have ab : w.mod.getLsbD 0 = true ∧ w.mod.getLsbD 1 = false := by
    rw [RWord.fld_two] at o
    simp only [RWord.mb] at o
    cases h0 : w.mod.getLsbD 0 <;> cases h1 : w.mod.getLsbD 1 <;> simp_all
  cases h
  unfold rawDecode
  rw [class_packR, fn_packR, rOf_packR]
  show some (if w.mod.getLsbD 1 then (if w.mod.getLsbD 0 then Instr.rttSaved w else .rttEnd w) else (if w.mod.getLsbD 0 then .rttNext w else .rtt w)) = some (Instr.rttNext w)
  rw [ab.1, ab.2]; rfl

theorem rttEnd (w : RWord) : Statement (.rttEnd w) := by
  intro st x hw h
  have o : (w.fld 1 0 == 2) = true := wellFormed_other hw rfl ⟨w, rfl⟩
  have ab : w.mod.getLsbD 0 = false ∧ w.mod.getLsbD 1 = true := by
    rw [RWord.fld_two] at o
    simp only [RWord.mb] at o
    cases h0 : w.mod.getLsbD 0 <;> cases h1 : w.mod.getLsbD 1 <;> simp_all
  cases h
  unfold rawDecode
  rw [class_packR, fn_packR, rOf_packR]
  show some (if w.mod.getLsbD 1 then (if w.mod.getLsbD 0 then Instr.rttSaved w else .rttEnd w) else (if w.mod.getLsbD 0 then .rttNext w else .rtt w)) = some (Instr.rttEnd w)
  rw [ab.1, ab.2]; rfl

theorem rttSaved (w : RWord) : Statement (.rttSaved w) := by
  intro st x hw h
  have o : (w.fld 1 0 == 3) = true := wellFormed_other hw rfl ⟨w, rfl⟩
  have ab : w.mod.getLsbD 0 = true ∧ w.mod.getLsbD 1 = true := by
    rw [RWord.fld_two] at o
    simp only [RWord.mb] at o
    cases h0 : w.mod.getLsbD 0 <;> cases h1 : w.mod.getLsbD 1 <;> simp_all
  cases h
  unfold rawDecode
  rw [class_packR, fn_packR, rOf_packR]
  show some (if w.mod.getLsbD 1 then (if w.mod.getLsbD 0 then Instr.rttSaved w else .rttEnd w) else (if w.mod.getLsbD 0 then .rttNext w else .rtt w)) = some (Instr.rttSaved w)
  rw [ab.1, ab.2]; rfl

theorem rttRpl (w : RWord) : Statement (.rttRpl w) := by
  intro st x _ h
  cases h
  unfold rawDecode
  rw [class_packR, fn_packR, rOf_packR]
  rfl

theorem ctxsv (w : RWord) : Statement (.ctxsv w) := by
  intro st x _ h
  cases h
  unfold rawDecode
  rw [class_packR, fn_packR, rOf_packR]
  rfl

theorem ctxld (w : RWord) : Statement (.ctxld w) := by
  intro st x _ h
  cases h
  unfold rawDecode
  rw [class_packR, fn_packR, rOf_packR]
  rfl

theorem timer (w : RWord) : Statement (.timer w) := by
  intro st x _ h
  cases h
  unfold rawDecode
  rw [class_packR, fn_packR, rOf_packR]
  rfl

theorem timerrd (w : RWord) : Statement (.timerrd w) := by
  intro st x _ h
  cases h
  unfold rawDecode
  rw [class_packR, fn_packR, rOf_packR]
  rfl

theorem snap (w : RWord) : Statement (.snap w) := by
  intro st x _ h
  cases h
  unfold rawDecode
  rw [class_packR, fn_packR, rOf_packR]
  rfl

theorem sysrd (w : RWord) : Statement (.sysrd w) := by
  intro st x _ h
  cases h
  unfold rawDecode
  rw [class_packR, fn_packR, rOf_packR]
  rfl

theorem syswr (w : RWord) : Statement (.syswr w) := by
  intro st x _ h
  cases h
  unfold rawDecode
  rw [class_packR, fn_packR, rOf_packR]
  rfl

theorem scrub (w : RWord) : Statement (.scrub w) := by
  intro st x _ h
  cases h
  unfold rawDecode
  rw [class_packR, fn_packR, rOf_packR]
  rfl

theorem fixedLatencyWriteback (core : Nat) : Statement (.fixedLatencyWriteback core) := by
  intro st x _ h
  cases h

theorem variableLatencyCompletion (core op : Nat) : Statement (.variableLatencyCompletion core op) := by
  intro st x _ h
  cases h

theorem memAccessCompletion (core op : Nat) (lanes : BitVec 64) (err : AccessError) : Statement (.memAccessCompletion core op lanes err) := by
  intro st x _ h
  cases h

theorem addressCheckEnd (core op : Nat) : Statement (.addressCheckEnd core op) := by
  intro st x _ h
  cases h

theorem windowStoreFailure (core op status : Nat) : Statement (.windowStoreFailure core op status) := by
  intro st x _ h
  cases h

theorem queueLoadCompletion (core op : Nat) (errs : LaneErrors) : Statement (.queueLoadCompletion core op errs) := by
  intro st x _ h
  cases h

theorem backQueueSlotFull (core warp queue : Nat) : Statement (.backQueueSlotFull core warp queue) := by
  intro st x _ h
  cases h

theorem copyCompletion (core op : Nat) : Statement (.copyCompletion core op) := by
  intro st x _ h
  cases h

theorem copyFailure (core op chunk status : Nat) (landed : List Nat) : Statement (.copyFailure core op chunk status landed) := by
  intro st x _ h
  cases h

theorem arrayOperationPerform (core : Nat) (readError : Bool) : Statement (.arrayOperationPerform core readError) := by
  intro st x _ h
  cases h

theorem arrayOperationCompletion (core : Nat) : Statement (.arrayOperationCompletion core) := by
  intro st x _ h
  cases h

theorem mstreamOrphan (core : Nat) : Statement (.mstreamOrphan core) := by
  intro st x _ h
  cases h

theorem barOrphan (core : Nat) (party : Party) (slot : Nat) : Statement (.barOrphan core party slot) := by
  intro st x _ h
  cases h

theorem blockEnd (core : Nat) : Statement (.blockEnd core) := by
  intro st x _ h
  cases h

theorem kldWalkEnd (core op : Nat) : Statement (.kldWalkEnd core op) := by
  intro st x _ h
  cases h

theorem kldCompletion (core op : Nat) : Statement (.kldCompletion core op) := by
  intro st x _ h
  cases h

theorem kvWalkWaitTimeout (core op : Nat) : Statement (.kvWalkWaitTimeout core op) := by
  intro st x _ h
  cases h

theorem kvDataError (core op position : Nat) : Statement (.kvDataError core op position) := by
  intro st x _ h
  cases h

theorem kvPageEviction (asid space : Nat) (coord : BitVec 64) (finish : Bool) : Statement (.kvPageEviction asid space coord finish) := by
  intro st x _ h
  cases h

theorem kvPageRestore (asid space : Nat) (coord : BitVec 64) (frame : Nat) (finish : Bool) : Statement (.kvPageRestore asid space coord frame finish) := by
  intro st x _ h
  cases h

theorem kvPagePoison (asid space : Nat) (coord : BitVec 64) : Statement (.kvPagePoison asid space coord) := by
  intro st x _ h
  cases h

theorem stackCommandStart (stack k : Nat) : Statement (.stackCommandStart stack k) := by
  intro st x _ h
  cases h

theorem nmxbLoadEntry (stack k : Nat) (readable : Bool) : Statement (.nmxbLoadEntry stack k readable) := by
  intro st x _ h
  cases h

theorem stackCommandTimeout (stack k : Nat) : Statement (.stackCommandTimeout stack k) := by
  intro st x _ h
  cases h

theorem stackCommandReport (stack k : Nat) : Statement (.stackCommandReport stack k) := by
  intro st x _ h
  cases h

theorem bankDmaCompletion (stack k dma : Nat) (dataError : Bool) : Statement (.bankDmaCompletion stack k dma dataError) := by
  intro st x _ h
  cases h

theorem deferralTimeout (stack k entry : Nat) : Statement (.deferralTimeout stack k entry) := by
  intro st x _ h
  cases h

theorem stackKernelStart (launch stack k : Nat) (readable : Bool) : Statement (.stackKernelStart launch stack k readable) := by
  intro st x _ h
  cases h

theorem stackKernelPreempt (stack k : Nat) : Statement (.stackKernelPreempt stack k) := by
  intro st x _ h
  cases h

theorem stackKernelRestore (stack k : Nat) : Statement (.stackKernelRestore stack k) := by
  intro st x _ h
  cases h

theorem l2Eviction (slice sector : Nat) : Statement (.l2Eviction slice sector) := by
  intro st x _ h
  cases h

theorem bisnp (module line : Nat) : Statement (.bisnp module line) := by
  intro st x _ h
  cases h

theorem hostMemWrite (addr : Nat) (data : List (BitVec 8)) : Statement (.hostMemWrite addr data) := by
  intro st x _ h
  cases h

theorem hostMemRead (addr length : Nat) : Statement (.hostMemRead addr length) := by
  intro st x _ h
  cases h

theorem acqrTokenGrant (core op : Nat) : Statement (.acqrTokenGrant core op) := by
  intro st x _ h
  cases h

theorem acqrTimeout (core op : Nat) : Statement (.acqrTimeout core op) := by
  intro st x _ h
  cases h

theorem relrCompletion (core op : Nat) : Statement (.relrCompletion core op) := by
  intro st x _ h
  cases h

theorem courierRequest (port : Nat) : Statement (.courierRequest port) := by
  intro st x _ h
  cases h

theorem drainRecord (asid slot entry : Nat) : Statement (.drainRecord asid slot entry) := by
  intro st x _ h
  cases h

theorem collectiveContribute (asid col peer : Nat) : Statement (.collectiveContribute asid col peer) := by
  intro st x _ h
  cases h

theorem collectiveGather (asid col : Nat) : Statement (.collectiveGather asid col) := by
  intro st x _ h
  cases h

theorem collectiveDecision (asid col : Nat) (expired : Bool) : Statement (.collectiveDecision asid col expired) := by
  intro st x _ h
  cases h

theorem collectiveStatus (asid col : Nat) (expired : Bool) : Statement (.collectiveStatus asid col expired) := by
  intro st x _ h
  cases h

theorem fabricTimeout (core op : Nat) : Statement (.fabricTimeout core op) := by
  intro st x _ h
  cases h

theorem linkLaneFailure (port lane : Nat) : Statement (.linkLaneFailure port lane) := by
  intro st x _ h
  cases h

theorem linkRetrainComplete (port replayed : Nat) : Statement (.linkRetrainComplete port replayed) := by
  intro st x _ h
  cases h

theorem linkDown (port : Nat) : Statement (.linkDown port) := by
  intro st x _ h
  cases h

theorem gateOpen (launch : Nat) : Statement (.gateOpen launch) := by
  intro st x _ h
  cases h

theorem blockPlacement  : Statement (.blockPlacement) := by
  intro st x _ h
  cases h

theorem launchDone (launch : Nat) : Statement (.launchDone launch) := by
  intro st x _ h
  cases h

theorem batchSubmissionRetry (asid slot node : Nat) : Statement (.batchSubmissionRetry asid slot node) := by
  intro st x _ h
  cases h

theorem flushTimerExpiry (asid slot node : Nat) : Statement (.flushTimerExpiry asid slot node) := by
  intro st x _ h
  cases h

theorem spatialPreemptionRequest (launch : Nat) : Statement (.spatialPreemptionRequest launch) := by
  intro st x _ h
  cases h

theorem handlerEntry (core : Nat) : Statement (.handlerEntry core) := by
  intro st x _ h
  cases h

theorem deferredCauseInHandler (core : Nat) (party : Party) (slot : Nat) : Statement (.deferredCauseInHandler core party slot) := by
  intro st x _ h
  cases h

theorem preempt (core : Nat) : Statement (.preempt core) := by
  intro st x _ h
  cases h

theorem hardwareSave (core : Nat) : Statement (.hardwareSave core) := by
  intro st x _ h
  cases h

theorem handlerSaveTimeout (core : Nat) : Statement (.handlerSaveTimeout core) := by
  intro st x _ h
  cases h

theorem hardwareRestore (saved : Nat) : Statement (.hardwareRestore saved) := by
  intro st x _ h
  cases h

theorem resume (saved : Nat) : Statement (.resume saved) := by
  intro st x _ h
  cases h

theorem scratchEcc (core : Nat) : Statement (.scratchEcc core) := by
  intro st x _ h
  cases h

theorem registerFileEcc (core : Nat) (unit : EccUnit) : Statement (.registerFileEcc core unit) := by
  intro st x _ h
  cases h

theorem timerEvent (core warp : Nat) : Statement (.timerEvent core warp) := by
  intro st x _ h
  cases h

theorem refreshWindowStart (die : Nat) : Statement (.refreshWindowStart die) := by
  intro st x _ h
  cases h

theorem refreshWindowEnd (die : Nat) : Statement (.refreshWindowEnd die) := by
  intro st x _ h
  cases h

theorem wsloadWrite (launch die : Nat) (readable : Bool) : Statement (.wsloadWrite launch die readable) := by
  intro st x _ h
  cases h

theorem weightStoreZeroing (die : Nat) : Statement (.weightStoreZeroing die) := by
  intro st x _ h
  cases h

theorem timetableTick  : Statement (.timetableTick) := by
  intro st x _ h
  cases h

theorem ppsEdge  : Statement (.ppsEdge) := by
  intro st x _ h
  cases h

theorem trigPinPulse (nanoseconds : Nat) : Statement (.trigPinPulse nanoseconds) := by
  intro st x _ h
  cases h

theorem thermalThrottle (powerWatts hottestTenths : Nat) : Statement (.thermalThrottle powerWatts hottestTenths) := by
  intro st x _ h
  cases h

theorem thermalShutdown (die : Nat) : Statement (.thermalShutdown die) := by
  intro st x _ h
  cases h

theorem reset  : Statement (.reset) := by
  intro st x _ h
  cases h

theorem selfTestPass (bit : Nat) : Statement (.selfTestPass bit) := by
  intro st x _ h
  cases h

theorem readyFall (bit : Nat) : Statement (.readyFall bit) := by
  intro st x _ h
  cases h

theorem contextCreate (descriptor : Nat) : Statement (.contextCreate descriptor) := by
  intro st x _ h
  cases h

theorem contextRegrant (descriptor : Nat) : Statement (.contextRegrant descriptor) := by
  intro st x _ h
  cases h

theorem contextDestroy (descriptor : Nat) : Statement (.contextDestroy descriptor) := by
  intro st x _ h
  cases h

theorem podcfgWrite (width : Nat) (value : BitVec 64) : Statement (.podcfgWrite width value) := by
  intro st x _ h
  cases h

theorem todstepWrite (width : Nat) (value : BitVec 64) : Statement (.todstepWrite width value) := by
  intro st x _ h
  cases h

theorem registerWrite (offset width : Nat) (value : BitVec 64) : Statement (.registerWrite offset width value) := by
  intro st x _ h
  cases h

theorem mmpPageRequest  : Statement (.mmpPageRequest) := by
  intro st x _ h
  cases h

theorem hostPageCallAnswer (asid page hostFrame : Nat) : Statement (.hostPageCallAnswer asid page hostFrame) := by
  intro st x _ h
  cases h

theorem hostCallTimeout (asid page : Nat) : Statement (.hostCallTimeout asid page) := by
  intro st x _ h
  cases h

theorem migratingWaitTimeout (core op : Nat) : Statement (.migratingWaitTimeout core op) := by
  intro st x _ h
  cases h

theorem mmpMap (asid : Nat) (va : BitVec 64) (leaf : BitVec 64) (level : Nat) : Statement (.mmpMap asid va leaf level) := by
  intro st x _ h
  cases h

theorem mmpUnmap (asid : Nat) (va : BitVec 64) : Statement (.mmpUnmap asid va) := by
  intro st x _ h
  cases h

theorem mmpProtect (asid : Nat) (va : BitVec 64) (r w x : Bool) : Statement (.mmpProtect asid va r w x) := by
  intro st x _ h
  cases h

theorem mmpPlace (asid : Nat) (target : PlaceTarget) : Statement (.mmpPlace asid target) := by
  intro st x _ h
  cases h

theorem mmpEvict (asid : Nat) (va : BitVec 64) (hostFrame : Nat) : Statement (.mmpEvict asid va hostFrame) := by
  intro st x _ h
  cases h

theorem mmpCreateKvSpace (asid space nseq nlayer nhead npage dhg : Nat) : Statement (.mmpCreateKvSpace asid space nseq nlayer nhead npage dhg) := by
  intro st x _ h
  cases h

theorem mmpCreateRegion (asid region : Nat) (va : BitVec 64) (length : Nat) : Statement (.mmpCreateRegion asid region va length) := by
  intro st x _ h
  cases h

theorem mmpSaveAreas (asid : Nat) (va : BitVec 64) (count : Nat) : Statement (.mmpSaveAreas asid va count) := by
  intro st x _ h
  cases h

theorem mmpPin (asid : Nat) (va : BitVec 64) : Statement (.mmpPin asid va) := by
  intro st x _ h
  cases h

theorem mmpMigrate (asid : Nat) (va : BitVec 64) (frame : Nat) (finish : Bool) : Statement (.mmpMigrate asid va frame finish) := by
  intro st x _ h
  cases h

theorem shootdown (receiver : Nat) : Statement (.shootdown receiver) := by
  intro st x _ h
  cases h

theorem portTrainingComplete (port : Nat) (width : Nat) : Statement (.portTrainingComplete port width) := by
  intro st x _ h
  cases h

end Sys2Proof.Laws.Encoding
end

