-- ==== Sys2Proof/Safety.lean ====
section
/-! DEFINITION. What a safe run is: every step gives a next state; the one stop of the machine is an access to HBM that does not
exist (R388). -/

namespace Sys2Proof

/-- A state from which the next step gives a next state. -/
def stepSafe (s : Machine.State) : Prop := ∃ t, Machine.step s = .next t

/-- A state from which `n` steps in a row give next states. -/
def runSafe (s : Machine.State) : Nat → Prop
  | 0 => True
  | n + 1 => ∃ t, Machine.step s = .next t ∧ runSafe t n

end Sys2Proof
end

