-- ==== Sys2Proof/Tests/Slice0.lean ====
section
/-! SUPPORT. Tests. Every expected result is the spec's: a worked example, a table, or a hand calculation from a rule. A theorem named
test_meets_<statement>, or that name with a part of the statement after it, shows concrete states and operands that meet the hypotheses of that
statement, or of that part, one for each clause. -/

namespace Sys2Proof.Tests

-- one theorem after the other: the kernel's evaluations of several at once take too much memory
set_option Elab.async false

open Sys2Proof Sys2Proof.Machine Sys2Proof.Spec

/-! Small states and words. -/

/-- Words with the guard PT and no other control field. -/
def word (d a b mod : Nat) : RWord :=
  ⟨BitVec.ofNat 10 d, BitVec.ofNat 10 a, BitVec.ofNat 10 b, BitVec.ofNat 26 mod, ctl 0x0F 0 0 0 0⟩
def iword (d a imm modi : Nat) : IWord :=
  ⟨BitVec.ofNat 10 d, BitVec.ofNat 10 a, BitVec.ofNat 32 imm, BitVec.ofNat 4 modi, ctl 0x0F 0 0 0 0⟩

/-- MOD with a TYPE. -/
def tyMod (ty : Nat) : Nat := ty * 2 ^ 18

/-- The package with the boot's block on core 0, at clock 0, a page of memory mapped at virtual address 0. -/
def base (a : Actor) : State :=
  let s : State := { State.reset with hbm := bootTables [], ctxs := [(0, { live := true })], actor := a }
  s.onCore 0 (fun k => bootCore k 0)

/-- The same, with warp 0 changed, or the core. -/
def withWarp (f : Warp → Warp) : State := (base (.compute 0 0 0)).onWarp 0 0 f
def withCore (a : Actor) (f : Core → Core) : State := (base a).onCore 0 f
def compute : State := base (.compute 0 0 0)

/-- A stack core at its start with a kernel. -/
def stackBase : State := ({ State.reset with actor := .stackCore 0 0 } : State).setSc 0 0 (bootStack {} [] 0)
def withSc (f : SCore → SCore) : State := stackBase.onSc 0 0 f

/-- Guarded words; a split of sixteen lanes of which a guard on P1 keeps the low eight. -/
def guarded (g : BitVec 5) (w : RWord) : RWord := { w with ctl := { w.ctl with g := g } }
def guardedI (g : BitVec 5) (w : IWord) : IWord := { w with ctl := { w.ctl with g := g } }
def lowHalf : State := withWarp (fun x => { x with p := [(1, 0xFF)] })
def onSplit0 (f : Split → Split) : State := lowHalf.onWarp 0 0 (fun x => { x with splits := x.splits.mapV f })

/-- A handler that runs in warp 0, for a cause that the compute stream raised. -/
def handlerHalt (c : Cause) : Halt :=
  { found := 0, party := .compute 0, trap := plain c, entered := true, handler := some { warp := 0, pc := 0x300, m := 0xFFFF } }
def handling (c : Cause) : State :=
  { withCore (.handler 0) (fun k => { k with halt := some (handlerHalt c) }) with clk := 5 }

/-! What meets the hypotheses of a statement. -/

/-- A word that stands at its site as `Site` asks, with a condition on the site. -/
def sited (i : Instr) (s : State) (p : Env → Bool) : Bool :=
  match fnOf i with
  | none => false
  | some f => match envOf s f (bodyOf i) with
    | none => false
    | some e => e.issuable && e.trap.isNone && s.bad.isNone && p e

/-- The same with an active lane, as `Acts` asks. -/
def acts (i : Instr) (s : State) (p : Env → Bool) : Bool := sited i s (fun e => decide (e.act ≠ 0) && p e)

/-- A word of a stack core as `StackActs` asks. -/
def stacked (i : Instr) (s : State) (p : SEnv → Bool) : Bool :=
  match fnOf i with
  | none => false
  | some f => match senvOf s f (bodyOf i) with
    | none => false
    | some e => e.issuable && e.trap.isNone && e.act && s.bad.isNone && p e

theorem site_of_sited {i : Instr} {s : State} {p : Env → Bool} (h : sited i s p = true) : ∃ e, Site i s e ∧ p e = true := by
  unfold sited at h
  split at h
  · cases h
  · rename_i f hf
    split at h
    · cases h
    · rename_i e he
      simp only [Bool.and_eq_true, Option.isNone_iff_eq_none] at h
      obtain ⟨rfl, hb⟩ := envOf_fn he
      exact ⟨e, ⟨hf, he, h.1.1.1, h.1.1.2, h.1.2⟩, h.2⟩

theorem acts_of_acts {i : Instr} {s : State} {p : Env → Bool} (h : acts i s p = true) : ∃ e, Acts i s e ∧ p e = true := by
  obtain ⟨e, hs, he⟩ := site_of_sited h
  simp only [Bool.and_eq_true, decide_eq_true_eq] at he
  exact ⟨e, ⟨hs, he.1⟩, he.2⟩

theorem stackActs_of_stacked {i : Instr} {s : State} {p : SEnv → Bool} (h : stacked i s p = true) :
    ∃ e, StackActs i s e ∧ p e = true := by
  unfold stacked at h
  split at h
  · cases h
  · rename_i f hf
    split at h
    · cases h
    · rename_i e he
      simp only [Bool.and_eq_true, Option.isNone_iff_eq_none] at h
      have hfn : e.fn = f := by
        unfold senvOf at he
        split at he
        · cases he; rfl
        · cases he
      subst hfn
      exact ⟨e, ⟨hf, he, h.1.1.1.1, h.1.1.1.2, h.1.1.2, h.1.2⟩, h.2⟩


/-! The opcode map (R57): for every instruction a word written out from R36 or R44, with D = 0x155, A = 0x2AA, B = 0x0F1, MOD =
0x2345674 (and the bits that tell entries of one opcode apart), IMM32 = 0x89ABCDEF, MODI = 6, G = 0x13, STALL = 5, WAIT = 0x812,
SETF = 9, REUSE = 5, YLD = 1 and PAIR = 0. -/

def rawCtl : Ctl := ⟨0x13, 5, 0x812, 9, 5, true, false⟩
def rawWord (x : Nat) : RWord := ⟨0x155, 0x2AA, 0x0F1, BitVec.ofNat 26 (0x2345674 + x), rawCtl⟩
def rawIWord : IWord := ⟨0x155, 0x2AA, 0x89ABCDEF, 6, rawCtl⟩

theorem test_opcodes_CTL : ∀ x ∈
  ([(0x00155AA8F18D159D26B02536, .nop (rawWord 0)),
   (0x00555AAA26AF37BDA6B02536, .bra rawIWord),
   (0x00955AA8F18D159D26B02536, .brx (rawWord 0)),
   (0x00D55AAA26AF37BDA6B02536, .bru rawIWord),
   (0x01155AAA26AF37BDA6B02536, .call rawIWord),
   (0x01555AA8F18D159D26B02536, .callx (rawWord 0)),
   (0x01955AA8F18D159D26B02536, .ret (rawWord 0)),
   (0x01D55AA8F18D159D26B02536, .exit (rawWord 0)),
   (0x02155AA8F18D159D26B02536, .merge (rawWord 0)),
   (0x02555AAA26AF37BDA6B02536, .loop rawIWord),
   (0x02955AA8F18D159D26B02536, .yield (rawWord 0)),
   (0x02D55AA8F18D159D26B02536, .pushp (rawWord 0)),
   (0x03155AA8F18D159D26B02536, .invp (rawWord 0)),
   (0x03555AA8F18D159D26B02536, .popp (rawWord 0)),
   (0x03955AA8F18D159D26B02536, .pand (rawWord 0)),
   (0x03D55AA8F18D159D26B02536, .por (rawWord 0)),
   (0x04155AA8F18D159D26B02536, .pxor (rawWord 0)),
   (0x04555AA8F18D159D26B02536, .pnot (rawWord 0)),
   (0x04955AA8F18D159D26B02536, .pmov (rawWord 0)),
   (0x04D55AA8F18D159D26B02536, .p2v (rawWord 0))] ++
  [(0x05155AA8F18D159D26B02536, .v2p (rawWord 0)),
   (0x05555AA8F18D159D26B02536, .vote (rawWord 0))] : List (Nat × Instr)), rawDecode (BitVec.ofNat 96 x.1) = some x.2 := by decide
theorem test_opcodes_INT : ∀ x ∈
  ([(0x10155AA8F18D159D26B02536, .iadd (rawWord 0)),
   (0x10555AAA26AF37BDA6B02536, .iaddImm rawIWord),
   (0x10955AA8F18D159D26B02536, .isub (rawWord 0)),
   (0x10D55AA8F18D159D26B02536, .imul (rawWord 0)),
   (0x11155AAA26AF37BDA6B02536, .imulImm rawIWord),
   (0x11555AA8F18D159D26B02536, .imad (rawWord 0)),
   (0x11955AA8F18D159D26B02536, .imulhi (rawWord 0)),
   (0x11D55AA8F18D159D26B02536, .imin (rawWord 0)),
   (0x12155AA8F18D159D26B02536, .imax (rawWord 0)),
   (0x12555AA8F18D159D26B02536, .iabs (rawWord 0)),
   (0x12955AA8F18D159D26B02536, .ineg (rawWord 0)),
   (0x12D55AA8F18D159D26B02536, .andB (rawWord 0)),
   (0x13155AAA26AF37BDA6B02536, .andImm rawIWord),
   (0x13555AA8F18D159D26B02536, .orB (rawWord 0)),
   (0x13955AAA26AF37BDA6B02536, .orImm rawIWord),
   (0x13D55AA8F18D159D26B02536, .xorB (rawWord 0)),
   (0x14155AAA26AF37BDA6B02536, .xorImm rawIWord),
   (0x14555AA8F18D159D26B02536, .notB (rawWord 0)),
   (0x14955AA8F18D159D26B02536, .shl (rawWord 0)),
   (0x14D55AAA26AF37BDA6B02536, .shlImm rawIWord)] ++
  [(0x15155AA8F18D159D26B02536, .shr (rawWord 0)),
   (0x15555AAA26AF37BDA6B02536, .shrImm rawIWord),
   (0x15955AA8F18D159D26B02536, .rot (rawWord 0)),
   (0x15D55AA8F18D159D26B02536, .icmp (rawWord 0)),
   (0x16155AAA26AF37BDA6B02536, .icmpImm rawIWord),
   (0x16555AA8F18D159D26B02536, .sel (rawWord 0)),
   (0x16955AA8F18D159D26B02536, .mov (rawWord 0)),
   (0x16D55AAA26AF37BDA6B02536, .movImm rawIWord),
   (0x17155AA8F18D159D26B02536, .popc (rawWord 0)),
   (0x17555AA8F18D159D26B02536, .clz (rawWord 0)),
   (0x17955AA8F18D159D26B02536, .ctz (rawWord 0)),
   (0x17D55AA8F18D159D26B02536, .brev (rawWord 0)),
   (0x18155AA8F18D159D26B02536, .bfe (rawWord 0)),
   (0x18555AA8F18D159D26B02536, .bfi (rawWord 0)),
   (0x18955AA8F18D159D26B02536, .lea (rawWord 0)),
   (0x18D55AAA26AF37BDA6B02536, .leaImm rawIWord),
   (0x19155AA8F18D159D26B02536, .vread (rawWord 0)),
   (0x19555AA8F18D159D26B02536, .vwrite (rawWord 0)),
   (0x1A155AA8F18D159D26B02536, .sadd (rawWord 0)),
   (0x1A555AAA26AF37BDA6B02536, .saddImm rawIWord)] ++
  [(0x1A955AA8F18D159D26B02536, .ssub (rawWord 0)),
   (0x1AD55AA8F18D159D26B02536, .smul (rawWord 0)),
   (0x1B155AA8F18D159D26B02536, .sand (rawWord 0)),
   (0x1B555AA8F18D159D26B02536, .sor (rawWord 0)),
   (0x1B955AA8F18D159D26B02536, .sxor (rawWord 0)),
   (0x1BD55AA8F18D159D26B02536, .sshl (rawWord 0)),
   (0x1C155AA8F18D159D26B02536, .sshr (rawWord 0)),
   (0x1C555AA8F18D159D26B02536, .scmp (rawWord 0)),
   (0x1C955AA8F18D159D26B02536, .smov (rawWord 0)),
   (0x1CD55AAA26AF37BDA6B02536, .smovImm rawIWord),
   (0x1D155AA8F18D159D26B02536, .ssel (rawWord 0))] : List (Nat × Instr)), rawDecode (BitVec.ofNat 96 x.1) = some x.2 := by decide
theorem test_opcodes_FLT : ∀ x ∈
  ([(0x20155AA8F18D159D26B02536, .fadd (rawWord 0)),
   (0x20555AAA26AF37BDA6B02536, .faddImm rawIWord),
   (0x20955AA8F18D159D26B02536, .fsub (rawWord 0)),
   (0x20D55AA8F18D159D26B02536, .fmul (rawWord 0)),
   (0x21155AAA26AF37BDA6B02536, .fmulImm rawIWord),
   (0x21555AA8F18D159D26B02536, .fma (rawWord 0)),
   (0x21955AA8F18D159D26B02536, .fmin (rawWord 0)),
   (0x21D55AA8F18D159D26B02536, .fmax (rawWord 0)),
   (0x22155AA8F18D159D26B02536, .fabs (rawWord 0)),
   (0x22555AA8F18D159D26B02536, .fneg (rawWord 0)),
   (0x22955AA8F18D159D26B02536, .fcmp (rawWord 0)),
   (0x22D55AAA26AF37BDA6B02536, .fcmpImm rawIWord),
   (0x23155AA8F18D159D26B02536, .fclass (rawWord 0)),
   (0x23555AA8F18D159D26B02536, .flgrd (rawWord 0)),
   (0x23955AA8F18D159D26B02536, .flgwr (rawWord 0)),
   (0x23D55AA8F18D159D26B02536, .flgclr (rawWord 0))] : List (Nat × Instr)), rawDecode (BitVec.ofNat 96 x.1) = some x.2 := by decide
theorem test_opcodes_CVT : ∀ x ∈
  ([(0x30155AA8F18D159D26B02536, .cvt (rawWord 0)),
   (0x30555AA8F18D159D26B02536, .qcvt (rawWord 0)),
   (0x30955AA8F18D159D26B02536, .dqcvt (rawWord 0)),
   (0x30D55AA8F18D159D26B02536, .pack (rawWord 0)),
   (0x31155AA8F18D159D26B02536, .unpack (rawWord 0)),
   (0x31555AA8F18D159D26B02536, .scale (rawWord 0)),
   (0x31955AA8F18D159D26B02536, .amax (rawWord 0)),
   (0x31D55AA8F18D159D26B02536, .exp2 (rawWord 0)),
   (0x32155AA8F18D159D26B02536, .log2 (rawWord 0)),
   (0x32555AA8F18D159D26B02536, .rcp (rawWord 0)),
   (0x32955AA8F18D159D26B02536, .rsq (rawWord 0)),
   (0x32D55AA8F18D159D26B02536, .sqrt (rawWord 0)),
   (0x33155AA8F18D159D26B02536, .stq (rawWord 0)),
   (0x33555AA8F18D159D26B02536, .ldq (rawWord 0)),
   (0x33955AA8F18D159D26B02536, .srseed (rawWord 0))] : List (Nat × Instr)), rawDecode (BitVec.ofNat 96 x.1) = some x.2 := by decide
theorem test_opcodes_PKX : ∀ x ∈
  ([(0x40155AA8F18D159D26B02536, .dot4 (rawWord 0)),
   (0x40555AA8F18D159D26B02536, .dot8 (rawWord 0)),
   (0x40955AA8F18D159D26B02536, .dot2 (rawWord 0)),
   (0x40D55AA8F18D159D26B02536, .padd (rawWord 0)),
   (0x41155AA8F18D159D26B02536, .psub (rawWord 0)),
   (0x41555AA8F18D159D26B02536, .pmin (rawWord 0)),
   (0x41955AA8F18D159D26B02536, .pmax (rawWord 0)),
   (0x41D55AA8F18D159D26B02536, .shrRnd (rawWord 0)),
   (0x41D55AA8F18D159D66B02536, .shrSat (rawWord 1)),
   (0x42155AAA26AF37BDA6B02536, .shrRndImm rawIWord),
   (0x42555AA8F18D159D26B02536, .slide (rawWord 0)),
   (0x42955AAA26AF37BDA6B02536, .slideImm rawIWord),
   (0x42D55AA8F18D159D26B02536, .shfl (rawWord 0)),
   (0x43155AAA26AF37BDA6B02536, .shflImm rawIWord),
   (0x43555AA8F18D159D26B02536, .bcast (rawWord 0)),
   (0x43955AA8F18D159D26B02536, .red (rawWord 0)),
   (0x43D55AA8F18D159D26B02536, .scan (rawWord 0)),
   (0x44155AA8F18D159D26B02536, .topkIns (rawWord 0)),
   (0x44555AA8F18D159D26B02536, .topkClr (rawWord 0))] : List (Nat × Instr)), rawDecode (BitVec.ofNat 96 x.1) = some x.2 := by decide
theorem test_opcodes_MEM : ∀ x ∈
  ([(0x50155AA8F18D159D26B02536, .ld (rawWord 0)),
   (0x50555AA8F18D159D26B02536, .st (rawWord 0)),
   (0x50955AA8F18D159D26B02536, .ldNf (rawWord 0)),
   (0x50D55AA8F18D159D26B02536, .pgreq (rawWord 0)),
   (0x51155AA8F18D159D26B02536, .lds (rawWord 0)),
   (0x51555AA8F18D159D26B02536, .sts (rawWord 0)),
   (0x51955AA8F18D159D26B02536, .ldg (rawWord 0)),
   (0x51D55AA8F18D159D26B02536, .stg (rawWord 0)),
   (0x52155AA8F18D159D26B02536, .ldW (rawWord 0)),
   (0x52555AA8F18D159D26B02536, .wsref (rawWord 0)),
   (0x52955AA8F18D159D26B02536, .atom (rawWord 0)),
   (0x52D55AA8F18D159D26B02536, .atoms (rawWord 0)),
   (0x53155AA8F18D159D26B02536, .pref (rawWord 0))] : List (Nat × Instr)), rawDecode (BitVec.ofNat 96 x.1) = some x.2 := by decide
theorem test_opcodes_ACC : ∀ x ∈
  ([(0x60155AA8F18D159D26B02536, .aadd (rawWord 0)),
   (0x60555AAA26AF37BDA6B02536, .aaddImm rawIWord),
   (0x60955AA8F18D159D26B02536, .asub (rawWord 0)),
   (0x60D55AA8F18D159D26B02536, .amul (rawWord 0)),
   (0x61155AA8F18D159D26B02536, .ashl (rawWord 0)),
   (0x61555AA8F18D159D26B02536, .ashr (rawWord 0)),
   (0x61955AA8F18D159D26B02536, .aand (rawWord 0)),
   (0x61D55AA8F18D159D26B02536, .amov (rawWord 0)),
   (0x62155AAA26AF37BDA6B02536, .amovImm rawIWord),
   (0x62555AA8F18D159D26B02536, .acmp (rawWord 0)),
   (0x62955AAA26AF37BDA6B02536, .abr rawIWord),
   (0x62D55AAA26AF37BDA6B02536, .abrq rawIWord),
   (0x63155AA8F18D159D26B02536, .qld (rawWord 0)),
   (0x63555AA8F18D159D26B02536, .qldg (rawWord 0)),
   (0x63955AA8F18D159D26B02536, .qpop (rawWord 0)),
   (0x63D55AA8F18D159D26B02536, .qpush (rawWord 0)),
   (0x64155AA8F18D159D26B02536, .slip (rawWord 0)),
   (0x64555AA8F18D159D26B02536, .aexit (rawWord 0))] : List (Nat × Instr)), rawDecode (BitVec.ofNat 96 x.1) = some x.2 := by decide
theorem test_opcodes_CPY : ∀ x ∈
  ([(0x70155AA8F18D159D26B02536, .shld (rawWord 0)),
   (0x70555AA8F18D159D26B02536, .shst (rawWord 0)),
   (0x70955AA8F18D159D26B02536, .shset (rawWord 0)),
   (0x70D55AA8F18D159D26B02536, .cpt (rawWord 0)),
   (0x71155AA8F18D159D26B02536, .cptm (rawWord 0)),
   (0x71555AA8F18D159D26B02536, .cpl (rawWord 0)),
   (0x71955AA8F18D159D26B02536, .cpw (rawWord 0)),
   (0x71D55AA8F18D159D26B02536, .waitall (rawWord 0)),
   (0x72155AA8F18D159D26B02536, .waitany (rawWord 0)),
   (0x72555AA8F18D159D26B02536, .tagfind (rawWord 0)),
   (0x72955AA8F18D159D26B02536, .tagclr (rawWord 0)),
   (0x72D55AA8F18D159D26B02536, .waitc (rawWord 0))] : List (Nat × Instr)), rawDecode (BitVec.ofNat 96 x.1) = some x.2 := by decide
theorem test_opcodes_MTX : ∀ x ∈
  ([(0x80155AA8F18D159D26B02536, .mma (rawWord 0)),
   (0x80555AA8F18D159D26B02536, .mmaV (rawWord 0)),
   (0x80955AA8F18D159D26B02536, .mfence (rawWord 0)),
   (0x80D55AA8F18D159D26B02536, .mwait (rawWord 0)),
   (0x81155AA8F18D159D26B02536, .tseqInit (rawWord 0)),
   (0x81155AA8F18D159D66B02536, .tseqNext (rawWord 1)),
   (0x81555AA8F18D159D26B02536, .tzero (rawWord 0)),
   (0x81955AA8F18D159D26B02536, .tld (rawWord 0)),
   (0x81D55AA8F18D159D26B02536, .tst (rawWord 0)),
   (0x82155AA8F18D159D26B02536, .tcvt (rawWord 0)),
   (0x82555AA8F18D159D26B02536, .cbld (rawWord 0)),
   (0x82955AA8F18D159D26B02536, .wbld (rawWord 0)),
   (0x82D55AA8F18D159D26B02536, .mmov (rawWord 0)),
   (0x83155AAA26AF37BDA6B02536, .mmovImm rawIWord),
   (0x83555AA8F18D159D26B02536, .madd (rawWord 0)),
   (0x83955AAA26AF37BDA6B02536, .maddImm rawIWord),
   (0x83D55AA8F18D159D26B02536, .mcmp (rawWord 0)),
   (0x84155AAA26AF37BDA6B02536, .mbr rawIWord),
   (0x84555AA8F18D159D26B02536, .mbarArv (rawWord 0)),
   (0x84555AA8F18D159D66B02536, .mbarWait (rawWord 1))] ++
  [(0x84555AA8F18D159DA6B02536, .mbarSync (rawWord 2)),
   (0x84955AA8F18D159D26B02536, .mexit (rawWord 0))] : List (Nat × Instr)), rawDecode (BitVec.ofNat 96 x.1) = some x.2 := by decide
theorem test_opcodes_KVA : ∀ x ∈
  ([(0x90155AA8F18D159D26B02536, .kldK (rawWord 0)),
   (0x90555AA8F18D159D26B02536, .kldV (rawWord 0)),
   (0x90955AA8F18D159D26B02536, .kst (rawWord 0)),
   (0x90D55AA8F18D159D26B02536, .kprobe (rawWord 0)),
   (0x91155AA8F18D159D26B02536, .kmap (rawWord 0)),
   (0x91555AA8F18D159D26B02536, .kunmap (rawWord 0)),
   (0x91955AA8F18D159D26B02536, .kvsel (rawWord 0))] : List (Nat × Instr)), rawDecode (BitVec.ofNat 96 x.1) = some x.2 := by decide
theorem test_opcodes_STK : ∀ x ∈
  ([(0xA0155AA8F18D159D26B02536, .nmx (rawWord 0)),
   (0xA0555AA8F18D159D26B02536, .nmxb (rawWord 0)),
   (0xA0955AA8F18D159D26B02536, .nmxr (rawWord 0)),
   (0xA0D55AA8F18D159D26B02536, .nmxc (rawWord 0)),
   (0xA8155AA8F18D159D26B02536, .rclaim (rawWord 0)),
   (0xA8555AA8F18D159D26B02536, .rrel (rawWord 0)),
   (0xA8955AA8F18D159D26B02536, .bdmaLd (rawWord 0)),
   (0xA8D55AA8F18D159D26B02536, .bdmaSt (rawWord 0)),
   (0xA9155AA8F18D159D26B02536, .xld (rawWord 0)),
   (0xA9555AA8F18D159D26B02536, .xst (rawWord 0)),
   (0xA9955AA8F18D159D26B02536, .zld (rawWord 0)),
   (0xA9D55AA8F18D159D26B02536, .zst (rawWord 0)),
   (0xAA155AA8F18D159D26B02536, .zadd (rawWord 0)),
   (0xAA555AA8F18D159D26B02536, .zsub (rawWord 0)),
   (0xAA955AA8F18D159D26B02536, .zmul (rawWord 0)),
   (0xAAD55AA8F18D159D26B02536, .zmin (rawWord 0)),
   (0xAB155AA8F18D159D26B02536, .zmax (rawWord 0)),
   (0xAB555AA8F18D159D26B02536, .zcmp (rawWord 0)),
   (0xAB955AA8F18D159D26B02536, .zsel (rawWord 0)),
   (0xABD55AA8F18D159D26B02536, .zcvt (rawWord 0))] ++
  [(0xAC155AA8F18D159D26B02536, .zbcast (rawWord 0)),
   (0xAC555AA8F18D159D26B02536, .zred (rawWord 0)),
   (0xAC955AA8F18D159D26B02536, .zmov (rawWord 0)),
   (0xACD55AA8F18D159D26B02536, .cmdend (rawWord 0))] : List (Nat × Instr)), rawDecode (BitVec.ofNat 96 x.1) = some x.2 := by decide
theorem test_opcodes_SYN : ∀ x ∈
  ([(0xB0155AA8F18D159D26B02536, .fence (rawWord 0)),
   (0xB0555AA8F18D159D26B02536, .ldAcq (rawWord 0)),
   (0xB0955AA8F18D159D26B02536, .stRel (rawWord 0)),
   (0xB0D55AA8F18D159D26B02536, .atomg (rawWord 0)),
   (0xB1155AA8F18D159D26B02536, .barArv (rawWord 0)),
   (0xB1555AA8F18D159D26B02536, .barWait (rawWord 0)),
   (0xB1955AA8F18D159D26B02536, .barSync (rawWord 0)),
   (0xB1D55AA8F18D159D26B02536, .barInit (rawWord 0)),
   (0xB2155AA8F18D159D26B02536, .sigAdd (rawWord 0)),
   (0xB2555AA8F18D159D26B02536, .sigWait (rawWord 0)),
   (0xB2955AA8F18D159D26B02536, .sigRd (rawWord 0))] : List (Nat × Instr)), rawDecode (BitVec.ofNat 96 x.1) = some x.2 := by decide
theorem test_opcodes_RGN : ∀ x ∈
  ([(0xC0155AA8F18D159D26B02536, .acqr (rawWord 0)),
   (0xC0555AA8F18D159D26B02536, .relr (rawWord 0)),
   (0xC0955AA8F18D159D26B02536, .wb (rawWord 0)),
   (0xC0D55AA8F18D159D26B02536, .inv (rawWord 0)),
   (0xC1155AA8F18D159D26B02536, .wbinv (rawWord 0)),
   (0xC1555AA8F18D159D26B02536, .pin (rawWord 0)),
   (0xC1955AA8F18D159D26B02536, .unpin (rawWord 0)),
   (0xC1D55AA8F18D159D26B02536, .rgnq (rawWord 0))] : List (Nat × Instr)), rawDecode (BitVec.ofNat 96 x.1) = some x.2 := by decide
theorem test_opcodes_POD : ∀ x ∈
  ([(0xD0155AA8F18D159D26B02536, .mqPush (rawWord 0)),
   (0xD0555AA8F18D159D26B02536, .mqPop (rawWord 0)),
   (0xD0955AA8F18D159D26B02536, .matom (rawWord 0)),
   (0xD0D55AA8F18D159D26B02536, .mred (rawWord 0)),
   (0xD1155AA8F18D159D26B02536, .mflagSet (rawWord 0)),
   (0xD1555AA8F18D159D26B02536, .mflagWait (rawWord 0)),
   (0xD1955AA8F18D159D26B02536, .colRs (rawWord 0)),
   (0xD1D55AA8F18D159D26B02536, .colAg (rawWord 0)),
   (0xD2155AA8F18D159D26B02536, .colWait (rawWord 0)),
   (0xD2555AA8F18D159D26B02536, .grpForm (rawWord 0)),
   (0xD2955AA8F18D159D26B02536, .grpStat (rawWord 0)),
   (0xD2D55AA8F18D159D26B02536, .replay (rawWord 0)),
   (0xD3155AA8F18D159D26B02536, .xchPush (rawWord 0)),
   (0xD3555AA8F18D159D26B02536, .lnkStat (rawWord 0))] : List (Nat × Instr)), rawDecode (BitVec.ofNat 96 x.1) = some x.2 := by decide
theorem test_opcodes_GRF : ∀ x ∈
  ([(0xE0155AA8F18D159D26B02536, .launch (rawWord 0)),
   (0xE0555AA8F18D159D26B02536, .launchg (rawWord 0)),
   (0xE0955AA8F18D159D26B02536, .nqPush (rawWord 0)),
   (0xE0D55AA8F18D159D26B02536, .nqFlush (rawWord 0)),
   (0xE1155AA8F18D159D26B02536, .nqStat (rawWord 0)),
   (0xE1555AA8F18D159D26B02536, .sigSet (rawWord 0))] : List (Nat × Instr)), rawDecode (BitVec.ofNat 96 x.1) = some x.2 := by decide
theorem test_opcodes_SYS : ∀ x ∈
  ([(0xF0155AA8F18D159D26B02536, .trap (rawWord 0)),
   (0xF0555AA8F18D159D26B02536, .rtt (rawWord 0)),
   (0xF0555AA8F18D159D66B02536, .rttNext (rawWord 1)),
   (0xF0555AA8F18D159DA6B02536, .rttEnd (rawWord 2)),
   (0xF0555AA8F18D159DE6B02536, .rttSaved (rawWord 3)),
   (0xF0955AA8F18D159D26B02536, .rttRpl (rawWord 0)),
   (0xF0D55AA8F18D159D26B02536, .ctxsv (rawWord 0)),
   (0xF1155AA8F18D159D26B02536, .ctxld (rawWord 0)),
   (0xF1555AA8F18D159D26B02536, .timer (rawWord 0)),
   (0xF1955AA8F18D159D26B02536, .timerrd (rawWord 0)),
   (0xF1D55AA8F18D159D26B02536, .snap (rawWord 0)),
   (0xF2155AA8F18D159D26B02536, .sysrd (rawWord 0)),
   (0xF2555AA8F18D159D26B02536, .syswr (rawWord 0)),
   (0xF2955AA8F18D159D26B02536, .scrub (rawWord 0))] : List (Nat × Instr)), rawDecode (BitVec.ofNat 96 x.1) = some x.2 := by decide

/-! Ill-formed words: one for each check of WellFormed (R55, ranks 2 and 3). -/

theorem test_wellFormed_accepts : wellFormed .compute (.iadd (word 1 2 3 0)) = true := by decide
theorem test_illFormed_event : wellFormed .compute (.mergeStep 0 0) = false := by decide
theorem test_illFormed_stream : wellFormed .access (.iadd (word 1 2 3 0)) = false := by decide
theorem test_illFormed_profile : wellFormed .stack (.nmx (word 1 2 3 0)) = false := by decide
theorem test_illFormed_reserved_mod : wellFormed .compute (.iadd (word 1 2 3 1)) = false := by decide
theorem test_illFormed_type : wellFormed .compute (.iadd (word 1 2 3 (tyMod 2))) = false := by decide
theorem test_illFormed_imm_type : wellFormed .compute (.iaddImm (iword 1 2 3 2)) = false := by decide
theorem test_illFormed_setf :
    wellFormed .compute (.iadd { word 1 2 3 0 with ctl := ctl 0x0F 0 0 13 0 }) = false := by decide
theorem test_illFormed_guard :
    wellFormed .compute (.merge { word 0 0 0 0 with ctl := ctl 0x01 0 0 0 0 }) = false := by decide
theorem test_illFormed_unused_b : wellFormed .compute (.ineg (word 1 2 3 0)) = false := by decide
theorem test_illFormed_wide_d_odd_constant :
    wellFormed .compute (.iadd (word 2 4 1 (tyMod 6 + 3 * 2 ^ 22))) = false := by decide
theorem test_illFormed_selector : wellFormed .stack (.iadd (word 1 2 3 (2 ^ 24))) = false := by decide
theorem test_illFormed_reuse_of_queue :
    wellFormed .compute (.iadd { word 1 2 3 (2 * 2 ^ 24) with ctl := ctl 0x0F 0 0 0 2 }) = false := by decide
theorem test_illFormed_entry : wellFormed .compute (.cvt (word 1 2 0 (tyMod 8 + 8 + 0x18000))) = false := by decide
theorem test_illFormed_stack_reuse :
    wellFormed .stack (.iadd { word 1 2 3 0 with ctl := ctl 0x0F 0 0 0 1 }) = false := by decide

/-! Decoding refuses by name, and a word in memory has its bytes in the order of R5 (the second worked encoding). -/

theorem test_decode_unallocated : decodeTableWord 96 0x3F_F000_0000_0000_0000_0000_00 = none := by decide
theorem test_decode_wrong_stream :
    (match decode .matrix 0x1040300FFFFFFFFC1E600000 with | .error x => decide (x = .illegalOpcode) | .ok _ => false) = true := by
  decide
theorem test_decode_reserved_bit :
    (match decode .compute 0x10001008030000005E000000 with | .error x => decide (x = .illegalForm) | .ok _ => false) = true := by
  decide
theorem test_decode_bytes_of_memory :
    rawDecode (wordOfBytes [0x28, 0x04, 0xA0, 0x26, 0x00, 0x00, 0x18, 0x07, 0x10, 0xA0, 0x40, 0x21]) =
      some (.fma ⟨10, 4, 7, 0x600000, ctl 0x13 5 0x002 1 2⟩) := by decide
theorem test_decode_iadd_imm :
    rawDecode 0x1040300FFFFFFFFC1E600000 = some (.iaddImm ⟨3, 3, 0xFFFFFFFF, 0, ctl 0x0F 3 0 0 0⟩) := by decide

/-! The statements on the step and on what every word has in common. -/

theorem test_meets_EncodedWordsDecodeBack : ∀ x ∈ ([(.compute, .iadd (word 1 2 3 0)), (.access, .aadd (word 1 2 3 (tyMod 6))),
    (.matrix, .mfence (word 0 0 0 0)), (.stack, .cmdend (word 0 0 0 0))] : List (Stream × Instr)),
    wellFormed x.1 x.2 = true := by decide
theorem test_meets_DecodedWordsEncodeBack :
    (match decode .stack 0xAA803004020900001E000000 with | .ok _ => true | .error _ => false) = true := by decide

theorem test_meets_StepRunsDecodedInstruction :
    (let s := State.reset.withFetchWord 96 0x1040300FFFFFFFFC1E600000
     let a : Actor := .compute 0 0 0
     let u : State := { s with agenda := [] }
     match siteOf u a with
     | none => false
     | some e => s.agenda == [.issue a] && !(e.st == .compute && timerTaken e.wp u.clk e.handler) &&
       match e.fetch e.pc with
       | .word x => (match decode e.st x with
         | .ok i => decide (i = .iaddImm ⟨3, 3, 0xFFFFFFFF, 0, ctl 0x0F 3 0 0 0⟩)
         | .error _ => false) && !(ctlOf x).pair
       | _ => false) = true := by decide
theorem test_meets_StepRunsDecodedInstruction_stack :
    (let s := State.reset.withFetchWord 96 0xAA803004020900001E000000
     let x := s.sc 0 0
     s.agenda == [.issue (.stackCore 0 0)] && decide (x.pc + 12 ≤ 32768) &&
       match decode .stack (wordOfBytes (x.imem.getBytes x.pc 12)) with
       | .ok i => decide (i = .zmul ⟨3, 1, 2, 0x240000, ctl 0x0F 0 0 0 0⟩)
       | .error _ => false) = true := by decide
/-- The last place at which a stack core's word stands in its instruction memory. -/
theorem test_meets_StepRunsDecodedInstruction_edge :
    (let x : SCore := bootStack {} (toLe 0xAA803004020900001E000000 12) 0
     let y : SCore := { x with pc := 32756, imem := x.imem.mapV id |>.putBytes 32756 (toLe 0xAA803004020900001E000000 12) }
     decide (y.pc + 12 ≤ 32768) && match decode .stack (wordOfBytes (y.imem.getBytes y.pc 12)) with
       | .ok _ => true
       | .error _ => false) = true := by decide

/-- A pair of an FADD and an IADD. -/
def pairFirst : RWord := { word 1 2 3 (tyMod 8) with ctl := { ctl 0x0F 0 0 0 0 with pair := true } }
def pairSecond : RWord := word 4 5 6 0
theorem test_meets_IssueRules_pair :
    (match siteOf compute (.compute 0 0 0) with
     | none => false
     | some e => legalPair .fadd .iadd (.r pairFirst) (.r pairSecond) && e.issuable && e.pairReady pairSecond.ctl &&
       match exec (.fadd pairFirst) { e.s with pairing := true } with
       | .next t => t.raised.isNone && (match exec (.iadd pairSecond) { t with pairing := true, second := true } with
         | .next u => u.raised.isNone
         | _ => false)
       | _ => false) = true := by decide

theorem test_meets_NoStepPassesAMissingAddress :
    (let s := State.reset.withFetchWord 96 0x1040300FFFFFFFFC1E600000
     s.bad.isNone && match step s with | .next _ => true | _ => false) = true := by decide

/-- A word whose split waits at a MERGE, and one of a stack core that runs nothing. -/
theorem test_meets_IssueRules_waits :
    (match envOf (withWarp (fun x => { x with splits := x.splits.mapV (fun p => { p with waiting := true }) })) .iadd
        (.r (word 1 2 3 0)) with
     | some e => !e.issuable
     | none => false) = true ∧
    (match senvOf (withSc (fun x => { x with job := .idle })) .nop (.r (word 0 0 0 0)) with
     | some e => !e.issuable
     | none => false) = true := by decide

/-- The ranks of R55: a form that the kernel decides (3), a PAIR that is not the first of a legal pair (4), V1023 of N = 1023 registers
(5), and a result in flight under SCHEDCHK (6). -/
def trapped (i : Instr) (s : State) (r : Nat) (c : Cause) : Bool :=
  match fnOf i with
  | none => false
  | some f => match envOf s f (bodyOf i) with
    | none => false
    | some e => e.issuable && s.bad.isNone && !e.handler && e.k.halt.isNone &&
      match e.trap with
      | some (n, x) => n == r && x.cause == c
      | none => false
def narrow (n : Nat) : State := withCore (.compute 0 0 0) (fun k => { k with block := some { kernel := { bootKernel with n := n } } })
def checked : State := withCore (.compute 0 0 0) (fun k =>
  { k with block := some { kernel := { bootKernel with check := true } },
           pends := [{ due := 4, party := .compute 0, flag := 0, wrs := [.v 0 2 [(0, 7)] 1] }] })
theorem test_meets_IssueRules_traps :
    trapped (.iadd (word 1 2 3 (tyMod 2))) compute 3 .illegalForm = true ∧
    trapped (.iadd pairFirst) compute 3 .illegalForm = true ∧
    trapped (.fadd pairFirst) compute 4 .illegalPair = true ∧
    trapped (.iadd (word 1023 2 3 0)) (narrow 1023) 5 .regRange = true ∧
    sited (.iadd (word 1022 2 3 0)) (narrow 1023) (fun _ => true) = true ∧
    trapped (.iadd (word 1 2 3 0)) checked 6 .schedCheck = true := by decide
theorem test_meets_IssueRules_traps_stack :
    (match senvOf stackBase .iadd (.r (word 32 1 2 0)) with
     | some e => validIn .stack .iadd && e.issuable && e.trap.isSome && stackBase.bad.isNone
     | none => false) = true ∧
    stacked (.iadd (word 31 1 2 0)) stackBase (fun _ => true) = true := by decide
theorem test_meets_IssueRules_frame : sited (.iadd (word 1 2 3 0)) compute (fun e => e.st == .compute) = true := by decide

/-! Class CTL. -/

theorem test_meets_PredicateWords :
    (∀ f ∈ predForms, acts (f.1 (word 1 2 0 0)) compute (fun _ => true) = true) ∧
    acts (.p2v (word 1 15 0 0)) compute (fun _ => true) = true ∧
    acts (.v2p (word 14 2 0 0)) compute (fun e => e.badCheck.isNone) = true ∧
    (∀ m ∈ [0, 1, 2, 3], acts (.vote (word 0 1 0 m)) compute (fun _ => true) = true) := by decide
theorem test_meets_PredicateWords_stack :
    sited (.pushp (word 0 1 0 0)) (handling .trap) (fun e => e.handler) = true ∧
    sited (.pushp (word 0 1 0 0)) (onSplit0 (fun p => { p with depth := 16 })) (fun e => !e.handler && decide (16 ≤ e.depth)) = true ∧
    sited (.popp (word 0 0 0 0)) compute (fun e => !e.handler && decide (e.depth = 0)) = true ∧
    sited (.pushp (word 0 1 0 0)) (onSplit0 (fun p => { p with depth := 15 })) (fun e => !e.handler && decide (e.depth = 15)) = true ∧
    sited (.invp (word 0 0 0 0)) (onSplit0 (fun p => { p with depth := 1 })) (fun e => !e.handler && decide (e.depth = 1)) = true := by
  decide

/-- A table of one entry at 0x100, in S2 and S3, whose target 0x10C has a landing NOP; an index in S1. -/
def tabled (header offset : Nat) (i : Word) : State :=
  let s := withWarp (fun x => { x with s := (x.s.put 1 i 0).put 2 0x100 0 })
  { s with hbm := ((s.hbm.putNum 0x30100 4 header).putNum 0x30104 4 offset).putNum 0x3010C 12 0x5E000000 }
def brxWord : RWord := word 0 1 2 (2 ^ 24 + 2 ^ 22)

theorem test_meets_WholeSplitTransfers :
    acts (.bra (iword 0 0 3 0)) compute (fun e => decide (e.exec = e.act)) = true ∧
    acts (.bra (iword 0 0 3 0)) (handling .trap) (fun e => e.handler) = true ∧
    acts (.call (iword 0 0 3 0)) (onSplit0 (fun p => { p with rets := List.replicate 16 0 }))
      (fun e => decide (e.exec = e.act) && decide (e.retLimit ≤ e.rets.length)) = true ∧
    acts (.call (iword 0 0 3 0)) (onSplit0 (fun p => { p with rets := List.replicate 15 0 }))
      (fun e => decide (e.exec = e.act) && decide (e.rets.length < e.retLimit)) = true ∧
    acts (.ret (word 0 0 0 0)) compute (fun e => decide (e.exec = e.act) && decide (e.rets = [])) = true ∧
    acts (.ret (word 0 0 0 0)) (onSplit0 (fun p => { p with rets := [12] })) (fun e => decide (e.exec = e.act) && decide (e.rets = [12])) =
      true := by decide
theorem test_meets_WholeSplitTransfers_indirect :
    acts (.brx brxWord) (tabled 1 1 0) (fun e => decide (e.exec = e.act) && match e.indirect with
      | .ok a => a == 0x10C
      | .error _ => false) = true ∧
    acts (.brx brxWord) (tabled 1 1 1) (fun e => decide (e.exec = e.act) && match e.indirect with
      | .ok _ => false
      | .error x => x.cause == .targetRange) = true ∧
    acts (.callx brxWord) (tabled 1 1 0) (fun e => decide (e.exec = e.act) && decide (e.rets.length < e.retLimit) &&
      match e.indirect with
      | .ok a => a == 0x10C
      | .error _ => false) = true := by decide
/-- The corners of a table: its end, a header with a high half, a target without a landing NOP, a table out of reach. -/
theorem test_meets_WholeSplitTransfers_table :
    acts (.brx brxWord) (tabled 1 1 0) (fun e => e.srcB true 0 % 4 == 0 && e.tableWord (e.srcB true 0) == some 1 &&
      decide (e.srcA false 0 < 1) && e.tableWord (e.srcB true 0 + 4) == some 1) = true ∧
    acts (.brx brxWord) (tabled 1 1 1) (fun e => e.tableWord (e.srcB true 0) == some 1 && decide (1 ≤ e.srcA false 0)) = true ∧
    acts (.brx brxWord) (tabled 0x10001 1 0) (fun e => e.tableWord (e.srcB true 0) == some 0x10001) = true ∧
    acts (.brx brxWord) (tabled 1 2 0) (fun e => match e.indirect with
      | .ok _ => false
      | .error x => x.cause == .targetLand) = true ∧
    acts (.brx { brxWord with b := 4 }) (tabled 1 1 0 |>.onWarp 0 0 (fun x => { x with s := x.s ++ [(4, 0x100000)] }))
      (fun e => (e.tableWord (e.srcB true 0)).isNone) = true ∧
    acts (.brx { brxWord with b := 4 }) (tabled 1 1 0 |>.onWarp 0 0 (fun x => { x with s := x.s ++ [(4, 0x102)] }))
      (fun e => e.srcB true 0 % 4 == 2) = true := by decide

def deferred : Deferral := ⟨false, 0, 0, 0⟩
theorem test_meets_SplitsDivideMergeAndEnd_branch :
    (let i : Instr := .bra (guardedI 1 (iword 0 0 3 0))
     let h (e : Env) : Bool := !e.handler && decide (e.exec ≠ e.act) && e.st == .compute
     acts i lowHalf (fun e => h e && e.wp.splits.firstFree 0 4 == some 1 &&
       (e.wp.splits.find e.slot).any (fun p => p.defer.isEmpty)) &&
     acts i (onSplit0 (fun p => { p with defer := List.replicate 3 deferred })) (fun e => h e &&
       (e.wp.splits.find e.slot).any (fun p => p.defer.length == 3)) &&
     acts i (lowHalf.onWarp 0 0 (fun x => { x with splits := x.splits ++ [(1, {}), (2, {}), (3, {})] })) (fun e => h e &&
       e.wp.splits.firstFree 0 4 == none && (e.wp.splits.find e.slot).any (fun p => p.defer.isEmpty)) &&
     acts i (onSplit0 (fun p => { p with defer := List.replicate 4 deferred })) (fun e => h e &&
       (e.wp.splits.find e.slot).any (fun p => p.defer.length == 4))) = true := by decide
theorem test_meets_SplitsDivideMergeAndEnd_transfers :
    sited (.bru (iword 0 0 3 0)) lowHalf (fun e => decide (e.act ≠ 0)) = true ∧
    sited (.bru (guardedI 1 (iword 0 0 3 1))) lowHalf (fun e => decide (e.exec ≠ e.act)) = true ∧
    (∀ x ∈ [0, 1, 2], acts (.loop (iword 0 5 3 0)) (withWarp (fun y => { y with s := y.s.put 5 (BitVec.ofNat 32 x) 0 }))
      (fun e => (e.wp.s.get 5 0).toNat == x) = true) ∧
    sited (.nop (word 0 0 0 1)) compute (fun _ => true) = true ∧
    (∀ n ∈ [0, 255], acts (.yield (word 0 0 0 n)) compute (fun _ => true) = true) := by decide
theorem test_meets_SplitsDivideMergeAndEnd_merge :
    (∀ i ∈ [Instr.merge (word 0 0 0 0), .exit (word 0 0 0 0)], sited i (handling .trap) (fun e => e.handler) = true) ∧
    (∀ d ∈ ([[], [deferred], [⟨true, 0xFF00, 0, 0⟩]] : List (List Deferral)),
      sited (.merge (word 0 0 0 0)) (onSplit0 (fun p => { p with defer := d })) (fun e => !e.handler && e.st == .compute &&
        (e.wp.splits.find e.slot).any (fun p => p.defer == d && p.pc == e.pc && p.depth == 0)) = true) ∧
    (let s := onSplit0 (fun p => { p with waiting := true })
     s.bad.isNone && ((s.core 0).warp 0).splits.length == 1 && ((s.core 0).warp 0).splits.all (fun p => p.2.waiting)) = true ∧
    (∀ g ∈ ([0x0F, 1] : List (BitVec 5)), acts (.exit (guarded g (word 0 0 0 0))) lowHalf (fun e => !e.handler && e.st == .compute &&
      (e.wp.splits.find e.slot).any (fun p => p.defer.isEmpty) && e.wp.pendings.isEmpty && e.k.tagerr == 0) = true) := by decide
theorem test_meets_ControlAndIntegerWordsOnStackCores_control :
    (∀ i ∈ [Instr.bra (iword 0 0 3 0), .bru (iword 0 0 3 0), .call (iword 0 0 3 0), .loop (iword 0 3 3 0), .exit (word 0 0 0 0),
      .nop (word 0 0 0 0)], stacked i stackBase (fun e => decide (e.sc.rets.length < 16)) = true) ∧
    stacked (.call (iword 0 0 3 0)) (withSc (fun x => { x with rets := List.replicate 15 0 })) (fun e => e.sc.rets.length == 15) = true ∧
    stacked (.ret (word 0 0 0 0)) (withSc (fun x => { x with rets := [24] })) (fun e => e.sc.rets == [24]) = true ∧
    (match senvOf stackBase .iadd (.r (guarded 0 (word 1 2 3 0))) with
     | some e => e.issuable && e.trap.isNone && !e.act
     | none => false) = true := by decide

/-! Class INT: the statements' hypotheses, and worked examples. -/

/-- The core of a word's block after the word has issued and every result of fixed latency has landed. -/
def landed (i : Instr) (s : State) : Core :=
  match exec i s with
  | .next t => (t.core 0).landDue (s.clk + 100)
  | _ => {}
/-- Lane `l` of a register after a word, and its tag. -/
def laneAfter (i : Instr) (s : State) (r l : Nat) : Word := (((landed i s).warp 0).vreg r).lane l
def tagAfter (i : Instr) (s : State) (r : Nat) : BitVec 4 := (((landed i s).warp 0).vreg r).tag

/-- A register with the given lanes under a tag. -/
def reg (tag : BitVec 4) (xs : List Nat) : VReg := { w := xs.zipIdx.foldl (fun m x => m.put x.2 (BitVec.ofNat 32 x.1) 0) [], tag := tag }
def withRegs (v : List (Nat × VReg)) (s : List (Nat × Word)) : State := withWarp (fun x => { x with v, s, p := [(0, 0xFFFB), (1, 0xFF)] })

/-- The four integer TYPEs, and a word of each that names pairs. -/
def intTypes : List Nat := [0, 1, 6, 7]

theorem test_meets_IntegerArithmeticIsExact : 
    (∀ f ∈ arithForms, ∀ ty ∈ [0, 6], acts (f.form (word 2 4 0 (tyMod ty))) compute (fun e => e.badCheck.isNone) = true) ∧
    (∀ ty ∈ [1, 7], acts (.imad (word 2 4 0 (tyMod ty))) compute (fun e => e.badCheck.isNone) = true) := by decide
theorem test_meets_IntegerLogicAddressAndUniformWords_logic : ∀ f ∈ logicForms, ∀ ty ∈ intTypes,
    acts (f.form (word 2 4 0 (tyMod ty))) compute (fun e => e.badCheck.isNone) = true := by decide
theorem test_meets_IntegerLogicAddressAndUniformWords_fields : (∀ f ∈ bitForms, ∀ ty ∈ [0, 1],
    acts (f.form (word 2 4 0 (tyMod ty))) compute (fun e => (intBad e.fn e).isNone) = true) ∧
    acts (.bfe (word 2 4 5 0)) (withRegs [(5, { bad := [(1, {})] })] []) (fun e => (intBad e.fn e).isNone && e.badCheck.isSome) = true := by decide
theorem test_meets_IntegerLogicAddressAndUniformWords_immediates : ∀ f ∈ immForms, ∀ ty ∈ intTypes,
    acts (f.form (iword 2 (if f.form (iword 0 0 0 0) = .movImm (iword 0 0 0 0) then 0 else 4) 0xFFFFFFFF ty)) compute
      (fun e => e.badCheck.isNone) = true := by decide
theorem test_meets_IntegerLogicAddressAndUniformWords_compares :
    (∀ cc ∈ [0, 5], acts (.icmp (word (16 * cc + 14) 4 6 0)) compute (fun e => e.badCheck.isNone) = true ∧
      acts (.icmpImm (iword (16 * cc) 4 0x80000000 7)) compute (fun e => e.badCheck.isNone) = true) ∧
    (∀ ty ∈ [0, 1, 6], acts (.lea (word 2 4 6 (tyMod ty + 7))) compute (fun e => e.badCheck.isNone) = true ∧
      acts (.leaImm (iword 2 4 0x80000000 ty)) compute (fun e => e.badCheck.isNone) = true) ∧
    acts (.vread (word 2 4 1 (2 ^ 22))) compute (fun e => (badTrap (BitVec.ofNat 64 (2 ^ (e.srcB false 0 % e.width))) 3 e.sourcesA).isNone) =
      true ∧
    acts (.vwrite (word 2 4 1 (2 ^ 24 + 2 ^ 22 + tyMod 7))) compute (fun _ => true) = true := by decide
theorem test_meets_IntegerLogicAddressAndUniformWords_uniform :
    (∀ f ∈ uniformForms, ∀ ty ∈ intTypes, acts (f.form (word 2 4 0 (2 ^ 24 + (if f.form (word 0 0 0 0) = .smov (word 0 0 0 0) then 0
      else 2 ^ 22) + tyMod ty))) compute (fun _ => true) = true) ∧
    (∀ f ∈ uniformImmForms, ∀ ty ∈ intTypes, acts (f.form (iword 2 (if f.form (iword 0 0 0 0) = .smovImm (iword 0 0 0 0) then 0 else 4)
      0xFFFFFFFF ty)) compute (fun _ => true) = true) ∧
    (∀ cc ∈ [0, 5], acts (.scmp (word 2 4 6 (2 ^ 24 + 2 ^ 22 + cc))) compute (fun _ => true) = true) := by decide
theorem test_meets_ControlAndIntegerWordsOnStackCores_integer :
    (∀ f ∈ arithForms ++ logicForms ++ bitForms, stacked (f.form (word 2 4 0 0)) stackBase (fun _ => true) = true) ∧
    (∀ f ∈ immForms, stacked (f.form (iword 2 (if f.form (iword 0 0 0 0) = .movImm (iword 0 0 0 0) then 0 else 4) 31 6)) stackBase
      (fun _ => true) = true) ∧
    stacked (.icmp (word 0x53 4 6 0)) stackBase (fun _ => true) = true ∧
    stacked (.icmpImm (iword 3 4 6 0)) stackBase (fun _ => true) = true ∧
    stacked (.lea (word 2 4 6 7)) stackBase (fun _ => true) = true ∧
    stacked (.leaImm (iword 2 4 6 1)) stackBase (fun _ => true) = true := by decide

/-- The saturating add of file 05: lane 0 is clamped, lane 1 is not, lane 2 is off under P0; then the same add wraps. -/
def satState : State := withRegs [(6, reg 1 [0x7FFFFFF0, 5, 0x7FFFFFFF]), (8, reg 1 [1, 1, 9])] [(2, 0x20)]
def satAdd : RWord := guarded 0 (word 8 6 2 (2 ^ 22 + 0x4000))
theorem test_iadd_sat : laneAfter (.iadd satAdd) satState 8 0 = 0x7FFFFFFF ∧ laneAfter (.iadd satAdd) satState 8 1 = 0x25 ∧
    laneAfter (.iadd satAdd) satState 8 2 = 9 ∧ ((landed (.iadd satAdd) satState).warp 0).flags = 0x20 := by decide
theorem test_iadd_wraps : laneAfter (.iadd (word 9 6 2 (2 ^ 22))) satState 9 0 = 0x80000010 ∧
    laneAfter (.iadd (word 9 6 2 (2 ^ 22))) satState 9 2 = 0x8000001F ∧
    ((landed (.iadd (word 9 6 2 (2 ^ 22))) satState).warp 0).flags = 0 := by decide

/-- LEA.I32.X8 V20, V16, S5 of file 05. -/
theorem test_lea : let s := withRegs [(16, reg 5 [0x1000]), (17, reg 5 [0x7F00])] [(5, 0xFFFFFFFE)]
    laneAfter (.lea (word 20 16 5 0x400003)) s 20 0 = 0xFF0 ∧ laneAfter (.lea (word 20 16 5 0x400003)) s 21 0 = 0x7F00 ∧
      tagAfter (.lea (word 20 16 5 0x400003)) s 20 = 5 := by decide
theorem test_imulhi_signed : let s := withRegs [(1, reg 0 [0xFFFFFFFF]), (2, reg 0 [2])] []
    laneAfter (.imulhi (word 3 1 2 0)) s 3 0 = 0xFFFFFFFF ∧ laneAfter (.imulhi (word 3 1 2 (tyMod 1))) s 3 0 = 1 := by decide
theorem test_imad_64 : let s := withRegs [(2, reg 0 [0xFFFFFFFF]), (4, reg 0 [0xFFFFFFFF]), (6, reg 0 [1])] []
    laneAfter (.imad (word 6 2 4 (tyMod 7))) s 6 0 = 2 ∧ laneAfter (.imad (word 6 2 4 (tyMod 7))) s 7 0 = 0xFFFFFFFE := by decide
theorem test_shr_full_width : let s := withRegs [(1, reg 1 [0x80000000]), (2, reg 1 [32])] []
    laneAfter (.shr (word 3 1 2 0)) s 3 0 = 0xFFFFFFFF ∧ laneAfter (.shr (word 3 1 2 (tyMod 1))) s 3 0 = 0 := by decide
theorem test_bfe_signed : let s := withRegs [(1, reg 0 [0xF0]), (2, reg 0 [0x404])] []
    laneAfter (.bfe (word 3 1 2 0)) s 3 0 = 0xFFFFFFFF ∧ laneAfter (.bfe (word 3 1 2 (tyMod 1))) s 3 0 = 0xF := by decide
theorem test_counts_of_zero : laneAfter (.clz (word 3 1 0 0)) compute 3 0 = 32 ∧ laneAfter (.ctz (word 3 1 0 0)) compute 3 0 = 32 := by decide

/-! Classes FLT, CVT, PKX and the cross-lane instructions. -/

/-- No tag or poison trap of the sources of A (and B) under a TYPE. -/
def noTags (e : Env) (ta tb : BitVec 4) : Bool :=
  (tagTrap 1 ta e.sourcesA).isNone && (tagTrap 2 tb e.sourcesB).isNone && (badTrap e.act 3 e.sourcesA).isNone &&
    (badTrap e.act 3 e.sourcesB).isNone

theorem test_meets_FloatWords_rounding : ((-1 : Int) < 0 ∧ (-149 : Int) < 127) := by decide
theorem test_meets_FloatWords_elements :
    (∀ f ∈ floatForms, acts (f.form (word 2 4 0 (tyMod 8))) compute (fun e => (e.typeCheck (tagOf 8)).isNone) = true) ∧
    (∀ f ∈ packedForms, ∀ ty ∈ [2, 3, 4, 5], acts (f.form (word 2 4 6 (tyMod ty))) compute
      (fun e => (e.typeCheck (tagOf ty)).isNone) = true) := by decide
theorem test_meets_FloatImmediatesComparesAndFlags_compares :
    (∀ ty ∈ [8, 9, 10], (∀ i ∈ [Instr.faddImm (iword 2 4 0x3F800000 ty), .fmulImm (iword 2 4 0x3F800000 ty)],
      acts i compute (fun e => (e.typeCheck (tagOf ty)).isNone) = true) ∧
      acts (.fcmpImm (iword 0x72 4 0x3F800000 ty)) compute (fun e => (tagTrap 1 (tagOf ty) e.sourcesA).isNone &&
        (badTrap e.act (halvesUsed (tyWidth ty) 0 1) e.sourcesA).isNone) = true) ∧
    (∀ x ∈ [(8, 0), (9, 1), (11, 3)], acts (.fcmp (word 0x02 4 6 (tyMod x.1 + x.2))) compute (fun e => noTags e (tagOf x.1) (tagOf x.1)) =
      true ∧ acts (.fclass (word 2 4 0 (tyMod x.1 + x.2))) compute (fun e => (tagTrap 1 (tagOf x.1) e.sourcesA).isNone &&
        (badTrap e.act 3 e.sourcesA).isNone) = true) := by decide
theorem test_meets_FloatImmediatesComparesAndFlags_flags :
    acts (.flgrd (word 3 0 0 0)) compute (fun _ => true) = true ∧ acts (.flgwr (word 0 3 0 (2 ^ 24))) compute (fun _ => true) = true ∧
    acts (.flgclr (word 0 3 0 (2 ^ 24))) compute (fun _ => true) = true := by decide
theorem test_meets_FloatWords_special :
    isNaN (decodeF (fmtOf 8) 0x7FC00000) = true ∧ decodeF (fmtOf 9) 0x7C00 = .inf false ∧ decodeF (fmtOf 9) 0xFC00 = .inf true ∧
    (match decodeF (fmtOf 12) 0 with | .fin _ 0 _ => true | _ => false) = true ∧ decodeF (fmtOf 12) 0x7C = .inf false := by decide
theorem test_meets_ConversionPackAndDotWords_conversion :
    acts (.cvt (word 7 3 0 0x2C4108)) compute (fun e => (tagTrap 1 (tagOf 8) e.sourcesA).isNone && (badTrap e.act 3 e.sourcesA).isNone) =
      true ∧
    acts (.cvt (word 7 3 0 (tyMod 9 + 0x8000 + 8))) compute (fun e => (tagTrap 1 (tagOf 8) e.sourcesA).isNone) = true ∧
    acts (.qcvt (word 7 3 5 (tyMod 11 + 0x80))) compute (fun e => noTags e 6 12) = true ∧
    acts (.dqcvt (word 7 3 5 (tyMod 10 + 11))) compute (fun e => noTags e (tagOf 11) 12) = true := by decide
theorem test_meets_ConversionPackAndDotWords_pack :
    acts (.pack (word 7 3 5 (tyMod 9))) compute (fun e => noTags e (tagOf 9) (tagOf 9)) = true ∧
    (∀ h ∈ [0, 1], acts (.unpack (word 7 3 0 (tyMod 9 + h))) compute (fun e => (tagTrap 1 (tagOf 9) e.sourcesA).isNone &&
      (badTrap e.act 3 e.sourcesA).isNone) = true) ∧
    acts (.scale (word 7 3 0 (tyMod 11))) compute (fun e => (tagTrap 1 6 e.sourcesA).isNone && e.badCheck.isNone) = true ∧
    acts (.amax (word 7 3 0 (tyMod 8))) compute (fun e => (tagTrap 1 (tagOf 8) e.sourcesA).isNone && e.badCheck.isNone) = true ∧
    acts (.srseed (word 0 3 0 0)) compute (fun e => e.badCheck.isNone) = true := by decide
theorem test_meets_ConversionPackAndDotWords_dot :
    (∀ x ∈ [(Instr.dot4 (word 7 3 5 (tyMod 4)), 4), (.dot8 (word 7 3 5 (tyMod 14)), 14), (.dot2 (word 7 3 5 (tyMod 2)), 2)],
      acts x.1 compute (fun e => (tagTrap 0 1 e.sourcesD).isNone && noTags e (tagOf x.2) (tagOf x.2) && e.badCheck.isNone) = true) ∧
    (∀ i ∈ [Instr.shrRnd (word 7 3 5 0), .shrSat (word 7 3 5 (tyMod 2 + 0x80 + 1))],
      acts i (withRegs [(5, reg 1 [31])] []) (fun e => noTags e 1 1 && e.badCheck.isNone) = true) ∧
    acts (.shrRndImm (iword 7 3 31 0)) compute (fun e => (tagTrap 1 1 e.sourcesA).isNone && e.badCheck.isNone) = true := by decide
theorem test_meets_CrossLaneWords_moves :
    (∀ fill ∈ [0, 1, 2], acts (.slide (word 7 3 5 (tyMod 2 + 2 ^ 22 + fill * 2 ^ 12 + (if fill = 2 then 9 else 0)))) compute (fun e =>
      (firstTrap [tagTrap 1 (tagOf 2) e.sourcesA, tagTrap 3 (tagOf 2) (if fill = 2 then [e.wp.vreg 9] else []),
        badElems 16 (slideElems 16 (e.width * 2) fill false 3 e.active) e.sourcesA,
        badElems 16 (slideElems 16 (e.width * 2) fill true 3 e.active) (if fill = 2 then [e.wp.vreg 9] else [])]).isNone) = true) ∧
    acts (.slideImm (iword 7 3 0xFFFFFFFF 2)) compute (fun e => (firstTrap [tagTrap 1 (tagOf 2) e.sourcesA,
      badElems 16 (slideElems 16 (e.width * 2) 0 false (-1) e.active) e.sourcesA]).isNone) = true ∧
    acts (.shfl (word 7 3 5 (tyMod 8))) compute (fun e => noTags e (tagOf 8) 0 &&
      (badLanes (e.active.map (fun l => shuffled e.width (e.srcB false l) l)) e.sourcesA).isNone) = true ∧
    acts (.shflImm (iword 7 3 0x301 8)) compute (fun e => (tagTrap 1 (tagOf 8) e.sourcesA).isNone &&
      (badLanes (e.active.map (fun l => shuffled e.width 0x301 l)) e.sourcesA).isNone) = true ∧
    (∀ x ∈ [0, 8], acts (.bcast (word 7 3 5 (tyMod 2 + 2 ^ 22 + x))) compute (fun e => (tagTrap 1 (tagOf 2) e.sourcesA).isNone &&
      let n := e.srcB false 0 % e.width
      if x = 0 then (badLanes [n] e.sourcesA).isNone else (badElems 16 [n * 2] e.sourcesA).isNone) = true) := by decide
theorem test_meets_CrossLaneWords_reductions :
    (∀ ty ∈ [0, 8], acts (.red (word 7 3 0 (tyMod ty))) compute (fun e => (tagTrap 1 (tagOf ty) e.sourcesA).isNone && e.badCheck.isNone &&
      e.width == 16) = true) ∧
    (∀ x ∈ [0, 8], acts (.scan (word 7 3 0 (tyMod 0 + x))) compute (fun e => (tagTrap 1 (tagOf 0) e.sourcesA).isNone &&
      e.badCheck.isNone) = true) := by decide
theorem test_meets_TopKLists :
    (∀ k ∈ [0, 7], acts (.topkClr (word 40 0 0 (tyMod 8 + k))) compute (fun _ => true) = true ∧
      acts (.topkIns (word 40 3 5 (tyMod 8 + k))) compute (fun e => noTags e (tagOf 8) 1 && e.badCheck.isNone &&
        (List.range (k + 1)).all (fun j => (tagTrap 3 (tagOf 8) [e.wp.vreg (40 + 2 * j)]).isNone &&
          (tagTrap 3 1 [e.wp.vreg (41 + 2 * j)]).isNone)) = true) := by decide

/-- The conversions of file 06: 500.0 saturates and 0.1 rounds to E4M3; 250.0 is quantised to 256 under scale 4.0. -/
def cvtState : State := withRegs [(3, reg 6 [0x43FA0000, 0x3DCCCCCD])] []
theorem test_cvt_e4m3 : laneAfter (.cvt (word 7 3 0 0x2C4108)) cvtState 7 0 = 0x007E0000 ∧
    laneAfter (.cvt (word 7 3 0 0x2C4108)) cvtState 7 1 = 0x001D0000 := by decide
theorem test_cvt_e4m3_flags : ((landed (.cvt (word 7 3 0 0x2C4108)) cvtState).warp 0).flags = BitVec.ofNat 32 (fQSAT + fNX) := by decide
theorem test_scale_e4m3 : scaleCode 11 (decodeF (fmtOf 8) 0x447A0000) = 0x81 ∧ scaleCode 11 (decodeF (fmtOf 8) 0xC47A0000) = 0 := by decide
theorem test_qcvt_e4m3 : (convOne 11 0 false false (scaleDown (decodeF (fmtOf 8) 0x447A0000) 0x81) 0).val = 0x78 := by decide

/-- R137: under SAT a widening conversion of an integer extends, a narrowing one clamps; R141: EXP2 overflows with OF and NX, whatever
the mode. -/
theorem test_cvt_integers : convElem 3 4 0 false true 0xFF 0 = ⟨0xFFFF, 0, 0⟩ ∧ (convElem 4 2 0 false true 0x1234 0).val = 0x7F := by decide
theorem test_exp2_overflow : (exp2F .rz false 0x43800000).2 = fOF + fNX := by decide +kernel

/-- CVT.BF16.SR of 1 + 2^−9 with generator 1 (file 03). -/
theorem test_cvt_sr : xorshift 1 = 0x00042021 ∧ xorshift 0x00042021 = 0x04080601 ∧
    laneAfter (.cvt (word 7 3 0 (tyMod 10 + 0x8000 + 8))) ((withRegs [(3, reg 6 [0x3F804000])] []).onWarp 0 0 (fun x => { x with gen := [(0, 1)] }))
      7 0 = 0x3F80 := by decide

/-- SHR.RND and SHR.SAT of file 08. -/
theorem test_shr_rnd : shiftRound .rn (-6) 2 = -2 ∧ shiftRound .rn 10 2 = 2 ∧ shiftRound .rn 14 2 = 4 := by decide
theorem test_shr_sat : let s := withRegs [(3, reg 1 [0x00123456]), (5, reg 1 [4])] []
    laneAfter (.shrSat (word 7 3 5 (tyMod 2 + 1))) s 7 0 = 0x7FFF ∧ ((landed (.shrSat (word 7 3 5 (tyMod 2 + 1))) s).warp 0).flags = 0x20 := by
  decide

/-- SLIDE of file 08: element j of V2 holds j, of V3 32 + j. -/
def slideState (n : Word) : State :=
  withRegs [(2, reg 2 ((List.range 16).map (fun l => 2 * l + (2 * l + 1) * 2 ^ 16))),
    (3, reg 2 ((List.range 16).map (fun l => 32 + 2 * l + (33 + 2 * l) * 2 ^ 16)))] [(3, n)]
def slideWord (fill : Nat) : RWord := word 4 2 3 (tyMod 2 + 2 ^ 22 + fill * 2 ^ 12 + (if fill = 2 then 3 else 0))
theorem test_slide : laneAfter (.slide (slideWord 2)) (slideState 1) 4 0 = 0x00020001 ∧
    laneAfter (.slide (slideWord 2)) (slideState 1) 4 15 = 0x0020001F ∧ laneAfter (.slide (slideWord 0)) (slideState 1) 4 15 = 0x1F ∧
    laneAfter (.slide (slideWord 1)) (slideState 1) 4 15 = 0x001F001F := by decide
theorem test_slide_back : laneAfter (.slide (slideWord 2)) (slideState 0xFFFFFFFF) 4 0 = 0x0000003F := by decide

/-- The third insertion into the list of file 08: an equal value goes below. -/
theorem test_topk_ins : let s := withRegs [(3, reg 6 [0x3F000000]), (5, reg 1 [2]), (40, reg 6 [0x40000000]), (41, reg 1 [1]),
      (42, reg 6 [0x3F000000]), (43, reg 1 [0]), (44, reg 6 [0xFF800000]), (45, reg 1 [0xFFFFFFFF])] []
    laneAfter (.topkIns (word 40 3 5 (tyMod 8 + 2))) s 44 0 = 0x3F000000 ∧ laneAfter (.topkIns (word 40 3 5 (tyMod 8 + 2))) s 45 0 = 2 ∧
    laneAfter (.topkIns (word 40 3 5 (tyMod 8 + 2))) s 43 0 = 0 := by decide +kernel

/-- F32 arithmetic: 1 + 2^−24 is a tie that goes to even; overflow goes to infinity with OF and NX. -/
theorem test_fadd_tie : addF (fmtOf 8) .rn false 0x3F800000 0x33800000 = (0x3F800000, fNX) := by decide
theorem test_fmul_overflow : mulF (fmtOf 8) .rn false 0x7F7FFFFF 0x40000000 = (0x7F800000, fOF + fNX) := by decide
theorem test_fma_exact_product : fmaF (fmtOf 8) .rn false 0x3F800001 0x3F800001 0xBF800002 = (0x28800000, 0) := by decide
theorem test_fmin_zero_signs : (minMaxF (fmtOf 8) false false 0x00000000 0x80000000).1 = 0x80000000 := by decide
theorem test_exp2_log2_exact : exp2F .rn false 0x40400000 = (0x41000000, 0) ∧ log2F .rn false 0x41000000 = (0x40400000, 0) := by decide +kernel

/-! Class ACC and the queues. -/

def accessBase : State := base (.access 0 0)
def withQueue (a : Actor) (q : Nat) (x : Queue) : State := (base a).onWarp 0 0 (fun w => { w with queues := [(q, x)] })

/-- A queue with one FULL entry at its head, whose lanes hold 4 l; and one of a given count whose head is free. -/
def oneFull : Queue := { slots := [(0, { st := .full, reg := reg 1 ((List.range 16).map (4 * ·)) })], head := 0, tail := 1, count := 1 }

/-- Core 0 with an operation in flight, number 0, of a stream, for the lanes given. -/
def opIn (fn : Fn) (body : Body) (party : Party) (lanes : Lanes) (stage : Stage) : Op :=
  { id := 0, party := party, slot := 0, fn := fn, body := body, pc := 0, since := 0, flag := 1, stage := stage, lanes := lanes }
def withOp (o : Op) : State := withCore .outside (fun k => { k with ops := [o], lastOp := 1 })

theorem test_meets_AccessScalarInstructions :
    (∀ f ∈ accForms, acts (f.1 (word 1 2 (if f.1 (word 0 0 0 0) = .amov (word 0 0 0 0) then 0 else 3) (tyMod 7))) accessBase
      (fun _ => true) = true) ∧
    (∀ ty ∈ [6, 7], acts (.aaddImm (iword 1 2 0xFFFFFFFF ty)) accessBase (fun _ => true) = true ∧
      acts (.amovImm (iword 1 0 0xFFFFFFFF ty)) accessBase (fun _ => true) = true) ∧
    (∀ cc ∈ [0, 5], acts (.acmp (word 3 1 2 (tyMod 7 + cc))) accessBase (fun _ => true) = true) ∧
    sited (.abr (guardedI 0 (iword 0 0 3 0))) accessBase (fun e => decide (e.act = 0)) = true ∧
    sited (.abr (iword 0 0 3 0)) accessBase (fun e => decide (e.act ≠ 0)) = true := by decide
theorem test_meets_QueueWords :
    (∀ n ∈ [0, 15], acts (.qpop (word 1 12 0 (2 * 2 ^ 24 + n))) (withQueue (.access 0 0) 12 oneFull) (fun e => (e.wp.queue 12).headSlot.st == .full) =
      true) ∧
    (∀ m ∈ [0, 1, 2, 4 + 8], sited (.abrq (iword (if m = 12 then 2 else 0) 15 3 m)) (withQueue (.access 0 0) 15 oneFull)
      (fun e => (e.wp.queue 15).headSlot.st == .full) = true) ∧
    (∀ n ∈ [0, 7], acts (.qpush (word 12 3 0 0)) (withQueue (.compute 0 0 0) 12 { count := n, tail := n }) (fun e => e.badCheck.isNone &&
      !e.wp.acc.aend && decide ((e.wp.queue 12).count < 8)) = true) ∧
    (let s := withQueue .outside 15 { slots := [(7, { st := .pending, due := 1 })] }
     let x := ((s.core 0).warp 0).queue 15
     s.bad.isNone && (x.slot 7).st == .pending && decide ((x.slot 7).due ≤ s.clk + 1)) = true ∧
    acts (.slip (word 0 2 0 0)) accessBase (fun _ => true) = true ∧
    sited (.aexit (word 0 0 0 0)) accessBase (fun e => decide (e.wp.live ≠ 0)) = true ∧
    sited (.aexit (word 0 0 0 0)) (accessBase.onWarp 0 0 (fun x => { x with live := 0, splits := [] })) (fun e => decide (e.wp.live = 0) &&
      e.wp.pendings.isEmpty && e.k.tagerr == 0) = true := by decide

def qldWord : RWord := word 0 2 3 (2 * 2 ^ 19 + 2 ^ 8 + 2 * 2 ^ 15)
def qldgWord : RWord := word 11 2 12 (2 * 2 ^ 19 + 2 ^ 8 + 2 * 2 ^ 15 + 2 ^ 14 + 2 * 2 ^ 22)
theorem test_meets_QueueLoads :
    acts (.qld qldWord) accessBase (fun e => !e.computeEnded && e.canPush 0) = true ∧
    acts (.qldg qldgWord) (withQueue (.access 0 0) 12 oneFull) (fun e => !e.computeEnded && e.canPush 11 &&
      (e.wp.queue 12).headSlot.st == .full) = true := by decide

/-- A queue load of lanes 0 and 1 at 0x100 and 0x104 of the mapped page, and one whose lane 1 has no page. -/
def qldOp (a : Word64) : Op := { opIn .qld (.r qldWord) (.access 0) 3 .go with addr := [(0, 0x100), (1, a)], args := [0x100], pos := 7 }
def qldState (a : Word64) : State :=
  (withOp (qldOp a)).onWarp 0 0 (fun x => { x with queues := [(0, { slots := [(7, { st := .pending })], head := 7, tail := 0, count := 1 })] })
/-- No slice holds a sector of a held region, so that none is newer than HBM anywhere. -/
theorem settledAt_of_empty {s : State} (h : s.heldBytes = []) (pa n : Nat) : settledAt s pa n := by
  intro a cl x _ _ hx; simp [h, FMap.find] at hx
theorem allSettled_of_empty {s : State} (h : s.heldBytes = []) : allSettled s := by
  intro k x hx; simp [h, FMap.find] at hx

theorem test_meets_QueueLoads_performed :
    (let s := qldState 0x104
     let o := qldOp 0x104
     let u := s.fillTlb 0 (s.core 0).asid ((opLanes o).map (fun l => (o.addr.get l 0).toNat))
     decide ((s.core 0).findOp 0 = some o) && s.bad.isNone && !((s.core 0).warp 0).ended && decide (qldWord.fld 9 8 ≠ 0) &&
       decide (qldWord.fld 21 19 ≤ 2) && decide (o.pos < 8) && opLanes o == [0, 1] &&
       (opLanes o).all (fun l => s.laneCheck 0 o.fn false (o.status != 0) o.regions (msize qldWord) (o.addr.get l 0) == .ok &&
         match tlbFind (o.xl ++ (u.core 0).tlb) (s.core 0).asid (o.addr.get l 0).toNat with
         | some x => placeOf x.leaf x.va (o.addr.get l 0).toNat == .hbm (0x30100 + 4 * l) && (s.heldBy 0 x.leaf).isNone
         | none => false) && s.heldBytes.isEmpty && s.mayPerform 0 o && !s.windowWaits 0 o && s.badLanes 0 o == 0) = true := by decide
theorem test_meets_QueueLoads_poisoned :
    (let s := qldState 0x10000
     let o := qldOp 0x10000
     let ys := (opLanes o).map (fun l =>
       (l, o.addr.get l 0, s.laneCheck 0 o.fn false (o.status != 0) o.regions (msize qldWord) (o.addr.get l 0)))
     decide ((s.core 0).findOp 0 = some o) && s.bad.isNone && !((s.core 0).warp 0).ended && decide (o.pos < 8) && s.mayPerform 0 o &&
       ys.all (fun y => decide (y.2.2 ≠ .wait)) && !s.windowWaits 0 o && (checkTrap ys).any (fun x => x.cause == .pageFault && x.fmask == 2)) =
      true := by decide

/-! Landing, exceptions and class SYS. -/

def pend1 (x : Wr) (due : Nat) : Pend := { due := due, party := .compute 0, flag := 1, wrs := [x] }
/-- One result of each kind that is due in the next clock. -/
theorem test_meets_ResultsLandWhenDue : ∀ x ∈ [Wr.v 0 3 [(0, 7), (15, 8)] 1, .s 0 255 9, .p 0 14 0xFF 0x0F, .a 0 63 5, .flagsOr 0 0x20],
    (let s := withCore .outside (fun k => { k with pends := [pend1 x 1, pend1 (.s 0 1 1) 2] })
     s.bad.isNone && (s.core 0).pends.contains (pend1 x 1) && decide ((pend1 x 1).due ≤ s.clk + 1) && (pend1 x 1).wrs == [x] &&
       (s.core 0).pends.all (fun q => q == pend1 x 1 || decide (s.clk + 1 < q.due)) && (s.core 0).pends.count (pend1 x 1) == 1) = true := by
  decide

/-- A halt that is five clocks old, in a context with a handler or without one. -/
def halted (c : Cause) (p : Party) (handler : Word64) : State :=
  { withCore .outside (fun k => { k with halt := some { found := 0, party := p, pc := 0x24, trap := plain c } }) with
    clk := 5, ctxs := [(0, { live := true, handler := handler })] }
def haltReady (s : State) (p : Block → Halt → Bool) : Bool :=
  s.bad.isNone && match (s.core 0).block, (s.core 0).halt with
  | some b, some h => !h.entered && !h.save && decide (h.found + 5 ≤ s.clk) && p b h
  | _, _ => false
theorem test_meets_TakingAnException :
    (∀ x ∈ [(Cause.trap, Party.compute 0), (.queuePoison, .compute 0), (.pageFault, .access 0), (.mtxData, .matrix), (.preempt, .matrix)],
      haltReady (halted x.1 x.2 0x300) (fun b h => handlerWarp ((halted x.1 x.2 0x300).core 0) h == some 0 &&
        decide (((halted x.1 x.2 0x300).ctx b.asid).handler ≠ 0)) = true) ∧
    haltReady (halted .trap (.compute 0) 0) (fun b h => b.failed.isNone && decide (h.trap.cause ≠ .preempt) &&
      decide (((halted .trap (.compute 0) 0).ctx b.asid).handler = 0)) = true ∧
    haltReady ((halted .trap (.compute 0) 0x300).onWarp 0 0 (fun x => { x with live := 0 })) (fun b h => b.failed.isNone &&
      handlerWarp (((halted .trap (.compute 0) 0x300).onWarp 0 0 (fun x => { x with live := 0 })).core 0) h == none) = true := by decide

/-- A word of the handler, as `Handles` asks. -/
def handles (i : Instr) (s : State) (p : Env → Halt → Bool) : Bool :=
  acts i s (fun e => e.handler && match e.k.halt with
    | some h => p e h
    | none => false)
/-- The same while a request for pre-emption is outstanding. -/
def asked (c : Cause) : State := (handling c).onCore 0 (fun k => { k with preempt := some { launch := some 1, since := 0 } })

theorem test_meets_TrapAndContinuePastIt :
    (∀ n ∈ [0, 0xFFFF], acts (.trap (word 0 0 0 n)) compute (fun e => !e.handler && e.k.halt.isNone) = true) ∧
    stacked (.trap (word 0 0 0 0)) stackBase (fun _ => true) = true ∧
    (let s := handling .trap
     handles (.rttNext (word 0 0 0 1)) s (fun e h => e.k.preempt.isNone && h.party == .compute 0 && !h.pair2 &&
       ((e.k.warp 0).splits.find h.slot).isSome && (s.fetchWord e.k.tlb e.k.asid h.pc.toNat false).isSome)) = true := by decide
theorem test_meets_ReturnsFromTheHandler :
    handles (.rtt (word 0 0 0 0)) (handling .pageFault) (fun e _ => e.k.preempt.isNone) = true ∧
    handles (.rttEnd (word 0 0 0 2)) (handling .trap) (fun e _ => e.blk.failed.isNone) = true ∧
    handles (.rttSaved (word 0 0 0 3)) (handling .trap) (fun e _ => e.k.preempt.isNone) = true ∧
    handles (.rttSaved (word 0 0 0 3)) (asked .preempt) (fun e _ => e.k.preempt.isSome) = true := by decide

/-- A poisoned slot 7 of Q11 whose load, a QLD, stands at virtual address 0. -/
def poisoned : State :=
  let s := (handling .queuePoison).onCore 0 (fun k => { k with sys := [(0x00C, 0x7B7)] })
  { s with hbm := s.hbm.putBytes 0x30000 (toLe ((encode (.qld { qldWord with d := 11 })).getD 0).toNat 12) }.onWarp 0 0 (fun x =>
    { x with queues := [(11, { slots := [(7, { st := .poison })], head := 7, tail := 0, count := 1 })] })
theorem test_meets_ReturnsFromTheHandler_replay : ∀ z ∈ [0, 1],
    handles (.rttRpl (word 0 0 0 z)) poisoned (fun e h => h.trap.cause == .queuePoison && h.party == .compute 0 && e.k.preempt.isNone &&
      (match poisoned.fetchWord e.k.tlb e.k.asid (e.k.sysReg 0x008).toNat false with
       | some bs => decide (opcOf (wordOfBytes bs) = Fn.opc .qld)
       | none => false) && (((e.k.warp 0).queue 11).slot 7).st == .poison && (e.k.sysReg 0x00C).toNat / 16 % 16 == 11 &&
      (e.k.sysReg 0x00C).toNat / 256 % 8 == 7) = true := by decide
/-- A word that may issue and finds none of the common traps of R55, as the statement of PRIV_OP asks. -/
def uncommon (i : Instr) (s : State) (p : Env → Bool) : Bool :=
  match fnOf i with
  | none => false
  | some f => match envOf s f (bodyOf i) with
    | none => false
    | some e => e.issuable && s.bad.isNone && e.formTrap.isNone &&
        (schedTrap e.k e.kernel e.party e.ctl.wait (wordRegs e.st e.w e.fn e.body)).isNone && p e
theorem test_meets_SystemRegistersAndTimer_registers :
    (∀ i ∈ [0, 0x100, 0x101, 0x103], handles (.sysrd (word 2 0 0 i)) (handling .trap) (fun _ h => h.handler.isSome) = true) ∧
    (∀ i ∈ [3, 4, 0x10, 0x15, 0x103], handles (.syswr (word 0 2 0 (2 ^ 24 + i))) (handling .trap) (fun _ _ => true) = true) ∧
    (∀ i ∈ [Instr.rtt (word 0 0 0 0), .rttNext (word 0 0 0 1), .rttEnd (word 0 0 0 2), .rttSaved (word 0 0 0 3),
      .sysrd (word 2 0 0 0), .syswr (word 0 2 0 (2 ^ 24 + 4)), .scrub (word 0 0 0 0xFF)], uncommon i compute (fun e => !e.handler) = true) ∧
    acts (.snap (word 2 0 0 0)) compute (fun _ => true) = true ∧
    stacked (.snap (word 2 0 0 0)) { stackBase with host0 := { armed := true } } (fun e => e.s.host0.armed) = true := by decide
theorem test_meets_SystemRegistersAndTimer_timer :
    acts (.timer (word 0 2 4 (2 ^ 24 + 2 ^ 22))) compute (fun e => e.srcA true 0 == 0) = true ∧
    (∀ a ∈ [0x10C, 0x100, 0x10000], let s := (tabled 1 1 0).onWarp 0 0 (fun x => { x with s := [(2, 100), (4, BitVec.ofNat 32 a)] })
      acts (.timer (word 0 2 4 (2 ^ 24 + 2 ^ 22))) s (fun e => e.srcA true 0 == 100 &&
        match s.fetchWord e.k.tlb e.blk.asid (e.srcB true 0) e.handler with
        | some bs => isLanding (wordOfBytes bs) == decide (a = 0x10C)
        | none => decide (a = 0x10000)) = true) ∧
    acts (.timerrd (word 2 0 0 0)) compute (fun _ => true) = true ∧
    (let s := { withWarp (fun x => { x with cmp := 5 }) with clk := 5 }
     let k := s.core 0
     let x := k.warp 0
     s.bad.isNone && x.splits.all (fun p => p.2.defer.isEmpty && decide (p.2.rets.length < 16) && decide (p.2.ready ≤ s.clk) && !p.2.waiting &&
       p.2.held.isNone && p.2.bar.isNone && match s.fetchWord k.tlb k.asid p.2.pc.toNat false with
         | some bs => waitOk x.f (rOf (wordOfBytes bs)).ctl.wait
         | none => false) && x.splits.length == 1 && decide (x.cmp ≠ 0) && decide (x.cmp.toNat ≤ s.clk) && k.halt.isNone &&
       k.block.any (fun b => b.failed.isNone)) = true := by decide

/-- A handler of a block with 64 bytes of scratchpad, its context's page at virtual address 0 of 32 MiB. -/
def savable : State :=
  let s := (handling .preempt).onCore 0 (fun k => { k with block := some { kernel := { bootKernel with scratch := 64 } }, scratch := [(63, 7)] })
  { s with hbm := s.hbm.putNum 0x21000 8 0x40000E2 }
theorem test_meets_ContextParts :
    (let w := word 0 2 0 (2 ^ 24 + 5)
     handles (.ctxsv w) savable (fun e _ => decide (e.srcA true 0 % 2 ^ 16 = 0) && decide (e.partCheck w .write = .ok) && e.k.drained &&
       e.k.ops.all (fun o => o.fn != .sigWait) && decide (w.fld 4 0 ≠ 0) && !e.k.partPoisoned 5 (e.partWarps w) &&
       (let u := e.launchOp e.issued .go (fun o => o)
        let xs := partBytes u e.c false 5 1 (e.partWarps w)
        let mark := leNat (u.areaRead e.blk.asid 0 0 8) ||| 2 ^ 21
        ((u.areaPut e.blk.asid 0 xs).areaPut e.blk.asid 0 [(0, toLe mark 8)]).bad.isNone)) &&
     handles (.ctxld w) savable (fun e _ => decide (e.srcA true 0 % 2 ^ 16 = 0) && decide (e.partCheck w .read = .ok) && w.fld 4 0 == 5) &&
     handles (.scrub (word 0 0 0 0xFF)) savable (fun e _ => e.k.drained && e.k.ops.all (fun o => o.fn != .sigWait))) = true := by
  decide +kernel
theorem test_split_saved_and_restored :
    let p : Split := { pc := 36, m := 0xFF, depth := 31, ready := 20, rets := List.replicate 16 12, defer := List.replicate 4 ⟨true, 1, 24, 31⟩,
                       bar := some (31, true) }
    splitOf (splitBytes (some p) 10) 10 = some { p with ready := 20, landed := 10 } := by decide +kernel

/-! Class MEM. -/

theorem test_meets_MemoryWordsLaunch_addresses :
    (∀ f ∈ memForms, acts (f.form (word 4 2 0 (2 * 2 ^ 19))) compute
        (fun e => e.k.replays.isEmpty && (badTrap e.act 3 e.sourcesA).isNone && (badTrap e.act 3 e.sourcesB).isNone &&
          (badTrap e.act 3 e.sourcesD).isNone) = true) ∧
    (∀ sz ∈ [0, 4], ∀ f ∈ memForms.take 8, acts (f.form (word 4 2 3 (sz * 2 ^ 19 + 1 * 2 ^ 14))) compute
        (fun e => e.k.replays.isEmpty && (badTrap e.act 3 e.sourcesA).isNone && (badTrap e.act 3 e.sourcesB).isNone &&
          (badTrap e.act 3 e.sourcesD).isNone) = true) ∧
    (∀ f ∈ memForms.filter (·.store), let w := word 4 2 0 (3 * 2 ^ 19 + 13 * 2 ^ 10)
      acts (f.form w) compute (fun e => (tagTrap 0 (BitVec.ofNat 4 (w.fld 13 10)) e.sourcesD).isNone) = true) := by decide
theorem test_meets_MemoryWordsLaunch_atomics :
    (∀ ty ∈ [0, 1, 6, 7, 8], ∀ f ∈ [Instr.atom, .atomg], acts (f (word 4 2 6 (tyMod ty + 3 * 2 ^ 14 + 2 ^ 13))) compute
      (fun e => e.k.replays.isEmpty && (tagTrap 2 (tagOf (BitVec.ofNat 4 ty).toNat) e.sourcesB).isNone && e.badCheck.isNone) = true) ∧
    (∀ f ∈ [Instr.atom, .atoms, .atomg], acts (f (word 4 2 6 (tyMod 0 + 4 * 2 ^ 14 + 2 ^ 13))) compute
      (fun e => e.k.replays.isEmpty && (tagTrap 0 (tagOf 0) e.sourcesD).isNone && (tagTrap 2 (tagOf 0) e.sourcesB).isNone &&
        e.badCheck.isNone) = true) := by decide
theorem test_meets_MemoryWordsLaunch_requests :
    acts (.pgreq (word 1 2 0 (2 ^ 8))) compute (fun e => e.badCheck.isNone) = true ∧
    acts (.pgreq (word 15 2 3 (2 ^ 14))) compute (fun e => e.badCheck.isNone) = true ∧
    acts (.pref (word 0 2 0 0)) compute (fun e => e.badCheck.isNone && e.active.all (fun l =>
      match compute.xlate (compute.core 0).tlb e.blk.asid (e.byteAddr (word 0 2 0 0) l).toNat with
      | .ok leaf b _ => match placeOf leaf b (e.byteAddr (word 0 2 0 0) l).toNat with
        | .hbm pa => decide (pa / 64 * 64 + 64 ≤ hbmTop)
        | _ => false
      | _ => false)) = true ∧
    (∀ n ∈ [0, 319, 320, 9749], acts (.wsref (word 2 0 0 0)) { compute with clk := n } (fun e => (n + 9750 - 1625 * (e.c / 16) % 9750) % 9750 == n)
      = true) := by decide

/-- An operation of a memory word in the block of core 0, with the translations that its checks found. -/
def memOp (fn : Fn) (w : RWord) (lanes : Lanes) (stage : Stage) (addr : FMap Word64) : Op :=
  let s := base .outside
  { opIn fn (.r w) (.compute 0) lanes stage with addr := addr, xl := s.capture 0 0 (addr.map (fun x => x.2.toNat)), todo := lanes }
def memState (o : Op) : State :=
  (withOp o).onWarp 0 0 (fun x => { x with splits := x.splits.mapV (fun p => { p with held := some 0 }) })

def performs (s : State) (o : Op) (w : RWord) : Bool :=
  decide ((s.core 0).findOp 0 = some o) && o.stage == .go && o.body == .r w && !(s.nearRelease 0 o).accessWaits 0 o &&
    (s.nearRelease 0 o).publishWait 0 o == none && o.fail.isNone && s.bad.isNone
theorem performs_of {s : State} {o : Op} {w : RWord} (h : performs s o w = true) : Performs s 0 0 o w := by
  simp only [performs, Bool.and_eq_true, Option.isNone_iff_eq_none, decide_eq_true_eq, beq_iff_eq, Bool.not_eq_true'] at h
  exact ⟨h.1.1.1.1.1.1, h.1.1.1.1.1.2, h.1.1.1.1.2, h.1.1.1.2, h.1.1.2, h.1.2, h.2⟩

/-- A lane that lies in HBM at 0x30000 and its address. -/
def landsInHbm (s : State) (o : Op) (size l : Nat) : Bool :=
  match tlbFind o.xl (s.core 0).asid (o.addr.get l 0).toNat with
  | some x => placeOf x.leaf x.va (o.addr.get l 0).toNat == .hbm (0x30000 + (o.addr.get l 0).toNat) && (s.heldBy 0 x.leaf).isNone &&
      decide (0x30000 + (o.addr.get l 0).toNat + size ≤ hbmTop) && decide (s.heldBytes = [])
  | none => false
theorem inHbm_of {s : State} {o : Op} {size l : Nat} (h : landsInHbm s o size l = true) :
    inHbm s 0 o size l (0x30000 + (o.addr.get l 0).toNat) := by
  unfold landsInHbm at h
  split at h
  · rename_i x hx
    simp only [Bool.and_eq_true, Option.isNone_iff_eq_none, decide_eq_true_eq, beq_iff_eq] at h
    exact ⟨x, hx, h.1.1.1, h.1.1.2, h.1.2, settledAt_of_empty h.2 _ _⟩
  · cases h

def size4 : RWord := word 5 2 3 (2 * 2 ^ 19 + 2 ^ 8)
theorem test_meets_AddressChecks_pass :
    ∀ f ∈ [(Fn.ld, size4), (.st, size4), (.ldg, size4), (.stg, size4), (.lds, size4), (.sts, size4), (.ldNf, size4), (.ldAcq, size4),
      (.stRel, size4), (.atom, word 5 2 3 0), (.atoms, word 5 2 3 0), (.atomg, word 5 2 3 0), (.sigSet, word 0 2 3 0), (.shld, word 0 2 0 0),
      (.shst, word 0 2 0 0)],
    (let o := memOp f.1 f.2 3 .check [(0, 0), (1, 0x80)]
     let s := { memState o with clk := 3 }
     decide ((s.core 0).findOp 0 = some o) && s.bad.isNone && ((((s.core 0).warp 0).splits).find o.slot).isSome &&
       decide (o.since + 3 ≤ s.clk) &&
       (opLanes o).all (fun l => (s.laneCheck 0 o.fn o.handler (o.status != 0) o.regions (opSize o) (o.addr.get l 0)) == LaneCheck.ok)) = true := by
  decide
theorem test_meets_AddressChecks_pass_weights :
    (let o := memOp .ldW size4 1 .check [(0, 0x1FFFFFFC)]
     let s := { memState o with clk := 3, ctxs := [(0, { live := true, wsgrant := 1 })] }
     s.laneCheck 0 .ldW false false o.regions 4 (o.addr.get 0 0) == LaneCheck.ok) = true := by decide

/-- The last 32-bit word of the scratchpad passes, the next does not; a misaligned lane has its own cause, which comes first. -/
def failing (fn : Fn) (addr : FMap Word64) : List (Nat × Word64 × LaneCheck) :=
  let o := memOp fn size4 (lanesOf (addr.map (·.1))) .check addr
  let s := { memState o with clk := 3 }
  (opLanes o).map (fun l => (l, o.addr.get l 0, s.laneCheck 0 o.fn o.handler (o.status != 0) o.regions (opSize o) (o.addr.get l 0)))
theorem test_meets_AddressChecks_fail :
    (∀ x ∈ [(Fn.lds, [(0, (0xFFFFC : Word64)), (5, 0x100000)], Cause.scratchRange, 5), (.ld, [(0, 0), (63, 0x10000)], .pageFault, 63),
      (.stRel, [(0, 2), (1, 0x10000)], .alignFault, 0)],
      (let o := memOp x.1 size4 (lanesOf (x.2.1.map (·.1))) .check x.2.1
       let s := { memState o with clk := 3 }
       decide ((s.core 0).findOp 0 = some o) && s.bad.isNone && (s.core 0).halt.isNone && decide (o.since + 3 ≤ s.clk) &&
         (failing x.1 x.2.1).all (fun y => decide (y.2.2 ≠ .wait)) &&
         (checkTrap (failing x.1 x.2.1)).any (fun t => t.cause == x.2.2.1 && t.fmask.getLsbD x.2.2.2)) = true) := by decide
theorem test_meets_AddressChecks_first :
    (let xs := failing .ld [(0, 0), (1, 0x10000), (2, 0x10002), (63, 0x10006)]
     decide (xs.Pairwise (fun a b => a.1 < b.1)) && xs.all (fun y => decide (y.1 < 64) && match y.2.2 with
       | .bad p _ _ => decide (p < 99)
       | _ => true) && (checkTrap xs).any (fun t => t.cause == .alignFault && t.fmask == 0x8000000000000004 && t.addr == 0x10002)) =
      true := by decide

/-- Lanes 0 and 63 of a word in the scratchpad, two lanes in HBM, and a store of which both lanes meet a byte. -/
theorem test_meets_CoreLocalLoadsAndStores_scratchpad :
    (∀ sz ∈ [0, 1, 2, 3, 4], let w := word 4 2 0 (sz * 2 ^ 19)
      performs (memState (memOp .lds w 0x8000000000000001 .go [(0, 0), (63, 0xFFFF0)])) (memOp .lds w 0x8000000000000001 .go [(0, 0), (63, 0xFFFF0)]) w =
        true) ∧
    (∀ sz ∈ [0, 4], let w := word 4 2 0 (sz * 2 ^ 19)
      performs (memState (memOp .sts w 3 .go [(0, 0), (1, 0)])) (memOp .sts w 3 .go [(0, 0), (1, 0)]) w = true) := by decide
theorem test_meets_CoreLocalLoadsAndStores_weights :
    (let w := word 4 2 0 (4 * 2 ^ 19)
     let o := memOp .ldW w 1 .go [(0, 0x1FFFFFF0)]
     let s := { memState o with clk := 320 }
     performs s o w && !s.refreshing (dieOf 0)) = true ∧
    (let w := word 4 2 0 (2 * 2 ^ 19 + 2 ^ 8 + 14)
     let o := { memOp .ldNf w 0x20 .go [(5, 0x10000)] with done := 0x20 }
     performs (memState o) o w && opLanes o == [5] && !(memState o).windowWaits 0 o && (memState o).badLanes 0 o == 0) = true ∧
    (let w := word 4 2 0 (2 * 2 ^ 19 + 2 ^ 8)
     let o := memOp .ldNf w 0x20 .go [(5, 0xFFFC)]
     performs (memState o) o w && opLanes o == [5] && landsInHbm (memState o) o 4 5) = true := by decide
theorem test_meets_HbmLoadsAndStores :
    ∀ f ∈ [(Fn.ld, 1), (.ldg, 2), (.ldAcq, 0), (.st, 0), (.stg, 1), (.stRel, 0)], ∀ sz ∈ [2, 3],
    (let w := word 4 2 0 (sz * 2 ^ 19 + f.2 * 2 ^ 8)
     let o := memOp f.1 w 3 .go [(0, 0), (1, 0xFFF8)]
     performs (memState o) o w && (opLanes o).all (fun l => landsInHbm (memState o) o (2 ^ sz) l)) = true := by decide
theorem test_meets_Atomics_operations : ∀ ty ∈ [0, 1, 6, 7], 2 ^ tyWidth ty - 1 < 2 ^ tyWidth ty := by decide
theorem test_meets_Atomics_scratchpad :
    (∀ ty ∈ [0, 1, 8], ∀ op ∈ [0, 4], let w := word 4 2 3 (tyMod ty + op * 2 ^ 14 + 2 ^ 13)
      let o := memOp .atoms w 0x8000000000000000 .go [(63, 0xFFFFC)]
      (performs (memState o) o w && o.todo == o.lanes && o.bad == 0 && o.lanes == BitVec.ofNat 64 (2 ^ 63)) = true) := by decide

/-- The page at 0x10000 mapped by a leaf: a window of module 0 (R, W), a page of the host's memory. -/
def mapped (leaf : Nat) (s : State) : State := { s with hbm := s.hbm.putNum 0x22008 8 leaf }
def windowLeaf : Nat := 0x1062
theorem test_meets_Atomics_scratchpad_window : ∀ f ∈ [Fn.st, .stg],
    (let o : Op := { opIn f (.r size4) (.compute 0) 0x12 .go with addr := [(1, 0x10000), (4, 0x1FFFC)] }
     let s := mapped windowLeaf (memState o)
     performs s o size4 && !s.accessWaits 0 o && windowLanes s 0 o == o.lanes && (opLanes o).head? == some 1) = true := by decide

/-! Class CPY and the quantised tiles. -/

/-- A shape record (R196) of FMT 0 (bytes): a box of 16 elements at the base, and one of two rows of 32 elements at a base 16 beyond. -/
def recordOf (addr hdr pad : Nat) (dim str box : List Nat) : List Byte :=
  toLe addr 8 ++ toLe hdr 4 ++ toLe pad 4 ++ (dim.map (toLe · 4)).flatten ++ toLe 0 4 ++ (str.map (toLe · 8)).flatten ++
    (box.map (toLe · 2)).flatten ++ List.replicate 46 0
def lineRecord : List Byte := recordOf 0 0x1010 0 [16, 1, 1, 1, 1] [0, 0, 0, 0] [16, 1, 1, 1, 1]
def boxRecord : List Byte := recordOf 0x10 0x1020 0 [64, 8, 1, 1, 1] [64, 0, 0, 0] [32, 2, 1, 1, 1]
theorem test_record_of_two_rows : (parseShape boxRecord).map (fun x => (x.base, x.rank, x.fmt, x.row, x.rows)) = some (0x10, 2, 0, 32, 2) ∧
    boxRecord.length = 128 := by decide +kernel
/-- A record with a reserved bit of its header set, and one with a box of no whole number of 16-byte chunks, are no records (R197). -/
theorem test_records_refused : parseShape (recordOf 0 0x11010 0 [16, 1, 1, 1, 1] [0, 0, 0, 0] [16, 1, 1, 1, 1]) = none ∧
    parseShape (recordOf 0 0x1010 0 [16, 1, 1, 1, 1] [0, 0, 0, 0] [15, 1, 1, 1, 1]) = none := by decide +kernel

def shaped (bs : List Byte) (n : Nat) : State := (withCore (.compute 0 0 0) (fun k => { k with shapes := FMap.putBytes [] (128 * n) bs }))
def fromS (d a b mod : Nat) : RWord := word d a b (2 ^ 24 + 2 ^ 22 + mod)

theorem test_meets_ShapeRecordsAndTags_records_issue :
    (∀ d ∈ [0, 15], acts (.shld (word d 2 0 (2 ^ 24))) (shaped lineRecord 0) (fun e => e.k.shapeFree d) = true ∧
      acts (.shst (word d 2 0 (2 ^ 24))) (shaped lineRecord 0) (fun e => e.k.shapeFree d) = true) ∧
    (∀ n ∈ [0, 31], acts (.shset (word 1 2 0 (2 ^ 24 + n))) (shaped lineRecord 0) (fun e => e.k.shapeFree 1) = true) := by decide

def inSpan (s : State) (o : Op) (va n pa : Nat) : Bool :=
  decide (va % 64 = pa % 64 ∧ pa + n ≤ hbmTop) && decide (s.heldBytes = []) && (List.range n).all (fun i =>
    match tlbFind (o.xl ++ (s.core 0).tlb) (s.core 0).asid (va + i) with
    | some x => placeOf x.leaf x.va (va + i) == .hbm (pa + i) && (s.heldBy 0 x.leaf).isNone
    | none => false)
theorem spanInHbm_of {s : State} {o : Op} {va n pa : Nat} (h : inSpan s o va n pa = true) : spanInHbm s 0 o va n pa := by
  simp only [inSpan, Bool.and_eq_true, decide_eq_true_eq, List.all_eq_true, List.mem_range] at h
  refine ⟨h.1.1.1, h.1.1.2, settledAt_of_empty h.1.2 _ _, fun i hi => ?_⟩
  have := h.2 i hi
  split at this
  · rename_i x hx
    simp only [Bool.and_eq_true, beq_iff_eq, Option.isNone_iff_eq_none] at this
    exact ⟨x, hx, this.1, this.2⟩
  · cases this
theorem test_meets_ShapeRecordsAndTags_records_performed :
    (let w := word 1 2 0 (2 ^ 24)
     let o := memOp .shld w 1 .go [(0, 0xFF80)]
     performs (memState o) o w && (opLanes o).head? == some 0 && ((memState o).core 0).l1.isEmpty && inSpan (memState o) o 0xFF80 128 0x3FF80) =
      true ∧
    (let w := word 1 2 0 (2 ^ 24)
     let o := { memOp .shst w 1 .go [(0, 0x40)] with bytes := lineRecord }
     performs (memState o) o w && (opLanes o).head? == some 0 && o.bytes.length == 128 && inSpan (memState o) o 0x40 128 0x30040) = true := by decide +kernel

/-- The tiled copies begin, of a line and of a box that ends at the end of the scratchpad or of the write buffer. -/
def mayBegin (i : Instr) (w : RWord) (s : State) (top : Nat) : Bool :=
  acts i s (fun e => !e.k.busy.getLsbD (w.fld 21 16) && e.k.shapeFree w.d.toNat && match parseShape (e.k.shapeBytes w.d.toNat) with
    | some x => (e.coordTrap w x.rank).isNone && x.swz == 0 && e.srcA false 0 % 16 == 0 &&
        e.src false w.bsel w.b.toNat 0 * x.width % 128 == 0 && decide (e.srcA false 0 + x.row * x.rows ≤ top)
    | none => false)
def atTop (bs : List Byte) (a : Nat) : State := (shaped bs 0).onWarp 0 0 (fun x => { x with s := [(2, BitVec.ofNat 32 a), (4, 32)] })
theorem test_meets_CopiesBeginAndComplete_begin_tiled :
    mayBegin (.cpt (fromS 0 2 4 0)) (fromS 0 2 4 0) (atTop lineRecord 0xFFFF0) 0x100000 = true ∧
    mayBegin (.cpt (fromS 0 2 4 (63 * 2 ^ 16 + 2 ^ 15))) (fromS 0 2 4 (63 * 2 ^ 16 + 2 ^ 15)) (atTop boxRecord 0xFFFC0) 0x100000 = true ∧
    mayBegin (.cptm (fromS 0 2 4 (2 ^ 16))) (fromS 0 2 4 (2 ^ 16)) (atTop boxRecord 0) 0x100000 = true ∧
    mayBegin (.cpw (fromS 0 2 4 0)) (fromS 0 2 4 0) (atTop boxRecord 0x7FFC0) 0x80000 = true ∧
    (∀ i ∈ [Instr.cpt (fromS 0 2 4 0), .cptm (fromS 0 2 4 0), .cpw (fromS 0 2 4 0)],
      acts i ((atTop lineRecord 0).onCore 0 (fun k => { k with busy := 1 })) (fun e => e.k.busy.getLsbD 0) = true) := by decide +kernel
theorem test_meets_CopiesBeginAndComplete_begin_linear :
    (let s := compute.onWarp 0 0 (fun x => { x with s := [(2, 0xFFFF0), (4, 0x40), (6, 16)] })
     acts (.cpl (word 0 2 0 (2 ^ 24 + 2 ^ 15))) s (fun e => !e.k.busy.getLsbD 0 && e.wp.sreg true 2 == 0xFFFF0 && e.wp.sreg true 4 == 0x40 &&
       e.wp.sreg true 6 == 16)) = true ∧
    (let s := (base (.matrix 0)).onCore 0 (fun k => { k with mst := { k.mst with m := [(2, 0x100), (4, 32), (5, 0x7FFE0)] } })
     acts (.wbld (word 0 2 5 (63 * 2 ^ 16))) s (fun e => !e.k.busy.getLsbD 63 && e.k.mreg true 2 == 0x100 && e.k.mreg false 4 == 32 &&
       e.k.mreg false 5 == 0x7FFE0)) = true ∧
    (let s := { (base (.matrix 0)).onCore 0 (fun k => { k with mst := { k.mst with m := [(2, 0x1FFFFFF0), (4, 16)] } }) with
         ctxs := [(0, { live := true, wsgrant := 1 })] }
     acts (.wbld (word 0 2 5 (2 ^ 15))) s (fun e => e.k.mreg true 2 == 0x1FFFFFF0 && e.k.mreg false 4 == 16 && s.wsGranted e.c)) = true := by
  decide +kernel

def copies (s : State) (o : Op) : Bool :=
  decide ((s.core 0).findOp 0 = some o) && isCopy o.fn && decide (o.stage ≠ .done) && (s.core 0).writesDone o.party o.id && s.bad.isNone
theorem copies_of {s : State} {o : Op} (h : copies s o = true) : Copies s 0 0 o := by
  simp only [copies, Bool.and_eq_true, Option.isNone_iff_eq_none, decide_eq_true_eq] at h
  exact ⟨h.1.1.1.1, h.1.1.1.2, h.1.1.2, h.1.2, h.2⟩
def copyOp (fn : Fn) (w : RWord) (args : List Word64) (bytes : List Byte) : Op :=
  { opIn fn (.r w) (if fn = .wbld then .matrix else .compute 0) 1 .go with args := args, bytes := bytes }
/-- What a copy at its start asks of the package, and where a chunk's bytes in memory lie. -/
def copyStarts (s : State) (o : Op) : Bool :=
  copies s o && o.status == 0 && o.pos == 0 && (copyChunks o).all (chunkReady s 0 o) && !s.shootPending (s.core 0).asid && decide (s.heldBytes = [])
def atHbm (s : State) (o : Op) (need : Need) (a : Nat) : Bool :=
  match s.copyPage 0 o need a with
  | .ok leaf (.hbm pa) => (s.heldBy 0 leaf).isNone && pa % 16 == 0 && decide (pa + 16 ≤ hbmTop)
  | _ => false
/-- A copy from HBM of which every chunk is ready and is delivered where no other is. -/
def fromHbm (o : Op) : Bool :=
  let s := withOp o
  let u := s.fillCtlb 0 ((copyChunks o).map (fun x => x.sides.map (·.1))).flatten
  copyStarts s o && o.fn != .cptm && decide ((copyChunks o).map (·.dst)).Nodup && (copyChunks o).all (fun x => match x.src, x.dst with
    | .mem a, .scr b => b % 16 == 0 && x.lo == 0 && x.hi == 128 && atHbm u o .read a
    | .mem a, .wb b => b % 16 == 0 && x.lo == 0 && x.hi == 128 && atHbm u o .read a
    | _, _ => false)
theorem test_meets_CopiesBeginAndComplete_complete_fromMemory :
    fromHbm (copyOp .cpt (word 0 0 0 0) [0x100, 0, 0] boxRecord) = true ∧ fromHbm (copyOp .cpw (word 0 0 0 0) [0x40, 0] lineRecord) = true ∧
    fromHbm (copyOp .cpl (word 0 0 0 (2 ^ 15)) [0x40, 0xFFE0, 32] []) = true ∧ fromHbm (copyOp .wbld (word 0 0 0 0) [0x40, 0, 16] []) = true := by
  decide +kernel
theorem test_meets_CopiesBeginAndComplete_complete_toMemory :
    ∀ o ∈ [copyOp .cpl (word 0 0 0 (2 ^ 14)) [0xFFF0, 0x40, 16] [], copyOp .cpt (word 0 0 0 (2 ^ 15)) [0x40, 0] lineRecord],
    (let s := withOp o
     copyStarts s o && o.fn != .cptm && match copyChunks o with
       | [x] => x.lo == 0 && x.hi == 128 && (match x.src, x.dst with
         | .scr _, .mem a => atHbm (s.fillCtlb 0 [a]) o .write a
         | _, _ => false)
       | _ => false) = true := by decide +kernel
theorem test_meets_CopiesBeginAndComplete_complete_failed :
    (let o := { copyOp .cpl (word 0 0 0 (63 * 2 ^ 16)) [0x10000, 0x40, 16] [] with status := 1 }
     copies (withOp o) o) = true ∧
    (let o := copyOp .cpl (word 0 0 0 (2 ^ 14)) [0x10000, 0x40, 16] []
     copies (withOp o) o && o.status == 0 && copyReached (withOp o) 0 o (copyChunks o) 0 && match (copyChunks o)[0]? with
       | some x => failsWith (withOp o) 0 o x 1
       | none => false) = true := by decide +kernel

def tagged (tags busy err : Word64) (mask : Nat) : State :=
  (compute.onCore 0 (fun k => { k with tags, busy, tagerr := err })).onWarp 0 0 (fun x => { x with s := [(2, BitVec.ofNat 32 mask), (3, 0x80000000)] })
def maskAt (e : Env) (m : Word64) : Bool := BitVec.ofNat 64 (e.srcA true 0) == m
theorem test_meets_ShapeRecordsAndTags_tags :
    acts (.waitall (word 0 2 0 (2 ^ 24))) (tagged 0 0x8000000000000000 0 1) (fun e => maskAt e 0x8000000000000001) = true ∧
    acts (.waitall (word 0 2 0 (2 ^ 24))) (tagged 1 2 0 1) (fun e => maskAt e 0x8000000000000001) = true ∧
    acts (.waitall (word 0 2 0 (2 ^ 24))) (tagged 1 0 0x8000000000000002 1) (fun e => maskAt e 0x8000000000000001) = true ∧
    (∀ x ∈ [(0x8000000000000000, 63), (2, 64), (1, 0)],
      acts (.waitany (word 4 2 0 (2 ^ 24))) (tagged (BitVec.ofNat 64 x.1) 0 0 1) (fun e => maskAt e 0x8000000000000001 &&
        lowestTag (e.k.tags &&& 0x8000000000000001) == x.2) = true) ∧
    (∀ m ∈ [0, 1], acts (.tagfind (word 4 2 0 (2 ^ 24 + m))) (tagged 0x8000000000000000 1 0 1) (fun e => maskAt e 0x8000000000000001) = true) ∧
    acts (.tagclr (word 0 2 0 (2 ^ 24))) (tagged 3 0x8000000000000000 1 1) (fun e => maskAt e 0x8000000000000001) = true ∧
    (∀ n ∈ [0, 255], ∀ c ∈ [0, 3], acts (.waitc (word 0 0 0 (c * 2 ^ 20 + n))) (withWarp (fun x => { x with eng := [(c, 256)] }))
        (fun e => decide (n < e.wp.eng.get c 0)) = true ∧
      acts (.waitc (word 0 0 0 (c * 2 ^ 20 + n))) (withWarp (fun x => { x with eng := [(c, n)] })) (fun e => decide (e.wp.eng.get c 0 ≤ n) &&
        e.k.tagerr == 0 && (e.k.copyFault e.w (e.wp.copies - n)).isNone && (e.k.kvDataTrap e.w true).isNone) = true) ∧
    acts (.waitc (word 0 0 0 0)) (withCore (.compute 0 0 0) (fun k => { k with tagerr := 1, tagrec := [(0, { status := 1 })] }))
      (fun e => decide (e.wp.eng.get 0 0 ≤ 0) && (e.k.copyFault e.w (e.wp.copies - 0)).isSome) = true := by decide

/-- Descriptors of R142: one with a reserved bit, one of 256 by 256 tiles. -/
def descSet (x : Nat) : State := compute.onWarp 0 0 (fun y => { y with s := [(1, BitVec.ofNat 32 x)] })
theorem test_meets_QuantisedTiles :
    (∀ f ∈ [Instr.stq, .ldq], acts (f (word 1 2 4 (tyMod 11))) (descSet (2 ^ 21)) (fun e => e.k.replays.isEmpty &&
        (tileDesc 11 (e.wp.s.get 1 0)).isNone) = true ∧
      acts (f (word 1 2 4 (tyMod 9))) (descSet (2 ^ 16)) (fun e => (tileDesc 9 (e.wp.s.get 1 0)).isNone) = true ∧
      acts (f (word 1 2 4 (tyMod 11))) (descSet 0x11FFFF) (fun e => e.k.replays.isEmpty && (tileDesc 11 (e.wp.s.get 1 0)).isSome &&
        e.badCheck.isNone) = true) ∧
    (∀ ty ∈ [11, 9, 10], tyWidth ty = 4 ∨ tyWidth ty = 8 ∨ tyWidth ty = 16) ∧
    (List.replicate (TileDesc.count ⟨false, true, 0, 0⟩) (decodeF (fmtOf 8) 0)).length = TileDesc.count ⟨false, true, 0, 0⟩ := by decide
theorem test_meets_QuantisedTiles_loaded : ∀ p ∈ [0, 14, 15],
    (let w := word 1 2 4 (tyMod 11 + p)
     let o := { memOp .ldq w 0x8000 .go [(15, 0)] with data := [(15, 0x40)], args := [0], todo := 0 }
     let s := memState o
     decide ((s.core 0).findOp 0 = some o) && o.stage == .go && s.mayPerform 0 o && s.bad.isNone && opLanes o == [15] && o.todo == 0 &&
       o.fail.isNone && decide ((s.core 0).l1 = []) && inSpan s o 0 ((opDesc o w.ty).trailerAt w.ty + 16) 0x30000 && !s.windowWaits 0 o) =
      true := by decide +kernel

/-! Class MTX. -/

def matrixBase (f : MStream → MStream) : State := (base (.matrix 0)).onCore 0 (fun k => { k with mst := f k.mst })
theorem test_meets_MatrixStreamAndSequencer_words :
    (∀ i ∈ [Instr.mmov (word 15 2 0 0), .mmov (word 0 5 0 (3 * 2 ^ 24)), .mmovImm (iword 15 0 0xFFFFFFFF 0), .madd (word 0 2 15 0),
      .maddImm (iword 0 15 0xFFFFFFFF 0), .mcmp (word 3 1 2 0), .mcmp (word 0 1 2 (tyMod 1 + 5)), .mbr (iword 0 0 0xFFFFFFFF 0)],
      acts i (matrixBase id) (fun _ => true) = true) ∧
    sited (.mbr (guardedI 0 (iword 0 0 3 0))) (matrixBase id) (fun e => decide (e.act = 0)) = true ∧
    (∀ n ∈ [0, 2 ^ 32 - 1], ∀ m ∈ [0, 1], acts (.mfence (word 0 0 0 m)) (matrixBase (fun x => { x with bseq := n, done := n })) (fun e =>
      decide (e.k.mst.bseq < 2 ^ 32) && decide (e.k.mst.done < 2 ^ 32) && e.k.array.isEmpty) = true) ∧
    (∀ x ∈ [(5, 5, 0), (5, 4, 0), (4, 4, 1), (5, 4, 2)], acts (.mwait (word 0 2 0 0))
      (matrixBase (fun y => { y with bseq := 5, done := x.2.1, m := [(2, BitVec.ofNat 32 x.1)] })) (fun e =>
        let b : BitVec 32 := BitVec.ofNat 32 (e.srcA false 0)
        let opened := decide ((BitVec.ofNat 32 e.k.mst.bseq - 1 - b).toInt < 0)
        let late := decide (0 < (BitVec.ofNat 32 e.k.mst.done - b).toInt)
        (x.2.2 == 0 && opened) || (x.2.2 == 1 && !opened && !late) || (x.2.2 == 2 && opened)) = true) ∧
    acts (.mwait (word 0 2 0 0)) (matrixBase (fun y => { y with bseq := 5, done := 5, m := [(2, 4)] })) (fun e =>
      !decide ((BitVec.ofNat 32 e.k.mst.bseq - 1 - BitVec.ofNat 32 (e.srcA false 0)).toInt < 0) &&
      decide (0 < (BitVec.ofNat 32 e.k.mst.done - BitVec.ofNat 32 (e.srcA false 0)).toInt) && e.k.mst.pendings.isEmpty) = true ∧
    sited (.mexit (word 0 0 0 0)) (matrixBase id) (fun e => e.k.mst.pendings.isEmpty) = true := by decide

/-- A prefix table of two groups at 0x100 of the scratchpad, the first from row 0 to `a`, the second from `a` to `b`. -/
def tabledRows (q : TileSeq) (a b : Nat) : State :=
  (matrixBase (fun x => { x with seq := q })).onCore 0 (fun k =>
    { k with scratch := FMap.putBytes [] 0x100 (toLe 0 4 ++ toLe a 4 ++ toLe b 4) })
def entryAt (s : State) (q : TileSeq) (i : Nat) : Nat := numberAt s (.scratch 0) (q.tbl + 4 * i) 4
def seqWord : RWord := word 2 0 0 1
theorem test_meets_MatrixStreamAndSequencer_sequencer :
    (∀ x ∈ [(0xFFFFC, 0, 16), (0xFFFF4, 2, 0), (0, 65535, 0)],
      acts (.tseqInit (word 0 3 0 0)) (matrixBase (fun y => { y with m := [(3, BitVec.ofNat 32 x.1), (4, BitVec.ofNat 32 x.2.1), (5, BitVec.ofNat 32 x.2.2)] }))
        (fun e => let r (i : Nat) : Nat := (e.k.mst.m.get (3 + i) 0).toNat
          decide (r 0 % 4 = 0 ∧ r 2 % 16 = 0 ∧ r 1 ≤ 65535 ∧ r 0 + 4 * (r 1 + 1) ≤ e.kernel.scratch)) = true) ∧
    (∀ x ∈ [(16, 0), (128, 0), (129, 0), (129, 1)], let q : TileSeq := { tbl := 0x100, g := 2, j := x.2, init := true }
      let s := tabledRows q x.1 300
      acts (.tseqNext seqWord) s (fun e => e.k.writesDone .matrix s.opId && decide (q.gi < q.g) && decide (entryAt s q q.gi < entryAt s q (q.gi + 1)) &&
        decide (e.kernel.smallg ≤ entryAt s q (q.gi + 1) - entryAt s q q.gi) && e.k.mst.seq == q) = true) ∧
    (let q : TileSeq := { tbl := 0x100, g := 2, gi := 2, init := true }
     let s := tabledRows q 16 32
     acts (.tseqNext seqWord) s (fun e => e.k.writesDone .matrix s.opId && e.k.mst.seq == q && decide (q.g ≤ q.gi)) = true) ∧
    (let q : TileSeq := { tbl := 0x100, g := 2, gi := 1, init := true }
     let s := tabledRows q 16 15
     acts (.tseqNext seqWord) s (fun e => e.k.writesDone .matrix s.opId && e.k.mst.seq == q && decide (entryAt s q 2 < entryAt s q 1)) = true) := by
  decide
theorem test_meets_MatrixStreamAndSequencer_sequencer_performed :
    (let o := { opIn .tseqNext (.r seqWord) .matrix 1 .go with args := [0, 16, 0, 1, 0] }
     let s := withOp o
     ((s.core 0).findOp 0 == some o) && o.stage == .go && s.bad.isNone && o.bytes.isEmpty) = true := by decide

/-- An MMA of E4M3 elements of 128 rows whose panel ends at the end of the scratchpad and whose block ends at the end of the write buffer. -/
def mmaWord (x : Nat) : RWord := word 31 2 4 (2 ^ 15 + 2 ^ 12 + x)
def mmaBase : State := (matrixBase (fun x => { x with m := [(2, 0xFA000), (3, 128), (4, 0x7A000)] })).onCore 0 (fun k =>
  { k with shapes := FMap.putBytes [] 0 lineRecord })
theorem test_meets_ArrayOperations :
    (∀ x ∈ [0, 2 ^ 8], acts (.mma (mmaWord x)) mmaBase (fun e => e.arrayRoom && e.k.shapeFree 0 &&
      (mmaTrap e.k (mmaBase.wsGranted e.c) (mmaWord x) (mmaVals e.k (mmaWord x)) (e.k.shapeBytes 0)).isNone) = true) ∧
    (let s := mmaBase.onCore 0 (fun k => { k with mst := { k.mst with m := [(2, 0xFA000), (3, 129), (4, 0)] } })
     acts (.mma (mmaWord 0)) s (fun e => e.arrayRoom && e.k.shapeFree 0 &&
      (mmaTrap e.k (s.wsGranted e.c) (mmaWord 0) (mmaVals e.k (mmaWord 0)) (e.k.shapeBytes 0)).any (fun t => t.cause == .shapeForm))) = true ∧
    acts (.cbld (word 0 2 0 0)) (matrixBase (fun x => { x with m := [(2, 0xFFE00)] })) (fun e => e.arrayRoom &&
      decide (e.srcA false 0 % 16 = 0 ∧ e.srcA false 0 + 512 ≤ e.kernel.scratch)) = true ∧
    (∀ d ∈ [0, 31], acts (.tzero (word d 0 0 0)) (matrixBase id) (fun e => e.st == .matrix && e.arrayRoom) = true) := by decide +kernel

def arrayOp (fn : Fn) (w : RWord) (args : List Word64) : ArrayOp :=
  { id := 0, fn := fn, body := .r w, pc := 0, flag := 1, batch := 0, args := args, bytes := lineRecord, due := 1 }
def withArray (o : ArrayOp) : State := withCore .outside (fun k => { k with array := [o], lastOp := 1 })
def arrayTurn (o : ArrayOp) : Bool :=
  let s := withArray o
  decide ((s.core 0).array.find? (fun o => !o.performed) = some o) && (s.core 0).writesDone .matrix o.id && decide (o.due ≤ s.clk + 1) && s.bad.isNone
theorem arrayTurn_of {o : ArrayOp} (h : arrayTurn o = true) : ArrayTurn (withArray o) 0 o := by
  simp only [arrayTurn, Bool.and_eq_true, Option.isNone_iff_eq_none, decide_eq_true_eq] at h
  exact ⟨h.1.1.1, h.1.1.2, h.1.2, h.2⟩
theorem test_meets_ArrayOperations_performed :
    (let o := arrayOp .mma (mmaWord 0) [0, 1, 0, 0]
     arrayTurn o && (mmaArgs (mmaWord 0) o.args o.bytes).rows == 1 && (((withArray o).core 0).tiles.get 31 {}).bad.isEmpty) = true ∧
    arrayTurn (arrayOp .tzero (word 31 0 0 0) []) = true ∧ arrayTurn (arrayOp .cbld (word 0 2 0 0) [0xFFE00]) = true ∧
    (let s := withArray { arrayOp .cbld (word 0 2 0 0) [0] with performed := true }
     (s.core 0).array.map (·.performed) == [true] && s.bad.isNone) = true ∧
    (let s := (base .outside).onCore 0 (fun k => { { k with mst := { k.mst with bar := some (0, false) } } with
       warps := k.warps.mapV (fun x => { x with ended := true }) })
     let k := s.core 0
     s.bad.isNone && k.halt.isNone && k.kernel.matrix && !k.mst.mend && k.mst.bar.isSome && k.block.any (fun b => b.failed.isNone) &&
       (List.range k.kernel.nwarps).all (fun w => (k.warp w).ended)) = true := by decide

/-- A tile of core 0 under a tag, and the scratchpad address in S2. -/
def tiled (tag : BitVec 4) (a : Nat) : State :=
  (withWarp (fun y => { y with s := [(2, BitVec.ofNat 32 a)] })).onCore 0 (fun k => { k with tiles := [(31, { tag := tag })] })
theorem test_meets_TileWordsOfWarps :
    (∀ x ∈ [(Instr.tld (word 31 2 0 (2 ^ 24)), 0xF0000, 65536), (.tst (word 31 2 0 (2 ^ 24)), 0xF0000, 65536),
        (.tcvt (word 31 2 0 (2 ^ 24 + tyMod 10)), 0xF8000, 32768)], ∀ tag ∈ [0, 6],
      (∀ d ∈ [0, 8, 16], acts x.1 (tiled tag (x.2.1 + d)) (fun e => (e.k.tiles.get 31 {}).tag == tag && (e.k.tiles.get 31 {}).bad.isEmpty &&
        e.srcA false 0 == x.2.1 + d && (decide (e.srcA false 0 % 16 = 0) == (d != 8)) &&
        (decide (e.srcA false 0 + x.2.2 ≤ e.kernel.scratch) == (d == 0))) = true)) ∧
    acts (.tst (word 31 2 0 (2 ^ 24))) (tiled 8 0) (fun e => (e.k.tiles.get 31 {}).tag == 8) = true ∧
    acts (.tzero (word 31 0 0 0)) compute (fun e => e.st != .matrix) = true ∧
    (let w : RWord := fromS 0 2 4 (2 ^ 15 + 2 ^ 12)
     let s := (shaped lineRecord 0).onWarp 0 0 (fun y => { y with s := [(3, 128), (5, 127)] })
     acts (.mmaV w) s (fun e => e.k.shapeFree 0 && (mmaTrap e.k (s.wsGranted e.c) w (mmaVVals e.wp w) (e.k.shapeBytes 0)).isNone &&
       (e.k.tiles.get 0 {}).bad.isEmpty)) = true := by decide +kernel
theorem test_meets_TileWordsOfWarps_performed :
    (∀ f ∈ ([(.tzero, word 31 0 0 0), (.tld, word 31 2 0 0), (.tst, word 31 2 0 0), (.tcvt, word 31 2 0 (tyMod 10)), (.tcvt, word 31 2 0 (tyMod 11))] :
        List (Fn × RWord)),
      (let o := { opIn f.1 (.r f.2) (.compute 0) 1 .go with args := [0x40] }
       let s := withOp o
       ((s.core 0).findOp 0 == some o) && s.mayPerform 0 o && s.bad.isNone && (f.1 != .tcvt || tyWidth f.2.ty == 8 || tyWidth f.2.ty == 16))
        = true) ∧
    (let w := word 0 2 4 (2 ^ 15 + 2 ^ 12 + 2 ^ 10)
     let o := { opIn .mmaV (.r w) (.compute 0) 0x8001 .go with args := [0, 1, 0, 0, 127], bytes := lineRecord }
     let s := { withOp o with clk := 320 }
     ((s.core 0).findOp 0 == some o) && s.mayPerform 0 o && s.bad.isNone && (mmaArgs w o.args o.bytes).ws && !s.refreshing (dieOf 0) &&
       (mmaArgs w o.args o.bytes).rows == 1 && mmaCols o == [127] && ((s.core 0).tiles.get 0 {}).bad.isEmpty) = true := by decide

/-! Class KVA. -/

/-- Context 0 with space 0: one sequence, layer and head of 32 channels, two pages of positions. The entry of its first page names the frame at
0x31000, which the page at virtual address 0x1000 backs, with a status; the page's header has a FILL. -/
def kvBase (a : Actor) (st fill : Nat) : State :=
  let s := base a
  let tab := ((FMap.putNum [] 0 8 0x40001).putNum 0x10 4 1)
  { s with
    ctxs := [(0, { live := true, kvtab := tab })], kvBack := [(0x42000, { asid := 0, va := 0x1000 })],
    hbm := ((((s.hbm.putNum 0x40000 8 0x41001).putNum 0x41000 8 0x42001).putNum 0x42000 8 (0x31000 + st)).putNum 0x42008 8 1).putNum 0x31000 4
      (2 ^ 24 + 2 ^ 16 + fill * 2 ^ 8) }
def kvOp (st fill : Nat) (o : Op) : State := ((kvBase .outside st fill).onCore 0 (fun k => { k with ops := [o], lastOp := 1 })).onWarp 0 0
  (fun x => { x with splits := x.splits.mapV (fun p => { p with held := some 0 }) })

theorem test_kv_status : ∀ st ∈ [0, 1, 2, 3, 4], (kvBase .outside st 5).kvStatus ((kvBase .outside st 5).spaceOf 0 0) 5 =
    (st, 0x31000, some 0x42000) := by decide
theorem test_meets_KvSpacesAndAppends_words_issue :
    (∀ n ∈ [0, 15], acts (.kvsel (word 0 0 0 (2 ^ 4 + n))) compute (fun _ => true) = true) ∧ acts (.kvsel (word 0 2 0 (2 ^ 24))) compute (fun _ => true) = true ∧
    (∀ i ∈ [Instr.kprobe (word 1 2 0 0), .kunmap (word 1 2 0 0), .kmap (word 1 2 4 0)], acts i (kvBase (.compute 0 0 0) 1 0) (fun e =>
      e.coordTag.isNone && e.badCheck.isNone && e.kvSpaceTrap.isNone && (tagTrap 2 (tagOf 6) e.sourcesB).isNone) = true) ∧
    (let s := (kvBase (.compute 0 0 0) 1 0).onWarp 0 0 (fun x => { x with s := [(9, 0xFFC00)] })
     acts (.kmap (word 1 2 4 (2 ^ 21 + 9))) s (fun e => e.coordTag.isNone && e.badCheck.isNone && e.kvSpaceTrap.isNone &&
       (tagTrap 2 (tagOf 6) e.sourcesB).isNone && decide ((e.wp.s.get 9 0).toNat % 16 = 0) &&
       decide ((e.wp.s.get 9 0).toNat + 2 * e.space.dh * e.active.length ≤ e.kernel.scratch)) = true) ∧
    (∀ m ∈ [0, 2 ^ 21], acts (.kst (word 1 2 4 m)) (kvBase (.compute 0 0 0) 0 0) (fun e => e.coordTag.isNone && e.badCheck.isNone &&
      e.kvSpaceTrap.isNone && e.k.replays.isEmpty && (tagTrap 2 (tagOf 0) e.sourcesB).isNone && e.active.all (fun l =>
        decide (e.srcB false l % 16 = 0 ∧ e.srcB false l + 2 * e.space.dh * (if m = 0 then 4 else 2) ≤ e.kernel.scratch))) = true) := by decide
def kvTurn (s : State) (l : Nat) (o : Op) (w : RWord) : Bool :=
  decide ((s.core 0).findOp 0 = some o) && o.stage == .go && o.body == .r w && o.party == .compute 0 && opLanes o == [l] && o.eng.isNone && s.bad.isNone
theorem kvTurn_of {s : State} {l : Nat} {o : Op} {w : RWord} (h : kvTurn s l o w = true) : KvTurn s 0 0 0 l o w := by
  simp only [kvTurn, Bool.and_eq_true, Option.isNone_iff_eq_none, decide_eq_true_eq, beq_iff_eq] at h
  exact ⟨h.1.1.1.1.1.1, h.1.1.1.1.1.2, h.1.1.1.1.2, h.1.1.1.2, h.1.1.2, h.1.2, h.2⟩
def laneOp (fn : Fn) (w : RWord) (stage : Stage) (x : Word64) : Op :=
  { opIn fn (.r w) (.compute 0) 0x20 stage with addr := [(5, x)], args := [0], data := [(10, 0x1000)] }
theorem test_meets_KvSpacesAndAppends_words_performed :
    (∀ st ∈ [0, 1, 2, 3, 4], kvTurn (kvOp st 64 (laneOp .kprobe (word 1 2 0 0) .go 0)) 5 (laneOp .kprobe (word 1 2 0 0) .go 0) (word 1 2 0 0) = true) ∧
    (∀ x ∈ [(0, (0 : Word64)), (2, 63), (4, 0), (1, 0), (1, 128)], let o := laneOp .kunmap (word 1 2 0 0) .go x.2
      let s := kvOp x.1 0 o
      (kvTurn s 5 o (word 1 2 0 0) && (s.kvStatus (s.opSpace 0 o) x.2.toNat).1 == (if x.2 = 128 then 5 else x.1) && !s.kvReading 0x31000 &&
        (s.kunmapLane 0 o 5).2.bad.isNone) = true) ∧
    (∀ x ∈ [(1, (0 : Word64), 0), (0, 0, 3), (1, 128, 5)], let o := laneOp .kmap (word 1 2 4 0) .go x.2.1
      let s := kvOp x.1 0 o
      (kvTurn s 5 o (word 1 2 4 0) && (s.kmapWaits 0 o).isEmpty && (s.kmapLane 0 o 5).2.bad.isNone && (s.kmapLane 0 o 5).1 == x.2.2 &&
        (x.1 != 1 || x.2.2 == 5 || (s.backing 0 (kmapVa o 5) (kvPageSize (s.opSpace 0 o).dh) o.handler).isSome)) = true) ∧
    (let o := { laneOp .kst (word 1 2 4 0) .go 0 with outs := [(5, 2)] }
     kvTurn (kvOp 0 0 o) 5 o (word 1 2 4 0) = true) ∧
    (let d : KvSpace := (kvBase .outside 0 0).spaceOf 0 0
     decide (d.nseq < coordSeq (2 ^ 44) ∧ d.nlayer < coordLayer (2 ^ 36) ∧ d.nhead < coordHead (2 ^ 28) ∧ d.npage < coordPos 128 / 64)) = true := by
  decide +kernel
theorem test_meets_KvSpacesAndAppends_append :
    (∀ x ∈ ([(0, 0), (63, 63), (0, 64), (5, 4)] : List (Word64 × Nat)), let o := laneOp .kst (word 1 2 4 0) .check x.1
      let s := { kvOp 0 x.2 o with clk := 3 }
      (decide ((s.core 0).findOp 0 = some o) && decide (o.since + 3 ≤ s.clk) && s.bad.isNone && opLanes o == [5] && o.bad == 0 &&
        (((s.core 0).warp 0).splits.find o.slot).isSome && s.kvStatus (s.opSpace 0 o) x.1.toNat == (0, 0x31000, some 0x42000) &&
        s.kvHeader (s.opSpace 0 o) 0x31000 == some (x.2, false, 0) && decide (0x31000 + 192 + 99 * (s.opSpace 0 o).dh ≤ hbmTop)) = true) ∧
    (let o := laneOp .kst (word 1 2 4 0) .check 64
     let s := { kvOp 0 0 o with clk := 3 }
     decide ((s.core 0).findOp 0 = some o) && decide (o.since + 3 ≤ s.clk) && s.bad.isNone && opLanes o == [5] && o.bad == 0 &&
       (((s.core 0).warp 0).splits.find o.slot).isSome && s.kvStatus (s.opSpace 0 o) 64 == (1, 0, some 0x42008) && (s.core 0).halt.isNone) = true := by decide +kernel

/-- Tile loads of 64 positions of 64 bytes, and of the last row of the scratchpad; a load sent to its own core under barrier 3. -/
def tileState (lay sp : Nat) : State := (kvBase (.compute 0 0 0) 0 64).onWarp 0 0 (fun x =>
  { x with s := [(4, BitVec.ofNat 32 sp), (5, BitVec.ofNat 32 lay)] })
def tileOp (fn : Fn) (w : RWord) (stage : Stage) (coord lay : Word64) : Op :=
  { opIn fn (.r w) (.compute 0) 1 stage with args := [coord, 0x40, lay, 0] }
theorem test_meets_KvTilesAndPages_loads_issue :
    (∀ i ∈ [Instr.kldK (word 0 2 0 (2 ^ 24)), .kldV (word 0 2 0 (2 ^ 24)), .kldK (word 0 2 0 (2 ^ 24 + 2 ^ 21 + 2 ^ 17 + 3 * 2 ^ 12))], ∀ x ∈ [(0x43F, 0x40), (0x400, 0xFFFC0)],
      let s := tileState x.1 x.2
      acts i s (fun e => e.kvSpaceTrap.isNone && e.k.replays.isEmpty && e.tileArgs.2.2 == x.1 && e.tileArgs.2.1 == x.2 && e.space.dh == 32 &&
        decide (x.2 + x.1 % 2 ^ 8 * (16 * (x.1 / 2 ^ 8 % 2 ^ 16)) + 64 ≤ e.kernel.scratch)) = true) := by decide +kernel
theorem test_meets_KvTilesAndPages_loads_walk :
    (∀ x ∈ [((0 : Word64), (0x43F : Word64), none), (0, 0x440, some (64, 1)), (63, 0x401, some (1, 1))],
      let f : Fn := if x.1 = 63 then .kldV else .kldK
      let o := tileOp f (word 0 2 0 0) .check x.1 x.2.1
      let s := kvOp 0 64 o
      (decide ((s.core 0).findOp 0 = some o) && s.bad.isNone && (((s.core 0).warp 0).splits.find o.slot).isSome &&
        decide (s.tileBlock 0 o = x.2.2) && (s.core 0).halt.isNone && (arrivals 0 o).isNone) = true) := by decide +kernel
theorem test_meets_KvTilesAndPages_loads_performed : ∀ f ∈ [Fn.kldK, .kldV],
    (let o := { tileOp f (word 0 2 0 0) .go 0 0x401 with outs := [(0, 0x31000), (1, 0x31000)], data := [(0, 64), (1, 64)] }
     let s := kvOp 0 64 o
     (decide ((s.core 0).findOp 0 = some o) && s.bad.isNone && (arrivals 0 o).isNone && o.addr.isEmpty &&
       decide (2 * (s.tileSpace 0 o).dh ≤ tileStride o)) = true) ∧
    (let o := { tileOp f (word 0 2 0 (2 ^ 21 + 2 ^ 17 + 3 * 2 ^ 12)) .go 0 0x401 with outs := [(0, 0x31000), (1, 0x31000)], data := [(0, 64), (1, 64)] }
     let s := kvOp 0 64 o
     (decide ((s.core 0).findOp 0 = some o) && s.bad.isNone && decide (arrivals 0 o = some (3, [0])) && decide ([0].Nodup) && s.sameLaunch 0 0) = true) := by decide +kernel
/-- The page at virtual address 0 mapped by a leaf. -/
def mapped0 (leaf : Nat) (s : State) : State := { s with hbm := s.hbm.putNum 0x22000 8 leaf }
theorem test_meets_KvTilesAndPages_events_waits : ∀ f ∈ [Fn.kldK, .kldV, .kst],
    (let o := { tileOp f (word 0 2 0 0) .check 0 0x400 with kvw := [(0, 0), (1, 1)] }
     let s := { kvOp 2 64 o with ref := ticksOf 200 }
     (decide ((s.core 0).findOp 0 = some o) && s.bad.isNone && o.kvw.map (fun x => decide (x.2 + ticksOf 200 ≤ s.ref)) == [true, false]) = true) := by
  decide
theorem test_meets_KvTilesAndPages_events :
    (let s := kvBase .outside 0 64
     (s.bad.isNone && ((s.ctx 0).kvSpace 0).isSome && decide (s.kvStatus (s.spaceOf 0 0) 0 = (0, 0x31000, some 0x42000)) && decide (0x42000 + 8 ≤ hbmTop) &&
       !s.kvReading 0x31000 && !s.kvSpoilt 0 0 (coordPage 0) &&
       decide (s.leafOf 0 (s.kvBack.get 0x42000 default).va = some (0x22000, 65536, 0x300E2)) &&
       s.kvBack.all (fun y => y.1 == 0x42000 || y.2.asid != 0 || decide (y.2.va / 65536 ≠ (s.kvBack.get 0x42000 default).va / 65536)) &&
       !(s.ctx 0).hostPins.get 0 false) = true) ∧
    (let o := { tileOp .kldK (word 0 2 0 0) .go 0 0x400 with outs := [(0, 0x31000)], data := [(0, 64)] }
     let s := kvOp 0 64 o
     (decide ((s.core 0).findOp 0 = some o) && s.bad.isNone && (o.outs.find 0).isSome && decide (tileCoord o 0 = some 0)) = true) ∧
    (let o := laneOp .kst (word 1 2 4 0) .check 0
     let s := kvOp 0 64 o
     (decide ((s.core 0).findOp 0 = some o) && s.bad.isNone && o.lanes.getLsbD 5) = true) ∧
    (∀ leaf ∈ [0x300E2, 0x4E2], let s := mapped0 leaf (kvBase .outside 2 64)
     (s.kvStatus (s.spaceOf 0 0) 0 == (2, 0x31000, some 0x42000) && s.leafOf 0 (s.kvBack.get 0x42000 default).va == some (0x22000, 65536, leaf) &&
       (leafSt leaf == 0) == (leaf == 0x300E2) && (leafSt leaf == 0 || !s.restoreOk 0 0 1)) = true) := by decide +kernel

/-! Class STK. -/

def xs (f : FMap Word64) : State := withSc (fun x => { x with x := f, whi := 0x60000000 })
def scWord (w : RWord) (e : SEnv) (n : Nat) : Nat := scratchAddress w e n
theorem test_meets_StackCoreWordsClaimsAndDma_words :
    (∀ f ∈ zForms, ∀ ty ∈ [9, 2, 3], (fnOf (f.1 (word 0 0 0 0)) == some .zsel || fnOf (f.1 (word 0 0 0 0)) == some .zcvt ||
      stacked (f.1 (word 31 1 2 (tyMod ty))) stackBase (fun _ => true)) = true) ∧
    stacked (.zsel (word 31 1 2 0)) stackBase (fun _ => true) = true ∧
    stacked (.zcvt (word 31 1 0 (tyMod 9 + 2))) stackBase (fun _ => true) = true ∧
    (∀ i ∈ [Instr.xld (word 3 1 0 (3 * 2 ^ 19)), .xst (word 3 1 0 (3 * 2 ^ 19))], ∀ a ∈ [0, 0x1FFF8, 0x20000, 4], stacked i (xs [(1, BitVec.ofNat 64 a)])
      (fun e => scWord (word 3 1 0 (3 * 2 ^ 19)) e 8 == a) = true) ∧
    (∀ i ∈ [Instr.zld (word 3 1 0 0xFFFF), .zst (word 3 1 0 0xFFFF)], ∀ a ∈ [0x40, 0x20000, 0x20040, 0x41], stacked i (xs [(1, BitVec.ofNat 64 a)])
      (fun e => scWord (word 3 1 0 0xFFFF) e 64 == a - 64) = true) ∧
    (∀ m ∈ [0, 31, 32 + 31], stacked (.zbcast (word 3 1 0 m)) stackBase (fun _ => true) = true) ∧
    (∀ m ∈ [0, 1 + 4 * 31, 2 + 4 * 31], stacked (.zmov (word 3 1 0 m)) stackBase (fun _ => true) = true) ∧
    stacked (.zmov (word 3 0 0 3)) stackBase (fun _ => true) = true ∧
    (∀ ty ∈ [2, 3], stacked (.zred (word 3 1 0 (tyMod ty))) stackBase (fun _ => true) = true) ∧
    (∀ n ∈ [0, 0x7F], stacked (.cmdend (word 0 1 0 n)) stackBase (fun _ => true) = true) := by decide

def claimed (n : Nat) : State := (xs [(1, 0x800), (2, 0x40), (3, 0x1FFC0), (4, 0)]).onSc 0 0 (fun x =>
  { x with claims := List.replicate n ⟨0x800, 0x840⟩ })
theorem test_meets_StackCoreWordsClaimsAndDma_claims :
    (∀ d ∈ [0, 3], stacked (.rclaim (word d 1 4 0)) (claimed 0) (fun e => e.sc.xreg 4 == 0) = true) ∧
    stacked (.rclaim (word 0 1 2 0)) (claimed 15) (fun e => e.sc.nearOk 0x800 0x40 && decide (e.sc.claims.length < 16)) = true ∧
    stacked (.rclaim (word 0 1 2 0)) (claimed 16) (fun e => e.sc.nearOk 0x800 0x40 && decide (16 ≤ e.sc.claims.length)) = true ∧
    stacked (.rclaim (word 0 1 2 0)) ((claimed 0).onSc 0 0 (fun x => { x with whi := 0x83F })) (fun e => !e.sc.nearOk 0x800 0x40) = true ∧
    stacked (.rrel (word 0 1 2 0)) (claimed 2) (fun e => e.sc.deferral.isEmpty) = true ∧
    stacked (.rrel (word 0 0 0 1)) (claimed 2) (fun e => e.sc.deferral.isEmpty) = true ∧
    (∀ f ∈ [Instr.bdmaLd, .bdmaSt], stacked (f (word 3 1 2 0)) (claimed 0) (fun e => e.sc.nearOk 0x800 0x40 && decide (e.sc.dmas.length < 8 ∧
        e.sc.xreg 3 = 0x1FFC0 ∧ e.sc.xreg 1 = 0x800 ∧ e.sc.xreg 2 = 0x40)) = true ∧
      stacked (f (word 3 1 2 0)) ((claimed 0).onSc 0 0 (fun x => { x with dmas := List.replicate 8 ⟨0, true, 0, 0, 64, 0⟩ }))
        (fun e => decide (8 ≤ e.sc.dmas.length)) = true) ∧
    (∀ l ∈ [true, false], let s := withSc (fun x => { x with dmas := [⟨5, l, 0x800, 0x40, 64, 1⟩] })
      (((s.sc 0 0).dmas.find? (fun d => d.id == 5)).isSome && s.bad.isNone) = true) := by decide

/-- Commands sent from lane 3 of core 0 to its own stack's core 3, whose queue has n commands. -/
def cmdWord (x : Nat) : RWord := word 2 0 4 (31 * 2 ^ 17 + x)
def aCmd (op : Nat) (load : Bool) : StackCmd := { core := 0, op := op, lane := 3, asid := 0, load := load, args := [0x100, 7, 0] }
def sent (o : Op) (x : SCore) : State :=
  { (withOp o).setSc 0 3 x with ready := 0x1000000, ctxs := [(0, { live := true, sgrant := 1 })] }
def delivers (s : State) (n : Nat) (o : Op) (w : RWord) : Bool :=
  decide ((s.core 0).findOp 0 = some o) && o.stage == .go && o.body == .r w && o.party == .compute 0 && opLanes o == [3] &&
    (s.core 0).ops.all (fun x => !(decide (x.id < o.id) && x.party == o.party && x.eng == some 2 && x.stage == .go)) &&
    (s.core 0).writesDone o.party o.id && (match s.target 0 (s.core 0).asid (stackOf 0 w) (w.fld 16 11 + 3) with
      | .ok m => m == n
      | .error _ => false) && s.bad.isNone
theorem delivers_of {s : State} {n : Nat} {o : Op} {w : RWord} (h : delivers s n o w = true) : Delivers s 0 0 0 3 n o w := by
  simp only [delivers, Bool.and_eq_true, Option.isNone_iff_eq_none, decide_eq_true_eq, beq_iff_eq, List.all_eq_true, Bool.not_eq_true',
    Bool.and_eq_false_iff] at h
  obtain ⟨⟨⟨⟨⟨⟨⟨⟨h1, h2⟩, h3⟩, h4⟩, h5⟩, h6⟩, h7⟩, h8⟩, h9⟩ := h
  refine ⟨h1, h2, h3, h4, h5, fun x hx c => ?_, h7, ?_, h9⟩
  · have := h6 x hx
    simp [c.1, c.2.1, c.2.2.1, c.2.2.2] at this
  · split at h8
    · rename_i m hm
      rw [hm, beq_iff_eq.mp h8]
    · cases h8
theorem test_meets_StackCommands_issue :
    (∀ i ∈ [Instr.nmx (word 2 3 4 (31 * 2 ^ 17 + 2 ^ 24)), .nmxr (word 2 0 0 (31 * 2 ^ 17)), .nmxc (word 0 0 0 (23 * 2 ^ 17 + 60)),
      .nmxb (word 0 2 4 (31 * 2 ^ 17 + 2 ^ 24 + 2 ^ 22))], acts i compute (fun e => e.badCheck.isNone) = true) := by decide
theorem test_meets_StackCommands_delivered :
    (∀ n ∈ [0, 7, 8], let w := cmdWord (14 * 4)
      let o := { opIn .nmx (.r w) (.compute 0) 8 .go with args := [0x100], data := [(6, 7), (7, 1)], eng := some 2 }
      delivers (sent o { queue := List.replicate n (aCmd 9 false) }) 3 o w = true) ∧
    (∀ f ∈ [Fn.nmxr, .nmxc], let w := cmdWord 60
      let o := { opIn f (.r w) (.compute 0) 8 .go with eng := some 2 }
      (delivers (sent o { queue := [aCmd 9 false] }) 3 o w && (((sent o { queue := [aCmd 9 false] }).sc 0 3).job == .idle)) = true) := by decide
theorem test_meets_StackCommands_run :
    (∀ n ∈ [0, 32756, 32760, 2], let s := withSc (fun x => { x with queue := [{ aCmd 0 false with args := [BitVec.ofNat 64 n, 7, 0] }], job := .idle })
      let x := s.sc 0 0
      (s.bad.isNone && x.queue.length == 1 && x.job == .idle && x.queue.all (fun y => !y.load && y.args.head? == some (BitVec.ofNat 64 n)) && x.saved.isNone) = true) ∧
    (let s := { withSc (fun x => { x with queue := [aCmd 0 false], job := .command (aCmd 0 false) }) with sclk := 1024 }
     let x := s.sc 0 0
     s.bad.isNone && x.job == .command (aCmd 0 false) && x.ending.isNone && decide (x.started + 2 ^ (0 + 10) ≤ s.sclk)) = true ∧
    (∀ st ∈ [0, 0x7F, 0x80], let w := cmdWord (14 * 4)
      let o := { opIn .nmx (.r w) (.compute 0) 8 .held with todo := 8 }
      let s := sent o { queue := [aCmd 0 false], job := .command (aCmd 0 false), ending := some st }
      let x := s.sc 0 3
      (s.bad.isNone && x.job == .command (aCmd 0 false) && x.ending == some st && x.dmas.isEmpty && x.deferral.isEmpty &&
        (s.core 0).findOp 0 == some o && !w.mb 1 && decide (w.fld 5 2 < 15) && o.todo == BitVec.ofNat 64 (2 ^ 3)) = true) ∧
    (let o := { opIn .nmxb (.r (cmdWord 60)) (.compute 0) 8 .held with args := [0x100, 0x17FFC], status := 1, bytes := [1, 2, 3, 4] }
     let s := sent o { queue := [aCmd 0 true] }
     let off := (o.arg 1).toNat % 2 ^ 16
     s.bad.isNone && (s.sc 0 3).queue == [aCmd 0 true] && (s.sc 0 3).job == .idle && (s.sc 0 3).saved.isNone &&
       (s.core 0).findOp 0 == some o && off % 4 == 0 && off + (o.arg 1).toNat / 2 ^ 16 % 2 ^ 16 * 4 == 32768) = true ∧
    (let o := { opIn .atom (.r (word 4 2 6 0)) (.compute 0) 1 .held with todo := 1 }
     let d : Deferred := { core := 0, op := 0, lane := 0, addr := 0x30000, since := 0 }
     let s := { sent o { deferral := [d] } with ref := 125000 }
     s.bad.isNone && (s.sc 0 3).deferral[0]? == some d && decide (d.since + ticksOf 100 ≤ s.ref) && ((s.core 0).findOp 0).isSome) = true := by decide

/-! Classes SYN and RGN. -/

/-- Core 0 with barrier 3, EXPECT 2, with one arrival or none. -/
def barred (a : Actor) (n : Nat) : State := (base a).onCore 0 (fun k => { k with bars := [(3, { expect := 2, n := n })] })
theorem test_meets_BarrierInit :
    (∀ n ∈ [0, 256, 1, 255], ∀ b ∈ [0, 31], let s := compute.onWarp 0 0 (fun x => { x with s := [(4, BitVec.ofNat 32 n)] })
      acts (.barInit (word 0 b 4 (2 ^ 22))) s (fun e => e.srcB false 0 == n && (e.k.bar b).n == 0 && !e.k.waitsOn b && !s.willArrive e.c b) = true) ∧
    (let s := (barred (.compute 0 0 0) 1).onWarp 0 0 (fun x => { x with s := [(4, 1)] })
     acts (.barInit (word 0 3 4 (2 ^ 22))) s (fun e => e.srcB false 0 == 1 && decide ((e.k.bar 3).n ≠ 0))) = true := by decide
theorem test_meets_BarriersAndFences_barriers :
    (∀ n ∈ [0, 1], (∀ i ∈ [Instr.barArv (word 0 3 0 0), .barWait (word 0 3 0 0), .barSync (word 0 3 0 0)],
        acts i (barred (.compute 0 0 0) n) (fun e => (e.k.bar 3).n == n) = true) ∧
      (∀ i ∈ [Instr.barArv (word 0 3 0 0), .barWait (word 0 3 0 0)], acts i (barred (.access 0 0) n) (fun e => (e.k.bar 3).n == n) = true) ∧
      ∀ i ∈ [Instr.mbarArv (word 0 3 0 0), .mbarWait (word 0 3 0 1), .mbarSync (word 0 3 0 2)], acts i (barred (.matrix 0) n) (fun e =>
        (e.k.bar 3).n == n) = true) ∧
    (let s := (barred .outside 0).onCore 0 (fun k => { k with
       mst := { k.mst with mend := true }, warps := k.warps.mapV (fun x => { x with
         acc := { x.acc with aend := true }, splits := x.splits.mapV (fun p => { p with bar := some (3, false) }) }) })
     let k := s.core 0
     s.bad.isNone && k.halt.isNone && k.block.any (fun b => b.failed.isNone) && ((k.warp 0).splits.map (fun x => x.2.bar)) == [some (3, false)] &&
       s.orphaned 0 0 3 && (k.warp 0).acc.aend) = true := by decide
theorem test_meets_BarriersAndFences_fences :
    (∀ x ∈ [0, 2, 5], ∀ kind ∈ [0, 1, 2], let w := word 0 0 0 (x * 2 ^ 19 + kind * 2 ^ 17)
      acts (.fence w) compute (fun e => e.fenceReady (w.fld 18 17) (w.fld 21 19) && (windowTrap e.wp.pendings e.party).isNone) = true) ∧
    (let s := compute.onCore 0 (fun k => { k with ops := [opIn .ld (.r size4) (.compute 0) 1 .go] })
     acts (.fence (word 0 0 0 (2 ^ 17))) s (fun e => !e.fenceReady 1 0)) = true ∧
    (let p : Pending := { cause := .windowFault, party := .compute 0, flag := 0, eng := none, pc := 0, addr := 0, status := 1 }
     acts (.fence (word 0 0 0 0)) (withWarp (fun x => { x with pendings := [p] })) (fun e => e.fenceReady 0 0 &&
       (windowTrap e.wp.pendings e.party).isSome)) = true ∧
    stacked (.fence (word 0 0 0 0)) stackBase (fun e => e.sc.dmas.isEmpty) = true ∧
    stacked (.fence (word 0 0 0 0)) (withSc (fun x => { x with dmas := [⟨5, true, 0x800, 0x40, 64, 1⟩] })) (fun e => !e.sc.dmas.isEmpty) = true := by
  decide

/-- A signal at 0x40 of the mapped page with a value, and an operation of lane 15 on it. -/
def sigWordOf (x : Nat) : RWord := fromS 6 2 4 (14 * 2 ^ 9 + x)
def sigOp (fn : Fn) (w : RWord) (b : Word64) : Op := { memOp fn w 0x8000 .go [(15, 0x40)] with
  args := [b], data := [(60, b.setWidth 32), (61, (b >>> 32).setWidth 32)] }
def sigState (o : Op) (v : Nat) : State := let s := memState o
  { s with hbm := s.hbm.putNum 0x30040 8 v }
def signalAt (s : State) (o : Op) (w : RWord) : Bool :=
  performs s o w && windowLanes s 0 o == 0 && o.party == .compute 0 && !o.handler && (opLanes o).head? == some 15 &&
    o.todo == BitVec.ofNat 64 (2 ^ 15) && o.bad == 0 && (match s.opPlace 0 o (o.addr.get 15 0).toNat with
      | some (leaf, p) => p == .hbm 0x30040 && (s.heldBy 0 leaf).isNone
      | none => false)
theorem signalAt_of {s : State} {o : Op} {w : RWord} (h : signalAt s o w = true) : SignalAt s 0 0 0 15 0x30040 o w := by
  simp only [signalAt, Bool.and_eq_true, beq_iff_eq, Bool.not_eq_true'] at h
  obtain ⟨⟨⟨⟨⟨⟨⟨h1, h2⟩, h3⟩, h4⟩, h5⟩, h6⟩, h7⟩, h8⟩ := h
  refine ⟨performs_of h1, h2, h3, h4, h5, h6, h7, ?_, by decide⟩
  split at h8
  · rename_i leaf p hp
    simp only [Bool.and_eq_true, beq_iff_eq, Option.isNone_iff_eq_none] at h8
    exact ⟨leaf, by rw [hp, h8.1], h8.2⟩
  · cases h8
theorem test_meets_Signals :
    (∀ i ∈ [Instr.sigAdd (fromS 6 2 4 (2 ^ 18)), .sigWait (fromS 6 2 4 (3 * 2 ^ 17)), .sigRd (word 6 2 0 (2 ^ 24)), .sigSet (fromS 0 2 4 0)],
      acts i compute (fun _ => true) = true) ∧
    (∀ f ∈ [Fn.sigRd, .sigSet, .sigAdd, .sigWait], let o := sigOp f (sigWordOf (2 ^ 18)) 7
      (signalAt (sigState o 7) o (sigWordOf (2 ^ 18)) && (((((sigState o 7).core 0).warp 0).splits.find o.slot).isSome) &&
        !rowClaimed ((sigState o 7).sc (ownerOf 0x30040).1 (ownerOf 0x30040).2.1).claims (ownerOf 0x30040).2.2) = true) ∧
    (∀ x ∈ [(0, 8, 0, false), (2, 6, 0, false), (1, 8, 0, false), (3, 7, 0, false), (1, 8, 1, true)],
      let w := sigWordOf (x.1 * 2 ^ 17 + x.2.2.1 * 2 ^ 13)
      let o := sigOp .sigWait w 7
      let s := { sigState o x.2.1 with ref := 2500 }
      (signalAt s o w && !sigCond (w.fld 18 17) (BitVec.ofNat 64 (numberAt s .hbm 0x30040 8)) (o.arg 0) && decide (w.fld 16 13 ≠ 0 ∧ o.born + ticksOf (2 ^ w.fld 16 13) ≤ s.ref) == x.2.2.2) = true) := by decide
theorem test_meets_Atomics_hbm :
    ∀ f ∈ [Fn.atom, .atomg], ∀ ty ∈ [0, 1, 8], let w := word 4 2 6 (tyMod ty + 2 ^ 13 + 14 * 2 ^ 9)
    let o := memOp f w 0x8000000000000000 .go [(63, 0xFFF8)]
    let s := memState o
    (performs s o w && o.todo == o.lanes && o.bad == 0 && o.lanes == BitVec.ofNat 64 (2 ^ 63) &&
      (match s.opPlace 0 o (o.addr.get 63 0).toNat with
       | some (leaf, p) => p == .hbm 0x3FFF8 && (s.heldBy 0 leaf).isNone
       | none => false) &&
      !rowClaimed (s.sc (ownerOf 0x3FFF8).1 (ownerOf 0x3FFF8).2.1).claims (ownerOf 0x3FFF8).2.2) = true := by decide

/-- Region r of context 0 in a state with a holder. -/
def regioned (r : Nat) (x : Region) (s : State) : State := { s with regions := [(r, x)] }
def freeRegion : Region := { valid := true, gen := 255 }
def heldRegion (cl : Nat) : Region := { valid := true, state := 1, holder := cl }
def rgnWord (x : Nat) : RWord := word 2 4 0 (2 ^ 24 + x)
theorem test_meets_Regions_issue :
    (∀ i ∈ [Instr.acqr (rgnWord 15), .rgnq (rgnWord 0), .relr (rgnWord 0)], acts i compute (fun _ => true) = true) ∧
    (∀ x ∈ [(heldRegion 0, true, true), (heldRegion 1, true, false), (({} : Region), false, false)],
      let s := regioned 4095 x.1 (compute.onWarp 0 0 (fun y => { y with s := [(4, 4095)] }))
      acts (.relr (rgnWord 0)) s (fun e => e.srcA false 0 == 4095 && (s.regionFor e.blk.asid 4095).isSome == x.2.1 && s.holds (e.c / 2) 4095 == x.2.2) = true) := by
  decide
/-- The cluster of core 0 with sixteen regions held, numbers 1 to 16, and region 4095 as given. -/
def fullList (x : Region) (s : State) : State :=
  { s with regions := (List.range 16).map (fun i => (i + 1, heldRegion 0)) ++ [(4095, x)] }
theorem test_meets_Regions_performed :
    (∀ x ∈ [(freeRegion, 0), (heldRegion 1, 0), (heldRegion 0, 0), (heldRegion 1, 1), (({} : Region), 0)],
      let o := { opIn .acqr (.r (rgnWord x.2)) (.compute 0) 1 .go with args := [4095] }
      let s := regioned 4095 x.1 (withOp o)
      ((s.core 0).findOp 0 == some o && s.bad.isNone && decide ((s.heldList 0).length < 16) && !s.earlierAcqr 4095 0 &&
        (s.regionFor (s.core 0).asid 4095).isSome == x.1.valid) = true) ∧
    (∀ x ∈ [freeRegion, heldRegion 1], let o := { opIn .acqr (.r (rgnWord 0)) (.compute 0) 1 .go with args := [4095] }
      let s := fullList x (withOp o)
      ((s.core 0).findOp 0 == some o && s.bad.isNone && (s.heldList 0).length == 16 && s.regionFor (s.core 0).asid 4095 == some x) = true) ∧
    (∀ p ∈ [0, 2, 4], let o := { opIn .relr (.r (rgnWord 0)) (.compute 0) 1 .go with args := [4095], pos := p }
      let s := regioned 4095 { heldRegion 0 with state := 2 } (withOp o)
      ((s.core 0).findOp 0 == some o && s.bad.isNone && s.mayPerform 0 o && !(s.core 0).writesBefore 0 && !(s.core 1).writesBefore 0) = true) ∧
    (let o := { opIn .relr (.r (rgnWord 0)) (.compute 0) 1 .go with id := 1, args := [4095] }
     let s := regioned 4095 { heldRegion 0 with state := 2 } (withCore .outside (fun k =>
       { k with ops := [opIn .st (.r size4) (.compute 0) 1 .check, o], lastOp := 2 }))
     ((s.core 0).findOp 1 == some o && s.bad.isNone && (s.core 0).writesBefore 1 && !s.mayPerform 0 o) = true) ∧
    (let o := { opIn .acqr (.r (rgnWord 15)) (.compute 0) 1 .go with args := [4095] }
     let s := { withOp o with ref := ticksOf (2 ^ 15) }
     ((s.core 0).findOp 0 == some o && s.bad.isNone && decide (o.born + ticksOf (2 ^ (rgnWord 15).fld 3 0) ≤ s.ref))) = true ∧
    (let o := { opIn .rgnq (.r (rgnWord 0)) (.compute 0) 1 .go with args := [7] }
     (((withOp o).core 0).findOp 0 == some o && (withOp o).bad.isNone)) = true := by decide

/-! The caches. -/

/-- The arguments of a range or of a POD word that is in flight in core 0. -/
def flying (fn : Fn) (w : RWord) (args : List Word64) : Op := { opIn fn (.r w) (.compute 0) 1 .go with args := args }
def inFlight (s : State) (o : Op) (w : RWord) : Bool :=
  ((s.core 0).findOp 0 == some o) && o.stage == .go && o.body == .r w && o.party == .compute 0 && s.bad.isNone
theorem inFlight_of {s : State} {o : Op} {w : RWord} (h : inFlight s o w = true) : InFlight s 0 0 0 o w := by
  simp only [inFlight, Bool.and_eq_true, Option.isNone_iff_eq_none, beq_iff_eq] at h
  exact ⟨h.1.1.1.1, h.1.1.1.2, h.1.1.2, h.1.2, h.2⟩
theorem test_meets_CachesAndSlices_words :
    (∀ i ∈ [Instr.wb (fromS 0 2 4 (2 ^ 21)), .inv (fromS 0 2 4 0), .wbinv (fromS 0 2 4 (2 ^ 20)), .pin (fromS 1 2 4 0), .unpin (fromS 1 2 4 0)],
      acts i compute (fun _ => true) = true) ∧
    (∀ f ∈ [Fn.wb, .inv, .wbinv], let w := word 0 2 4 (2 ^ 21)
      let o := flying f w [0xFFC0, 0x40]
      let s := { withOp o with l2 := [(0x3FFC0 / 64, { st := .m })], copies := [(2 * 2 ^ 61 + 0x3FFC0 / 64, true)] }
      (inFlight s o w && (s.core 0).writesDone o.party o.id && s.heldBytes.isEmpty && decide (w.fld 21 20 ≠ 0) &&
        s.rangePieces 0 o.handler 0xFFC0 0x40 == [⟨0x300E2, .hbm 0x3FFC0, 0x40⟩] && (s.heldBy 0 0x300E2).isNone) = true) ∧
    (∀ f ∈ [Fn.wb, .inv, .wbinv, .pin, .unpin], let o := { flying f (word 0 2 4 0) [0, 0x40] with id := 1 }
      let s := withCore .outside (fun k => { k with ops := [opIn .st (.r size4) (.compute 0) 1 .go, o], lastOp := 2 })
      ((s.core 0).findOp 1 == some o && s.bad.isNone && !(s.core 0).writesDone o.party o.id) = true) ∧
    (∀ f ∈ [Fn.pin, .unpin], ∀ pins ∈ [[], [(0x300, 1)]], let o := flying f (word 1 2 4 0) [0x40, 0xC0]
      let s := { withOp o with pins := pins }
      (inFlight s o (word 1 2 4 0) && (s.core 0).block.isSome && (match s.rangePieces 0 o.handler 0x40 0xC0 with
        | [p] => p.lines 0 == [0x300]
        | _ => false) && (s.core 0).writesDone o.party o.id && decide (s.pinCount 0 < 32768)) = true) := by decide
/-- A slice with room for one more pin, and one without. -/
theorem test_meets_CachesAndSlices_words_edge : ∀ n ∈ [32767, 32768],
    ({ base .outside with pins := List.replicate n (0, 1) } : State).pinCount 0 = n := by
  intro n _; simp [State.pinCount]
theorem test_meets_CachesAndSlices_slices :
    (∀ pins ∈ [[], [(0x300, 1)]], let s := { base .outside with pins := pins, heldBytes := [(0xC00, ⟨0, true, List.replicate 64 7⟩)] }
      (s.bad.isNone && (s.pins.find (lineKey 0 0x300)).isSome == !pins.isEmpty && !s.strm.get (lineKey 0 0x300) false &&
        (s.linesOf 0).all (fun l => !s.strm.get (lineKey 0 l) false) &&
        (s.heldBytes.find (heldKey 0 0xC00)).any (fun x => x.m && x.bytes.length == 64)) = true) ∧
    (∀ line ∈ [0x300, 0x301], let s := { base .outside with
        strm := [(0x300, true)], heldBytes := [(0xC00, ⟨0, false, []⟩), (0xC04, ⟨0, false, []⟩)] }
      (s.linesOf 0 == [0x300, 0x301] && (s.pins.find (lineKey 0 line)).isNone && s.strm.get (lineKey 0 0x300) false &&
        (s.strm.get (lineKey 0 line) false) == decide (line = 0x300)) = true) ∧
    (∀ st ∈ [1, 2], let s := { base .outside with podcfg := 0x900, ports := [(0, { state := st })] }
      (s.bad.isNone && headOn s.order s.self 0 == some 0 && (s.port 0).state == st && (headOn s.order s.self 1).isNone) = true) ∧
    hbmTop - 1 + [(5 : BitVec 8)].length ≤ hbmTop ∧ hbmTop < hbmTop + [(5 : BitVec 8)].length := by decide

/-! Class POD. -/

/-- A pod of order 2 whose package 0 reaches module 0 at its port 0. The module has a data window, a queue of capacity 4 and a reduction
window; the context may reach all of it. -/
def podState (mods : FMap Byte) (o : Op) : State :=
  { withOp o with
    podcfg := 0x900, ports := [(0, { state := 1 })], ctxs := [(0, { live := true, mranges := [⟨0, 0, 2 ^ 56⟩] })],
    mods := mods.putBytes 0 (toLe (2 ^ 40) 16 ++ toLe (1 + 2 ^ 16) 4) }
def queueMods (head tail : Nat) : FMap Byte :=
  ((FMap.putNum [] 0x1000000 4 head).putNum 0x1000004 4 tail).putNum 0x1000008 4 4
def shiftHeader (m : FMap Byte) : FMap Byte := (m.putNum 8 8 (2 ^ 40)).putNum 0x10 4 (1 + 2 ^ 16)
def podAt (mods : FMap Byte) (o : Op) : State := let s := podState [] o
  { s with mods := shiftHeader mods }

theorem test_meets_ModuleWindows_launch :
    (∀ x ∈ [0x40000008, 0x40000001], let s := compute.onWarp 0 0 (fun y => { y with s := [(2, BitVec.ofNat 32 x)] })
      ∀ i ∈ [Instr.matom (fromS 0 2 4 8), .matom (fromS 0 2 4 (8 + 4 * 2 ^ 14)), .mflagSet (fromS 0 2 4 8), .mflagWait (fromS 6 2 4 8)],
        acts i s (fun e => e.srcA true 0 % 2 ^ 56 == x) = true) ∧
    (∀ n ∈ [0, 15], let s := compute.onWarp 0 0 (fun y => { y with s := [(4, BitVec.ofNat 32 (0x100000 - 64 * (n + 1)))] })
      ∀ i ∈ [Instr.mqPush (fromS 6 2 4 (8 + n * 2 ^ 8)), .mqPop (fromS 6 2 4 (8 + n * 2 ^ 8))], acts i s (fun e =>
        decide (e.srcB false 0 % 64 = 0 ∧ e.srcB false 0 + 64 * (n + 1) ≤ e.kernel.scratch)) = true) ∧
    (let s := compute.onWarp 0 0 (fun y => { y with s := [(2, 0x2000040), (4, 0x40), (5, 128)] })
     acts (.mred (fromS 0 2 4 8)) s (fun e => decide (e.srcA true 0 % 2 ^ 56 % 64 = 0 ∧ e.bReg 1 = 128 ∧ e.bReg 0 = 0x40))) = true ∧
    (∀ n ∈ [0, 7], acts (.lnkStat (word 2 0 0 (n * 2 ^ 8))) compute (fun _ => true) = true) ∧
    acts (.grpStat (word 4 0 0 (15 * 2 ^ 18))) compute (fun _ => true) = true ∧
    (∀ f ∈ [Fn.lnkStat, .grpStat], inFlight (withOp (flying f (word 4 0 0 0) [1, 2])) (flying f (word 4 0 0 0) [1, 2]) (word 4 0 0 0) = true) := by
  decide

def isPlace (m off : Nat) : Except Nat (Option (Nat × Nat × Option Nat)) → Bool
  | .ok (some (a, b, none)) => a == m && b == off
  | _ => false
def unitOf (f : Fn) : Nat := if f = .mqPush ∨ f = .mqPop then 0x10000 else if f = .mred then 1 else 8
def atModule (s : State) (off : Nat) (o : Op) (w : RWord) : Bool :=
  inFlight s o w && !s.podEarlier 0 o && (s.core 0).releaseReady o.party o.id && s.mayPerform 0 o && s.attached 0 &&
    isPlace 0 off (s.podPlace (s.core 0).asid (w.fld 21 18) (o.arg 0) (unitOf o.fn))
theorem atModule_of {s : State} {off : Nat} {o : Op} {w : RWord} (h : atModule s off o w = true) : AtModule s 0 0 0 0 off o w := by
  simp only [atModule, Bool.and_eq_true, Bool.not_eq_true'] at h
  obtain ⟨⟨⟨⟨⟨h1, h2⟩, h3⟩, h4⟩, h5⟩, h6⟩ := h
  refine ⟨inFlight_of h1, h2, h3, h4, h5, ?_⟩
  simp only [unitOf, isPlace] at h6
  split at h6
  · rename_i a b hx
    simp only [Bool.and_eq_true, beq_iff_eq] at h6
    rw [hx, h6.1, h6.2]
  · cases h6
theorem test_meets_ModuleWindows_operations :
    (∀ f ∈ [Fn.matom, .mflagSet, .mflagWait], ∀ off ∈ [0x40000000, 0x10040000000 - 8], let w := word 2 2 4 (8 + 2 ^ 12)
      let o := flying f w [BitVec.ofNat 64 off, 5, 0]
      let s := podAt [] o
      (atModule s off o w && s.modRegion 0 off 8 == .data && off % 8 == 0 && !s.modPoison 0 off 8) = true) ∧
    (∀ f ∈ [Fn.mqPush, .mqPop], ∀ x ∈ [(0, 0), (0, 3), (0, 4), (2 ^ 32 - 1, 0)], let w := word 2 2 4 8
      let o := flying f w [0x1000000, 0x40]
      let s := podAt (queueMods x.1 x.2) o
      (atModule s 0x1000000 o w && s.queueHead 0 0x1000000 == some (x.1, x.2, 4) && !s.modPoison 0 0x1000000 12 &&
        !s.modPoison 0 (0x1000000 + 0x400 + 64 * (x.1 % 4)) 64) = true) := by decide +kernel
theorem test_meets_ModuleWindows_operations_refused :
    (∀ f ∈ [Fn.matom, .mflagSet, .mflagWait, .mred], let w := word 2 2 4 8
      let o := flying f w [0x0700000040000000, 5, 0]
      let s := podAt [] o
      (inFlight s o w && !s.podEarlier 0 o && (s.core 0).releaseReady o.party o.id && s.mayPerform 0 o &&
        (match s.podPlace 0 0 (o.arg 0) (unitOf f) with
        | .error st => st == 8
        | .ok _ => false)) = true) ∧
    (∀ f ∈ [Fn.matom, .mflagSet, .mflagWait, .mqPush, .mqPop, .mred], let w := word 2 2 4 8
      let o := { flying f w [0x40000000, 5, 0] with id := 1 }
      let t := podAt [] o
      let s := t.onCore 0 (fun k => { k with ops := [{ flying .matom w [0x40000000] with id := 0 }, o], lastOp := 2 })
      ((s.core 0).findOp 1 == some o && s.bad.isNone && s.podEarlier 0 o && o.port.isNone &&
        decide (s.ref < o.born + ticksOf (s.group (s.core 0).asid 0).tout) &&
        decide (({ s with ref := 250000 } : State).ref ≥ o.born + ticksOf (s.group (s.core 0).asid 0).tout)) = true) ∧
    (let o := { flying .mflagSet (word 2 2 4 8) [0x40000000, 5] with id := 1 }
     let s := withCore .outside (fun k => { k with ops := [opIn .st (.r size4) (.compute 0) 1 .go, o], lastOp := 2 })
     (s.core 0).findOp 1 == some o && s.bad.isNone && !(s.core 0).releaseReady o.party o.id) = true := by decide +kernel

/-- A reduction window with its target buffer at 0x40000000, armed or not. -/
def redMods (ctl : Nat) : FMap Byte :=
  ((FMap.putNum [] 0x2000008 4 ctl).putNum 0x2000010 8 0x40000000).putNum 0x2000018 4 64
theorem test_meets_ReductionsExchangesAndPorts_reductions : ∀ ctl ∈ [1, 0x4000001],
    (let w := word 0 2 4 8
     let o := flying .mred w [0x2000000, 0x40, 64]
     let s := podAt (redMods ctl) o
     atModule s 0x2000000 o w && s.modRegion 0 0x2000000 64 == .reduction 0x2000000 0 && s.mayReach (s.ctx 0) 0 0x2001000 64 (some []) &&
       s.modRegion 0 0x2001000 64 == .reduction 0x2000000 0x1000 && moduleNumber s 0 0x2000008 4 == ctl && moduleNumber s 0 0x2000010 8 == 0x40000000 &&
       moduleNumber s 0 0x2000018 4 == 64) = true := by decide +kernel

theorem test_meets_GroupsAndCollectives_words :
    (∀ i ∈ [Instr.grpForm (word 6 2 0 (2 ^ 24)), .colRs (word 0 2 0 (2 ^ 24)), .colAg (word 0 2 0 (2 ^ 24 + 15 * 2 ^ 18 + 255 * 2 ^ 8))],
      acts i compute (fun e => e.colRoom 0) = true) ∧
    (let x : Collective := { core := 0, grp := 0, bkt := 3, gather := true, gen := 0, seq := 0, desc := [] }
     let s := { compute with ctxs := [(0, { live := true, cols := (List.range 64).map (fun i => (i, x)) })] }
     acts (.colAg (word 0 2 0 (2 ^ 24))) s (fun e => !e.colRoom 0) && acts (.colWait (word 2 0 0 (3 * 2 ^ 8))) s (fun e =>
       ((s.ctx e.blk.asid).colsOf 0).any (fun y => y.2.bkt == 3))) = true ∧
    acts (.colWait (word 2 0 0 (255 * 2 ^ 8))) compute (fun e => ((compute.ctx e.blk.asid).colsOf 0).isEmpty && (compute.colOps e.blk.asid).isEmpty) =
      true ∧
    inFlight (withOp (flying .colWait (word 2 0 0 0) [3])) (flying .colWait (word 2 0 0 0) [3]) (word 2 0 0 0) = true := by decide +kernel
/-- A GRP.FORM or COL word whose check of its descriptor ends, in a pod whose modules the context may all reach, beside an earlier access
or by itself. -/
def descWord : RWord := word 6 2 0 (3 * 2 ^ 8)
def descOp (f : Fn) : Op := { memOp f descWord 1 .check [(0, 0x40)] with id := 1, args := [0x40] }
def described (f : Fn) (g : Group) (bs : List Byte) (ops : List Op) : State :=
  let s := podAt [] (descOp f)
  let x : Context := { live := true, mranges := (List.range 8).map (fun m => ⟨m, 0, 2 ^ 56⟩), groups := [(0, g)] }
  ({ s with clk := 3, ctxs := [(0, x)], hbm := s.hbm.putBytes 0x30040 bs }).onCore 0 (fun k =>
    { k with ops := ops ++ [descOp f], lastOp := 2,
             warps := k.warps.mapV (fun y => { y with splits := y.splits.mapV (fun p => { p with held := some 1 }) }) })
/-- Descriptors (R333): 64 bytes of I32 elements with windows from 0, and one of a reserved type. -/
def colDesc (y : Nat) : List Byte :=
  toLe 0x40 8 ++ toLe 0x80 8 ++ toLe 64 4 ++ toLe y 4 ++ toLe 0 8 ++ toLe 0x40000000 8 ++ toLe 0x100000 8 ++ List.replicate 16 0
def aGroup : Group := { formed := true, mask := 1 }
def checksEnd (s : State) (f : Fn) (bs : List Byte) : Bool :=
  let o := descOp f
  (s.core 0).findOp 1 == some o && o.stage == .check && o.body == .r descWord && o.party == .compute 0 && !o.handler && s.bad.isNone &&
    decide (o.since + 3 ≤ s.clk) && (((s.core 0).warp 0).splits.find o.slot).isSome && (opLanes o).all (fun l =>
      s.laneCheck 0 o.fn o.handler (o.status != 0) o.regions (opSize o) (o.addr.get l 0) == .ok) &&
    s.rangeBytes 0 (s.core 0).asid (o.arg 0).toNat 64 == some bs
theorem test_meets_GroupsAndCollectives_words_checked :
    (∀ f ∈ [Fn.grpForm, .colRs, .colAg], let bs := colDesc 0
      (let s := described f aGroup bs [{ opIn .ld (.r size4) (.compute 0) 1 .go with addr := [(0, 0x40)] }]
       checksEnd s f bs && !s.mayPerform 0 (descOp f)) = true ∧
      (let s := described f aGroup bs []
       checksEnd s f bs && s.mayPerform 0 (descOp f) && (s.colOps 0).all (fun y => decide (1 ≤ y.id))) = true) ∧
    (∀ f ∈ [Fn.colRs, .colAg], ∀ x ∈ [(({} : Group), 0, 0), (aGroup, 0x40000000, 1), ({ aGroup with mask := 3 }, 0, 2), ({ aGroup with mask := 3 }, 0, 3)],
      let bs := colDesc x.2.1
      let t := described f x.1 bs []
      let s := if x.2.2 = 2 then { t with ctxs := t.ctxs.mapV (fun y => { y with mranges := [] }) } else t
      let y : Collective := { core := 0, grp := 0, bkt := 3, gather := f == .colAg, gen := x.1.gen, seq := x.1.seq, desc := bs, party := .compute 0,
                              op := 1 }
      (checksEnd s f bs && s.mayPerform 0 (descOp f) && s.walk 0 y.sig == .invalid &&
        (x.1.formed && x.1.mask.getLsbD s.self) == decide (x.2.2 ≠ 0) && y.valid s.order == decide (x.2.2 ≠ 1) &&
        (decide (x.2.2 < 2) || s.colGranted 0 x.1 y == (x.2.2 == 3))) = true) := by decide +kernel
theorem test_meets_GroupsAndCollectives_words_performed :
    (∀ x ∈ [(0x7F, 0xFF, 0, true), (1, 6, 5, true), (0x7E, 0xFF, 0, false), (0x80, 0xFF, 0, false), (1, 7, 0, false)],
      let bs := toLe x.1 8 ++ toLe 7 4 ++ toLe (x.2.1 * 2 ^ 8 + x.2.2.1 * 2 ^ 16) 4 ++ List.replicate 48 0
      let o := { flying .grpForm (word 6 2 0 0) [0x40] with bytes := bs }
      let s := podAt [] o
      (inFlight s o (word 6 2 0 0) && bs.length == 64 && (parseGroup s.self (podN s.order) bs).isSome == x.2.2.2 &&
        ((s.ctx 0).colsOf 0).isEmpty && (s.colOpsOf 0 0).isEmpty) = true) ∧
    (∀ f ∈ [Fn.colRs, .colAg], let o := { flying f (word 0 2 0 0) [0x40] with pos := 5 }
      let x : Collective := { core := 0, grp := 0, bkt := 3, gather := true, gen := 0, seq := 0, desc := [] }
      let s := withOp o
      (inFlight s o (word 0 2 0 0) && ((s.ctx 0).cols.find o.pos).isNone &&
        inFlight { s with ctxs := [(0, { live := true, cols := [(5, x)] })] } o (word 0 2 0 0) && x.stage == .start) = true) := by decide +kernel
def collecting (x : Collective) (mask : Word64) : State :=
  { base .outside with
    podcfg := 0x900, ports := [(0, { state := 1 })], ref := 250000,
    ctxs := [(0, { live := true, cols := [(0, x)], groups := [(0, { formed := true, mask := mask })] })] }
def aCollective (gather : Bool) (stage : ColStage) (since : Nat) : Collective :=
  { core := 0, grp := 0, bkt := 3, gather := gather, gen := 0, seq := 0, stage := stage, since := since,
    desc := toLe 0x40 8 ++ toLe 0x80 8 ++ toLe 64 4 ++ List.replicate 20 0 ++ toLe 0x100000 8 ++ List.replicate 16 0 }
theorem test_meets_GroupsAndCollectives_steps :
    ((compute.ctx 0).cols.find 5).isNone = true ∧
    (∀ n ∈ [0, 1], let x := aCollective true .run n
      let s := collecting x 3
      (((s.ctx 0).cols.find 0 == some x) && s.bad.isNone && !x.done.getLsbD s.self && (s.group 0 0).mask.getLsbD s.self &&
        (s.core x.core).releaseReady x.party x.op && (s.liveModules (s.group 0 0)).all (fun e => !s.portWaits e.2) &&
        (s.rangeBytes 0 0 x.src x.shb).isSome && decide (s.self < 64) && decide (x.since + ticksOf (s.group 0 0).tout ≤ s.ref) == (n == 0)) = true) ∧
    (let x := aCollective false .run 0
     let s := collecting x 3
     ((s.ctx 0).cols.find 0 == some x) && s.bad.isNone && decide (x.since + ticksOf (s.group 0 0).tout ≤ s.ref)) = true ∧
    (∀ k ∈ [1, 2, 3], let x := aCollective true (.voted k) 0
      let s := collecting x 1
      (((s.ctx 0).cols.find 0 == some x) && s.self == (s.group 0 0).coord && ((s.group 0 0).members s.order).all (fun p => (s.voteOf 0 x p).isSome) &&
        (s.group 0 0).members s.order == [0]) = true) ∧
    (let x := aCollective true (.decided 4) 0
     let s := collecting x 1
     ((s.ctx 0).cols.find 0 == some x) && s.walk 0 x.sig == .invalid) = true := by decide +kernel

/-- A replay ring at 0x40 of the mapped page. -/
def ringed (cap head tail : Nat) (o : Op) : State := let s := podAt [] o
  { s with hbm := s.hbm.putBytes 0x30040 (toLe 0x1000 8 ++ toLe cap 4 ++ toLe head 4 ++ toLe tail 4 ++ toLe 0 4 ++ toLe 0x40000000 8) }
def xch (fn : Fn) (n : Nat) (stage : Stage) : Op :=
  { opIn fn (.r (word 6 2 4 8)) (.compute 0) 1 stage with args := [0x1000000, 0x40, BitVec.ofNat 64 n, 0] }
def isReady : RingPages → Bool
  | .ready => true
  | _ => false
theorem ready_of {x : RingPages} (h : isReady x = true) : x = .ready := by
  cases x <;> simp_all [isReady]
theorem test_meets_ReductionsExchangesAndPorts_exchanges :
    (∀ n ∈ [0, 64, 65], let s := compute.onWarp 0 0 (fun y => { y with s := [(4, 0xFF000), (5, BitVec.ofNat 32 n)] })
      acts (.xchPush (fromS 6 2 4 8)) s (fun e => decide (e.bReg 0 % 64 = 0 ∧ e.bReg 0 + 64 * min (e.bReg 1) 64 ≤ e.kernel.scratch)) = true) ∧
    acts (.replay (fromS 6 2 4 8)) compute (fun _ => true) = true ∧
    (∀ x ∈ [(4, 0, 0, 0), (4, 0, 0, 65), (3, 0, 0, 1), (4, 4, 0, 1), (4, 1, 3, 2), (0x10000, 0, 0xFFFF, 1)],
      let f : Fn := if x.2.2.2 = 65 then .replay else .xchPush
      let s := ringed x.1 x.2.1 x.2.2.1 (xch f x.2.2.2 .go)
      ((s.core 0).findOp 0 == some (xch f x.2.2.2 .go) && s.bad.isNone && (s.ringAt 0 0x40).any (fun r => r.cap == x.1 && r.head == x.2.1 &&
        r.tail == x.2.2.1 && r.rsv == 0) && isReady (s.ringPages 0 0 32 .read [0x40]) && !s.podEarlier 0 (xch f x.2.2.2 .go) &&
        (s.core 0).releaseReady (.compute 0) 0 && decide (s.ref < ticksOf (s.group 0 0).tout) && decide (ticksOf (s.group 0 0).tout ≤ 250000)) =
        true) ∧
    (∀ v ∈ [0, 1], let o := { xch .xchPush 1 .held with pos := 1, bytes := packRecs [(1, { maddr := 0x1000000, grp := 0, bytes := toLe (v * 2 ^ 48) 64 })] }
      let s := ringed 4 0 0 o
      ((s.core 0).findOp 0 == some o && (unpackRecs o.pos o.bytes).all (fun x => x.1 == 1 &&
          s.replyFor 0 0x40000000 x.2 == (if v = 0 then some 0 else none)) &&
        isReady (s.ringPages 0 0 32 .read [0x40]) && isReady (s.ringPages 0 0 32 .write [0x40]) &&
        (s.ringAt 0 0x40).any (fun r => (s.park 0 0x40 r 0 []).bad.isNone) &&
        decide (s.ref < o.born + ticksOf (s.group 0 0).tout)) = true) := by decide +kernel
theorem test_meets_ReductionsExchangesAndPorts_ports :
    (∀ n ∈ [0, 2, 3], decide ((({ compute with ports := [(0, { state := n })] } : State).port 0).state ≠ 1) = true) ∧
    (let s := podAt ((FMap.putNum [] (0x1000000 + 0x10000 * 56 + 8) 4 4)) (flying .nop (word 0 0 0 0) [])
     let t := { s with mods := s.mods.putNum 0x10 2 64 }
     (t.port 0).state == 1 && t.queueHead (moduleAt t.order t.self 0) (0x1000000 + 0x10000 * 56) == some (0, 0, 4)) = true ∧
    (let s := { compute with ports := [(0, { state := 2, failed := 1 })] }
     (s.port 0).usable == some 2) = true ∧
    (∀ x ∈ [(0, 2), (15, 2), (7, 1)], let s := { compute with ports := [(0, { state := 1, width := 2 })] }
      (s.bad.isNone && s.host0.elogsize == 0 && !(s.port 0).failed.getLsbD x.1) = true) ∧
    (∀ n ∈ [1, 2], let s := { compute with ports := [(0, { state := n, failed := 0xFFFF })] }
      ((s.port 0).usable.isNone && s.ctxs.all (fun e => e.2.graphs.isEmpty)) = true) ∧
    (∀ x ∈ [0x7701, 0x7702], let s := { compute with
        podcfg := 0x900, ready := 0x10000, ports := [(0, {})], mods := (FMap.putNum [] 1 1 1).putBytes 2 (toLe x 2 ++ [3, 0]) }
      (s.podcfg.getLsbD 11 && s.order == 2 && s.ready.getLsbD 16 && (s.port 0).usable == some 0 && moduleNumber s 0 2 2 == x && moduleNumber s 0 1 1 == 1 &&
        moduleNumber s 0 4 1 == s.order + 1 && moduleAt s.order s.self 0 == 0) = true) := by decide +kernel

/-! Class GRF. -/

/-- A launch descriptor (R344): CODE, its word at 8, GRIDX and the word at 0x10, the word at 0x14, PARAM, ARG, GATE and the signals. -/
def launchDesc (code y x z n param arg gate sig0 sig1 : Nat) : List Byte :=
  toLe code 8 ++ toLe y 4 ++ toLe x 4 ++ toLe z 4 ++ toLe n 4 ++ toLe param 8 ++ toLe arg 8 ++ toLe gate 8 ++ toLe sig0 8 ++ toLe sig1 8
/-- A load of 16 bytes into no weight store, and the same with a CODE that is no multiple of 16. -/
def weightDesc : List Byte := launchDesc 0x100 (2 * 2 ^ 28) 0 0 16 0 0 0 0 0
def badDesc : List Byte := launchDesc 0x108 (2 * 2 ^ 28) 0 0 16 0 0 0 0 0
def aLaunch (desc : List Byte) : Launch := { asid := 0, desc, src := .program }
def withDesc (bs : List Byte) (o : Op) : State := let s := withOp o
  { s with hbm := s.hbm.putBytes 0x30040 bs }
/-- The page at virtual address 0 NOTRES. -/
def notResident (s : State) : State := { s with hbm := s.hbm.putNum 0x22000 8 0x2E2 }
def launchOf (f : Fn) (n : Nat) : Op := flying f (word 2 2 4 0) [0x40, BitVec.ofNat 64 n]

theorem test_meets_LaunchAndQueueWords_issue :
    (∀ x ∈ [0x40, 0x48], let s := compute.onWarp 0 0 (fun y => { y with s := [(2, BitVec.ofNat 32 x), (4, 64)] })
      ∀ i ∈ [Instr.launch (word 1 2 0 (2 ^ 24)), .launchg (fromS 2 2 4 0)], acts i s (fun e => e.srcA true 0 == x) = true) ∧
    (∀ n ∈ [0, 63], let s := compute.onWarp 0 0 (fun y => { y with s := [(4, BitVec.ofNat 32 (0x100000 - 64 * (n + 1)))] })
      acts (.nqPush (fromS 1 2 4 n)) s (fun e =>
        decide (e.srcB false 0 % 64 = 0 ∧ e.srcB false 0 + 64 * (n + 1) ≤ e.kernel.scratch)) = true) ∧
    acts (.nqFlush (word 1 2 0 (2 ^ 24))) compute (fun _ => true) = true ∧
    acts (.nqStat (word 4 2 0 (2 ^ 24 + 3 * 2 ^ 20))) compute (fun _ => true) = true := by decide
theorem test_meets_LaunchAndQueueWords_performed : ∀ f ∈ [Fn.launch, .launchg],
    (∀ n ∈ [0, 1, 64, 65], let o := launchOf f n
      (inFlight (withDesc weightDesc o) o (word 2 2 4 0) && ((withDesc weightDesc o).core 0).releaseReady o.party o.id) = true) ∧
    (let o := { launchOf f 1 with id := 1 }
     let s := withCore .outside (fun k => { k with ops := [opIn .st (.r size4) (.compute 0) 1 .go, o], lastOp := 2 })
     (s.core 0).findOp 1 == some o && s.bad.isNone && !(s.core 0).releaseReady o.party o.id) = true := by decide +kernel
theorem test_meets_LaunchAndQueueWords_descriptors :
    ((withDesc badDesc (launchOf .launch 1)).checkLaunch 0 0x40 .program).1 = .status 2 ∧
    ((notResident (withDesc weightDesc (launchOf .launch 1))).checkLaunch 0 0x40 .program).1 = .wait ∧
    (let r := (withDesc weightDesc (launchOf .launchg 1)).checkLaunch 0 0x40 .program
     decide (r.1 = .ok (aLaunch weightDesc)) && r.2.bad.isNone && decide (r.2.launches.length + 1 ≤ 1024)) = true := by decide +kernel
def fullLaunches : FMap Launch := (List.range 1024).map (fun i => (i, aLaunch weightDesc))
def fullState : State := { withDesc weightDesc (launchOf .launch 1) with launches := fullLaunches }
theorem test_meets_LaunchAndQueueWords_full : (fullState.checkLaunch 0 0x40 .program).1 = .ok (aLaunch weightDesc) ∧
    (fullState.checkLaunch 0 0x40 .program).2.bad = none ∧ (fullState.checkLaunch 0 0x40 .program).2.launches.length = 1024 :=
  ⟨by decide +kernel, by decide +kernel, by decide +kernel⟩

/-- A graph table of one node: a ring of 128 records at 0x1000, batches of 4, two of them at a time, a flush after 9 µs. -/
def graphTable : List Byte :=
  toLe (1 + 2 ^ 16) 4 ++ List.replicate 0x1FC 0 ++ toLe 0x1000 8 ++ toLe 128 4 ++ toLe (4 * 2 ^ 16 + 2) 4 ++ toLe 9 8 ++ toLe 0x80 8 ++
    List.replicate 0x60 0
def graphed (x : GraphNode) (s : State) : State :=
  { s with ctxs := s.ctxs.mapV (fun c => { c with live := true, graphs := [(0, { launch := 0, table := graphTable, nodes := [(0, x)] })] }) }
theorem test_meets_LaunchAndQueueWords_nodes :
    (∀ f ∈ [Fn.nqPush, .nqFlush, .nqStat], let o := flying f (word 4 2 4 (3 * 2 ^ 20)) [0, 0x40]
      let s := graphed {} (withOp o)
      (inFlight s o (word 4 2 4 (3 * 2 ^ 20)) && ((s.ctx 0).graphs.find 3).isNone && (s.core 0).releaseReady o.party o.id) = true) ∧
    (∀ f ∈ [Fn.nqFlush, .nqStat], let o := flying f (word 4 2 4 0) [0, 0x40]
      let s := graphed {} (withOp o)
      (inFlight s o (word 4 2 4 0) && ((s.ctx 0).graphs.find 0).any (fun g => decide (0 < tNodes g.table) && (g.node 0).pend == 0)) = true) := by
  decide +kernel

/-! Launches, the scheduler, and the placement of blocks and stack kernels. -/

/-- A context that may use stack group 0, every unit of the package ready, and these launches. -/
def scheduled (ls : FMap Launch) (s : State) : State :=
  { s with ready := BitVec.allOnes 64, launches := ls,
           ctxs := [(0, { live := true, sgrant := 1, priocap := 7, areas := [(0x600000, false)] })] }
/-- A grid of one block, with a gate and a signal; its high word may set PRE. -/
def gridLaunch (y gate sig stage : Nat) : Launch :=
  { asid := 0, desc := launchDesc 0x40 y 1 (1 + 2 ^ 16) 0 0 0 gate sig 0, src := .program, stage, left := 1, prio := y / 2 ^ 24 % 8,
    kernel := bootKernel }
def gated (v : Nat) : State := let s := scheduled [(1, gridLaunch 0 0x40 0 0)] (base .outside)
  { s with hbm := s.hbm.putNum 0x30040 8 v }
theorem test_meets_LaunchesAndScheduler_gates :
    ((base .outside).launches.find 1).isNone = true ∧ (gridLaunch 0 0 0 1).stage = 1 ∧
    (let l := gridLaunch 0 0 0 0
     let s := scheduled [(1, l)] (base .outside)
     s.bad.isNone && decide (s.launches.find 1 = some l) && l.stage == 0 && dKind l.desc == 0 && dGate l.desc == 0) = true ∧
    (∀ v ∈ [0, 1, 2 ^ 63], let s := gated v
      let r := s.lcRange 0 0x40 8 .read
      (decide (s.launches.find 1 = some (gridLaunch 0 0x40 0 0)) && dGate (gridLaunch 0 0x40 0 0).desc == 0x40 && r.1 == .ok && r.2.bad.isNone &&
        decide ((BitVec.ofNat 64 (leNat (r.2.lcBytes 0 0x40 8))).toInt > 0) == (v == 1)) = true) ∧
    (let l := gridLaunch 0 0x100000 0 0
     let s := scheduled [(1, l)] (base .outside)
     let r := s.lcRange 0 0x100000 8 .read
     dGate l.desc == 0x100000 && r.1 == .bad .pageFault && r.2.bad.isNone) = true := by decide +kernel
theorem test_meets_LaunchesAndScheduler_ends :
    (let l := gridLaunch 0 0 0 1
     let s := scheduled [(1, l)] (base .outside)
     s.bad.isNone && decide (s.launches.find 1 = some l) && !l.isOver) = true ∧
    (let l := { gridLaunch 0 0 0 2 with left := 0 }
     let s := scheduled [(1, l)] (base .outside)
     s.bad.isNone && decide (s.launches.find 1 = some l) && l.isOver && decide (l.src = .program) && dSig0 l.desc == 0 && dSig1 l.desc == 0 && l.fail.isNone) =
      true ∧
    (let l := { gridLaunch 0 0 0x40 2 with left := 0 }
     let s := scheduled [(1, l)] (base .outside)
     let r := s.lcRange 0 0x40 8 .both
     decide (s.launches.find 1 = some l) && l.isOver && dSig0 l.desc == 0x40 && dSig1 l.desc == 0 && r.1 == .ok && r.2.bad.isNone &&
       (match r.2.xlate r.2.ltlb 0 0x40 with
        | .ok leaf b _ => placeOf leaf b 0x40 == .hbm 0x30040
        | _ => false) && s.sigPage 0 0x40 == .ok) = true := by decide +kernel

/-- Cores 0 to 3 with blocks: core 3 of launch 0, the others of another context's launch. -/
def crowded (ls : FMap Launch) : State :=
  let s := scheduled ls (base .outside)
  { s with cores := (List.range 4).map (fun c => (c, { block := some { launch := if c = 3 then 0 else 5, asid := 0 } })) }
theorem test_meets_LaunchesAndScheduler_preemption :
    (let l := gridLaunch (2 ^ 27 + 2 ^ 24) 0 0 1
     let s := crowded [(0, { gridLaunch 0 0 0 2 with next := 1 }), (1, l)]
     s.bad.isNone && decide (s.launches.find 1 = some l) && s.wants 1 && dPre l.desc && (List.range 96).all (fun d => !s.coreOk 1 l d) &&
       s.victims l == [3] && s.cores.all (fun x => x.2.preempt.isNone) && (s.savedWith 3).isEmpty && dCores l.desc == 0 &&
       decide (l.next < dBlocks l.desc)) = true ∧
    (let l := gridLaunch 0 0 0 1
     let s := scheduled [(1, l)] (base .outside)
     !dPre l.desc && s.coreOk 1 l 1 && !s.wants 2) = true := by decide +kernel
def aBatch : Batch := { seq := 0, first := 0, count := 4, launch := some 9 }
theorem test_meets_LaunchesAndScheduler_nodes :
    (((graphed {} (base .outside)).ctx 0).graphs.find 3).isNone = true ∧
    (∀ x ∈ [({ pend := 3 } : GraphNode), { pend := 1, timer := some 0, batches := [aBatch, { aBatch with seq := 1 }] }], ∀ r ∈ [11249, 11250],
      let s := { graphed x (base .outside) with ref := r }
      (s.bad.isNone && ((s.ctx 0).graphs.find 0).any (fun g => g.node 0 == x && g.enders.isEmpty && decide (x.pend < tTile g.table 0) && !x.flush &&
        x.batches.all (fun b => b.launch.isSome) && tMaxb g.table 0 == 2 && decide (0 < tNodes g.table) && decide (0 < x.pend) && tFlush g.table 0 == 9 &&
        (List.range 8).all (fun e => tMaddr g.table e == 0) &&
        (x.timer.isNone || decide (2 ≤ x.outstanding) && decide (s.ref < ticksOf 9) == (r == 11249)))) = true) := by decide +kernel

/-- The table with its first drain entry on the queue of module 0 at 0x1000000; a record for node `n` stands in the ring. -/
def drainTable : List Byte :=
  toLe (1 + 2 ^ 16) 4 ++ List.replicate 0x3C 0 ++ toLe 0x1000000 8 ++ toLe 0x40000000 8 ++ List.replicate 0x1B0 0 ++ graphTable.drop 0x200
def drained (n tail : Nat) : State :=
  let s := podAt ((queueMods 0 tail).putNum 0x1000400 4 n) (flying .nop (word 0 0 0 0) [])
  { s with ctxs := s.ctxs.mapV (fun c => { c with graphs := [(0, { launch := 0, table := drainTable })] }) }
def drains (s : State) (tail : Nat) : Bool :=
  s.bad.isNone && ((s.ctx 0).graphs.find 0).any (fun g => tMaddr g.table 0 == 0x1000000 && (List.range 8).all (fun d => d == 0 || tMaddr g.table d == 0) &&
    g.unreachable.isEmpty && (s.drainBad 0 g.table 0).isNone && (match s.maddr (s.group 0 (tGrp g.table 0)).dead (tMaddr g.table 0) with
      | .ok x => x == (0, 0x1000000, none)
      | .error _ => false) && s.route 0 none == .direct 0 && s.queueHead 0 0x1000000 == some (0, tail, 4) &&
    !s.modPoison 0 0x1000000 12 && !s.modPoison 0 0x1000400 64)
theorem test_meets_LaunchesAndScheduler_drains :
    (∀ t ∈ [0, 1, 4], (drains (drained 1 t) t && (((drained 1 t).ctx 0).graphs.find 0).any (fun g =>
      decide (tNodes g.table ≤ leNat (((drained 1 t).modBytes 0 0x1000400 64).take 4)) &&
        (drained 1 t).modRegion 0 (replyOff (tXgoff g.table 0) 0 0) 8 == .data && replyOff (tXgoff g.table 0) 0 0 % 8 == 0)) = true) := by decide +kernel

theorem test_meets_BlocksAndStackKernels_placement :
    (base .outside).placement = none ∧
    (let l := gridLaunch 0 0 0 1
     let s := scheduled [(1, l)] { base .outside with cores := [] }
     s.bad.isNone && decide (s.placement = some (1, l, 0, none, 0)) && s.areaFree l.asid == some 0x600000) = true := by decide +kernel
/-- The block of core 0 with every stream ended; its cluster may hold region 7. -/
def allEnded (held : Bool) : State :=
  let s := (withCore .outside (fun k => { k with mst := { k.mst with mend := true }, warps := k.warps.mapV (fun x => { x with ended := true }) }))
  if held then { s with regions := [(7, heldRegion 0)] } else s
theorem test_meets_BlocksAndStackKernels_ends :
    (let s := allEnded false
     let k := s.core 0
     s.bad.isNone && k.block.any (fun b => b.failed.isNone && b.kernel.nwarps == 1 && s.clusterQuiet 0 b.launch) && (k.warp 0).ended && k.mst.mend && k.halt.isNone &&
       k.ops.isEmpty && k.array.isEmpty && k.pends.isEmpty) = true ∧
    (let s := (allEnded true).onCore 1 (fun k => { k with ops := [{ opIn .st (.r size4) (.compute 0) 1 .go with id := 0 }] })
     let t := { s with opId := 1 }
     (t.core 0).block.any (fun b => !t.clusterQuiet 0 b.launch)) = true ∧
    (let s := base .outside
     (s.core 0).block.any (fun b => b.failed.isNone) && !((s.core 0).warp 0).ended && (s.core 1).block.isNone) = true ∧
    (let s := withCore .outside (fun k => { k with block := some { kernel := bootKernel, failed := some .trap } })
     s.bad.isNone && (s.core 0).block.any (fun b => b.failed.isSome)) = true := by decide +kernel

/-- A stack kernel of one word at 0x100, for ENTRY 32764, for stack core (0, 0). -/
def kernelLaunch (prio : Nat) (todo : List (Nat × Nat)) : Launch :=
  { asid := 0, desc := launchDesc 0x100 (2 ^ 28 + prio * 2 ^ 24 + 2 ^ 27) 1 0 (32764 * 2 ^ 16 + 1) 0 5 0 0 0, src := .program, stage := 1, left := 1, prio,
    todo }
theorem test_meets_BlocksAndStackKernels_starts :
    (∀ ls ∈ [[], [(2, kernelLaunch 1 [(0, 0)])]], let l := kernelLaunch 0 [(0, 0)]
      let s := scheduled ((1, l) :: ls) (base .outside)
      let r := s.lcRead 0 (dCode l.desc) (4 * dWords l.desc)
      (s.bad.isNone && decide (s.launches.find 1 = some l) && dKind l.desc == 1 && l.stage != 0 && !l.suspended && s.ready.getLsbD 24 && (s.sc 0 0).queue.isEmpty &&
        (s.sc 0 0).job == .idle && (s.sc 0 0).dmas.isEmpty && s.stackBefore 0 0 1 l == !ls.isEmpty && r.1 == .ok && r.2.2.bad.isNone &&
        l.fail.isNone) = true) := by decide +kernel
def kernelRuns (x : SCore) (ls : FMap Launch) : State := (scheduled ls (base .outside)).setSc 0 0 x
theorem test_meets_BlocksAndStackKernels_leave :
    (∀ y ∈ [false, true], ∀ ds ∈ [[], [(⟨5, true, 0x800, 0x40, 64, 1⟩ : Dma)]],
      let s := kernelRuns { job := .kernel 1, dmas := ds } ((1, kernelLaunch 0 []) :: if y then [(2, kernelLaunch 1 [(0, 0)])] else [])
      (s.bad.isNone && (s.sc 0 0).job == .kernel 1 && (s.sc 0 0).saved.isNone && (s.sc 0 0).ending.isNone && s.mustLeave 0 0 1 == y && !(s.sc 0 0).stopping &&
        (s.sc 0 0).dmas == ds && (s.sc 0 0).deferral.isEmpty) = true) ∧
    (∀ x ∈ [(false, StackJob.idle, false), (true, .idle, false), (false, .kernel 2, false), (false, .idle, true)],
      let l := { kernelLaunch 0 [] with suspended := x.1 }
      let s := kernelRuns { job := x.2.1, saved := some 1, slo := 0x10000, shi := 0x20000 } ((1, l) :: if x.2.2 then [(2, kernelLaunch 1 [(0, 0)])] else [])
      (s.bad.isNone && (s.sc 0 0).saved == some 1 && decide (s.launches.find 1 = some l) && s.stackBefore 0 0 1 l == x.2.2) = true) ∧
    ((base .outside).sc 0 0).saved = none ∧ ((base .outside).sc 0 0).job = .idle := by decide +kernel

/-! The package as a whole. -/

theorem test_meets_TimePowerAndReset :
    (State.reset.bad.isNone && !State.reset.podcfg.getLsbD 11 && State.reset.host0.elogsize == 0 && decide (State.reset.todns / 1000 ≤ State.reset.tick) &&
      !State.reset.host0.entrig && State.reset.l2.all (fun e => e.2.st != .m)) = true ∧
    (let s : State := { State.reset with podcfg := 0x900, tod := 1000 * (5 * 2 ^ 32), host0 := { entrig := true, armed := true, pwrcap := 1000 } }
     s.podcfg.getLsbD 11 && decide (s.tick < s.todns / 1000) && !s.ready.getLsbD 2 && s.host0.entrig && s.host0.armed && s.host0.pwrcap == 1000 &&
       s.host0.elogsize == 0) = true ∧
    (∀ p ∈ [1000, 1001], ∀ h ∈ [1049, 1050], decide ((1000 < p ∨ 1050 ≤ h) ∨ ¬(1000 < p ∨ 1050 ≤ h)) = true) ∧
    (0 ∈ readyBits ∧ 47 ∈ readyBits ∧ 4 ∉ readyBits) ∧
    (let s : State := { State.reset with ready := 0x1008001 }
     s.ready.getLsbD 0 && s.ready.getLsbD 15 && s.ready.getLsbD 24 && !s.ready.getLsbD 1 && s.host0.elogsize == 0) = true ∧
    (∀ n ∈ [0, 319, 320], decide (refreshPhase n 0 < 320) = (n != 320)) := by decide

/-- A load of the 16 bytes at 0x100 of its page into the weight store of die 0. -/
def storeLaunch : Launch := { aLaunch (launchDesc 0x100 (2 * 2 ^ 28) 1 0 16 0 0x1FFFFFF0 0 0 0) with stage := 1, left := 1, todo := [(0, 0)] }
theorem test_meets_WeightStoresAndStorageErrors_stores :
    (∀ z ∈ [[], [0]], ∀ b ∈ [false, true],
      let s : State := { scheduled [(1, storeLaunch)] (if b then base .outside else { base .outside with cores := [] }) with zeroing := z }
      let r := s.lcRead 0 (dCode storeLaunch.desc) (dCores storeLaunch.desc)
      (s.bad.isNone && decide (s.launches.find 1 = some storeLaunch) && dKind storeLaunch.desc == 2 && s.dieIdle 0 == !b && s.zeroing.contains 0 == !z.isEmpty &&
        r.1 == .ok && r.2.1.length == 16 && r.2.2.bad.isNone) = true) := by decide +kernel
theorem test_meets_WeightStoresAndStorageErrors_registers :
    (let s := base .outside
     s.bad.isNone && (s.core 0).block.any (fun b => decide (0 < b.kernel.nwarps) && decide (1023 < b.kernel.n) && decide (15 < b.kernel.w) &&
       decide (b.kernel.nwarps ≤ 1) && decide (b.kernel.n ≤ 1024) && decide (b.kernel.w ≤ 16)) && (s.core 1).block.isNone && (s.core 0).halt.isNone) = true ∧
    (∀ f ∈ [Fn.ld, .st],
      let o := { opIn f (.r size4) (.compute 0) 1 .check with addr := [(0, 0x10000)] }
      let s := { handling .trap with clk := 3, actor := .outside }.onCore 0 (fun k => { k with ops := [o], lastOp := 1 })
      (s.bad.isNone && (s.core 0).halt.any (fun h => h.handler.isSome) && (s.core 0).ops == [o] && o.eng.isNone && decide (o.since + 3 ≤ s.clk) &&
        opLanes o == [0] && (match s.laneCheck 0 o.fn false (o.status != 0) o.regions (opSize o) (o.addr.get 0 0) with
          | .bad _ c _ => c == .pageFault
          | _ => false) && (((s.core 0).warp 0).splits.find 0).isSome) = true) := by decide

/-- The block of core 0 asked to make room, in a context with or without a handler. -/
def wanted (ptrap : Bool) (handler : Word64) (since : Nat) (h : Option Halt) : State :=
  { withCore .outside (fun k => { k with ptrap := ptrap, halt := h, preempt := some { launch := some 1, since := since } }) with
    ctxs := [(0, { live := true, handler := handler })], ref := 250000, clk := 5 }
theorem test_meets_PreemptionSavesAndResumes_requests :
    (∀ x ∈ [(true, 0x300), (true, 0), (false, 0x300)], let s := wanted x.1 (BitVec.ofNat 64 x.2) 0 none
      (s.bad.isNone && (s.core 0).block.any (fun b => b.failed.isNone) && (s.core 0).preempt.isSome && (s.core 0).halt.isNone && (s.core 1).block.isNone) = true) ∧
    (∀ n ∈ [0, 1], let s := wanted true 0x300 n (some (handlerHalt .preempt))
      (s.bad.isNone && (s.core 0).halt.any (fun h => !h.save && h.entered) && (s.core 0).preempt.any (fun q => decide (s.ref < q.since + ticksOf 200) == (n == 1))) =
        true) := by decide +kernel
/-- With no page mapped an area takes no byte. -/
theorem unmapped_of_empty {s : State} (h : s.hbm = []) (ht : s.ltlb = []) (asid va : Nat) : s.xlate s.ltlb asid va = .invalid := by
  have hw : ∀ n t, walkFrom [] va n t = .invalid := by
    intro n t; cases n <;> simp [walkFrom, FMap.num, FMap.getBytes, leNat, FMap.get, FMap.find, bits]
  simp [State.xlate, ht, tlbFind, tableFind, State.walk, h, hw]
theorem areaPut_of_empty {s : State} (h : s.hbm = []) (ht : s.ltlb = []) (asid base : Nat) (xs : List (Nat × List Byte)) :
    s.areaPut asid base xs = s := by
  have hp : ∀ (f : State → Nat × Nat → State) (ps : List (Nat × Nat)), (∀ p, f s p = s) → ps.foldl f s = s := by
    intro f ps hf; induction ps with
    | nil => rfl
    | cons p ps ih => simp [hf, ih]
  unfold State.areaPut
  induction xs with
  | nil => rfl
  | cons x xs ih =>
    have : s.lcPut asid ((base + x.1) % 2 ^ 64) x.2 = s := hp _ _ (fun p => by simp [unmapped_of_empty h ht])
    exact (congrArg (fun t => xs.foldl _ t) this).trans ih

/-- A block of a kernel of one warp with two registers, beside a block of its launch on the other core of its cluster. -/
def smallKernel : Kernel := { n := 2, paramsz := 0 }
def leaving (found : Nat) : State :=
  let s := base .outside
  { s with clk := 5, cores := [(0, { block := some { kernel := smallKernel }, halt := some { found, party := .matrix, trap := plain .preempt, save := true } }),
                               (1, { block := some { kernel := smallKernel, b := 1 } })], hbm := [] }
def partsSaved (s : State) : State :=
  let u := (s.cancelBlock 0).abandonWaits 0
  let parts := (s.core 0).usedParts
  parts.foldl (fun t p => t.areaPut 0 0 (partBytes u 0 true p (parts.foldl (fun m p => m + 2 ^ p) 0) (s.core 0).allWarps)) u
theorem test_meets_PreemptionSavesAndResumes_save :
    (∀ n ∈ [0, 1], let s := leaving n
      (s.bad.isNone && (s.core 0).block.any (fun b => b.failed.isNone && !s.aloneOn 0 b.launch && b.savebase == 0 && b.asid == 0) &&
        (s.core 0).halt.any (fun h => h.save && !h.soft && decide (s.clk < h.found + 5) == (n == 1)) && s.scores.isEmpty && (s.core 0).ops.isEmpty &&
        (s.core 0).pends.isEmpty && (s.core 0).array.isEmpty && (s.core 0).busy == 0 && !(s.core 0).slotPending && (s.savedWith 0).isEmpty &&
        (s.core 0).mtxWaiting.isNone && (s.core 0).usedParts.all (fun p => !(s.core 0).partPoisoned p (s.core 0).allWarps) && (s.core 0).preempt.isNone) = true) := by
  decide +kernel
theorem test_meets_PreemptionSavesAndResumes_area : (partsSaved (leaving 0)).bad = none := by
  have h : ((leaving 0).cancelBlock 0).abandonWaits 0 = leaving 0 := rfl
  have : ∀ ps : List Nat, ∀ f : Nat → List (Nat × List Byte), ps.foldl (fun t p => t.areaPut 0 0 (f p)) (leaving 0) = leaving 0 := by
    intro ps f; induction ps with
    | nil => rfl
    | cons p ps ih => simp [areaPut_of_empty (s := leaving 0) rfl rfl, ih]
  rw [partsSaved, h, this]; rfl
theorem test_meets_PreemptionSavesAndResumes_resume :
    ((base .outside).away.find 0).isNone = true ∧
    (∀ how ∈ [1, 2], let l := { gridLaunch 0 0 0 2 with next := 1 }
      let x : Away := { launch := 1, b := 0, how := how, relaunch := 0, area := 0 }
      let s := { scheduled [(1, l)] { base .outside with cores := [] } with away := [(3, x)] }
      let t : State := { s with ctxs := s.ctxs.mapV (fun c => { c with handler := 0x300 }) }
      (t.bad.isNone && decide (t.placement = some (1, l, 0, some 3, 0)) && t.away.find 3 == some x && (t.ctx 0).handler != 0) = true) := by decide +kernel

/-! Contexts, pages and mappings. -/

/-- What a search for frames finds is a run that can be handed out, and it finds one when frame 0 begins such a run. -/
theorem searchRun_ok {s : State} {asid n f : Nat} : ∀ {k g : Nat}, s.searchRun asid n k g = some f → s.runOk asid f n = true := by
  intro k; induction k with
  | zero => intro g h; simp [State.searchRun] at h
  | succ k ih =>
    intro g h
    rw [State.searchRun] at h
    split at h
    · rename_i hg; cases h; exact hg
    · exact ih h
theorem findRun_some {s : State} {asid n : Nat} (h : s.runOk asid 0 n = true) : ∃ f, s.findRun asid n = some f ∧ s.runOk asid f n = true := by
  cases hf : s.searchRun asid n 65536 (Config.frameHint s.fresh % frameCount / n * n) with
  | some f => exact ⟨f, by simp only [State.findRun, hf], searchRun_ok hf⟩
  | none => exact ⟨0, by simp only [State.findRun, hf]; simp [State.searchRun, h], h⟩
theorem runOk_lt {s : State} {asid f : Nat} (h : s.runOk asid f 1 = true) : f < frameCount := by
  simp [State.runOk, State.frameUsable] at h; exact h.1.1.1

/-- A context descriptor (R408) at 0x30040 of HBM: the word of its grants, the handler, the operation and the context. -/
def ctxDesc (v handler op asid : Nat) : List Byte :=
  toLe v 8 ++ toLe handler 8 ++ toLe 9 8 ++ toLe 5 4 ++ List.replicate 20 0 ++ toLe op 1 ++ toLe asid 1 ++ List.replicate 14 0
def described408 (bs : List Byte) : State := let s := base .outside
  { s with hbm := s.hbm.putBytes 0x30040 bs, ctxs := [(0, { live := true, sgrant := 1, handler := 0x300 })] }
theorem test_meets_Contexts :
    (∀ x ∈ [(0, 0, true), (1, 0, true), (2, 0, true), (1, 7, true), (2, 7, true), (3, 0, false)], let s := described408 (ctxDesc 2 0x400 x.1 x.2.1)
      (s.bad.isNone && numberAt s .hbm 0x30070 1 == x.1 && numberAt s .hbm 0x30071 1 == x.2.1 && s.descForm 0x30040 == x.2.2 && s.change.isNone &&
        (s.ctx x.2.1).live == (x.2.1 == 0) && decide (numberAt s .hbm 0x30048 8 ≠ (s.ctx x.2.1).handler.toNat)) = true) ∧
    (∀ op ∈ [0, 1, 2], let s := { described408 (ctxDesc 2 0x400 op 0) with change := some ⟨0x40, 0, true, 0, 0, 0, false⟩ }
      (s.bad.isNone && s.change.any (fun x => decide (x.descriptor ≠ 0x30040))) = true) ∧
    (∀ v ∈ [1, 2], let s := described408 (ctxDesc v 0x400 0 0)
      (s.descForm 0x30040 && s.conflict 256 (v % 2 ^ 24) (v / 2 ^ 24 % 2 ^ 6) == (v == 1) && !(s.ctx 1).live && (s.ctx 0).live) = true) := by decide +kernel
theorem test_meets_Contexts_regrant :
    (∀ v ∈ [1, 2], let s := { described408 (ctxDesc v 0x400 1 0) with ctxs := [(0, { live := true, sgrant := 1, handler := 0x300 }), (1, { live := true, sgrant := 2 })] }
      (s.bad.isNone && s.change.isNone && s.descForm 0x30040 && (s.ctx 0).live && s.conflict 0 (v % 2 ^ 24) (v / 2 ^ 24 % 2 ^ 6) == (v == 2)) = true) ∧
    (let s := { described408 (ctxDesc 2 0x400 0 0) with change := some ⟨0x30040, 0, true, 0, 0, 0, false⟩ };
      (s.bad.isNone && s.change.any (fun x => decide (x.descriptor = 0x30040))) = true) := by decide +kernel
theorem test_meets_Contexts_table : ∃ root u, (described408 (ctxDesc 2 0x400 0 0)).allocTable 1 2 = some (root, u) := by
  obtain ⟨f, hf, -⟩ := findRun_some (s := described408 (ctxDesc 2 0x400 0 0)) (asid := 256) (n := 2) (by decide +kernel)
  exact ⟨_, _, by rw [State.allocTable, State.allocOwn, hf]⟩

/-- A page at 0x10000 with a leaf, and a request or a call of the host for it. -/
def paged (leaf : Nat) : State := mapped leaf (base .outside)
def request (k : Option Need) : PageReq := { asid := 0, va := 0x10000, kind := k, ho := false, waiters := [⟨0, 0, 0⟩] }
def isMapped (s : State) (leaf : Nat) : Bool := s.leafOf 0 0x10000 == some (0x22008, 2 ^ 16, leaf) && s.bad.isNone
theorem test_meets_PageRequestsAndShootdowns_requests :
    (base .outside).mmpq = [] ∧
    (∀ x ∈ [(0x300E2, some Need.write, true), (0x300A2, some .write, false), (0x300E2, none, true)],
      let s : State := { paged x.1 with mmpq := [request x.2.1] }
      (s.bad.isNone && !s.shooting 0 0x10000 && s.walk 0 0x10000 == .ok x.1 0x10000 (2 ^ 16) && (request x.2.1).granted x.1 == x.2.2) = true) ∧
    ((base .outside).callFor 0 0x10000).isNone = true ∧
    (∀ f ∈ [0, 2 ^ 36 - 1], let y : HostCall := { req := request (some .read), since := 0 }
      let s : State := { paged 0xA62 with calls := [y] }
      (s.callFor 0 0x10000 == some y && isMapped s 0xA62 && s.walk 0 0x10000 == .notres 0xA62 && leafTy 0xA62 == 1 && y.req.granted 0xA62 &&
        decide (f * 2 ^ 16 % 2 ^ 16 = 0) && !s.shooting 0 0x10000) = true) ∧
    (∀ x ∈ [(0, 1249999, false), (0, 1250000, true), (5, 6249, false), (5, 6250, true)], let y : HostCall := { req := request none, since := 0 }
      let s : State := { paged 0xA62 with calls := [y], ref := x.2.1, ctxs := [(0, { live := true, htout := x.1 })] }
      (s.callFor 0 0x10000 == some y && s.bad.isNone && decide (y.since + ticksOf (if (s.ctx 0).htout = 0 then 1000 else (s.ctx 0).htout) ≤ s.ref) == x.2.2) =
        true) ∧
    (∀ n ∈ [0, 1], let o := { opIn .ld (.r size4) (.compute 0) 1 .check with waits := [(0, n)] }
      let s : State := { withOp o with ref := 250000 }
      ((s.core 0).findOp 0 == some o && s.bad.isNone && o.stage != .done && decide (s.ref < n + ticksOf 200) == (n == 1)) = true) := by decide +kernel
theorem test_meets_PageRequestsAndShootdowns_leaves :
    ((base .outside).leafOf 0 0x10000).isNone = true ∧
    (∀ b ∈ [false, true], let s : State := { paged 0x300E2 with shoots := if b then [⟨0, 0x10000, 2 ^ 16, [192], .nothing⟩] else [] }
      (isMapped s 0x300E2 && s.shooting 0 (0x10000 - 0x10000 % 2 ^ 16) == b && !leafHO 0x300E2 && leafSt 0x300E2 == 0 && leafTy 0x300E2 == 0 && !leafPN 0x300E2 &&
        !s.kvBacks 0 0x10000) = true) ∧
    (isMapped (paged 0x320E2) 0x320E2 && leafPN 0x320E2 && !(paged 0x320E2).shooting 0 0x10000) = true ∧
    (isMapped (paged 0x304E2) 0x304E2 && leafSt 0x304E2 == 2) = true ∧
    (∀ w ∈ [0, 0x110000], let s := (paged 0x300E2).setSc 0 0 { asid := 0, nwbase := 0x100000, nwlim := w }
      let t : State := { s with ctxs := [(0, { live := true, sgrant := 1 })] }
      (isMapped t 0x300E2 && leafValid 0x300E2 (2 ^ 16) && t.runOk 0 16 1 && decide (0x22008 + 8 ≤ 16 * 2 ^ 16) && t.inNear 0 0x10000 16 == (w != 0)) = true) ∧
    (∀ x ∈ [[], [(⟨0, 0x10000, 2 ^ 16, [192], .nothing⟩ : Shoot)]], let s : State := { base .outside with shoots := x }
      (s.bad.isNone && s.shoots.all (fun y => !y.waiting.contains 5)) = true) := by decide +kernel

/-- A context with nothing granted, and one that has stack group 0. -/
def granted (s : State) : State := { s with ctxs := [(0, { live := true, sgrant := 1, quota := 9 })] }
theorem test_meets_MappingsAndSpaces :
    ((base .outside).ctx 7).live = false ∧
    (let s := base .outside
     (s.ctx 0).live && decide (0x10000 % levelSize 3 = 0) && leafValid 0x862 (levelSize 3) && !leafRV 0x862 && !leafHO 0x862 && !leafPN 0x862 && leafSt 0x862 == 0 &&
       (s.leafOf 0 0x10000).isNone && !s.shooting 0 0x10000 && leafTy 0x862 == 1 && (match s.entryFor 0 0x10000 3 4 (s.ctx 0).root with
        | some (e, u) => e == 0x22008 && u.bad.isNone
        | none => false)) = true ∧
    (∀ x ∈ [(0, 0), (0, 0x5FF00000)], ∀ b ∈ [false, true], let s := granted (base .outside)
      let t : State := { s with frames := if b then [(0, ⟨1, .table, 1⟩)] else [] }
      ((t.ctx 0).live && (t.ctx 0).sgrant.testBit 0 && decide (x.1 % 2 ^ 16 = 0 ∧ x.2 % 2 ^ 16 = 0 ∧ x.1 ≤ x.2 ∧ x.2 ≤ 0x5FF00000) &&
        t.onlyPages 0 (nearPa 0 0 x.1) (x.2 - x.1) == (!b || x.2 == 0)) = true) ∧
    (let s := granted (paged 0x300E2)
     isMapped s 0x300E2 && (s.ctx 0).live && !(s.region 4095).valid && leafTy 0x300E2 == 0 && !leafRV 0x300E2 && !leafHO 0x300E2 && leafSt 0x300E2 == 0 &&
       !s.shooting 0 0x10000) = true ∧
    (let s := granted (base .outside)
     s.bad.isNone && ((s.ctx 0).kvSpace 15).isNone && s.runOk 256 0 1 && (List.range (96 * 0)).isEmpty) = true := by decide +kernel
theorem test_meets_MappingsAndSpaces_directory :
    ∃ pa u, (granted (base .outside)).allocFor 0 (levelFrames (0 + 1)) .directory = some (pa, u) ∧ u.bad = none ∧ pa % 2 ^ 16 = 0 ∧ pa < 2 ^ 63 := by
  obtain ⟨f, hf, hr⟩ := findRun_some (s := granted (base .outside)) (asid := 256) (n := 1) (by decide +kernel)
  have hlt := runOk_lt hr
  have hq : ¬((granted (base .outside)).ctx 0).quota < (granted (base .outside)).framesUsed 0 + levelFrames (0 + 1) := by decide +kernel
  refine ⟨f * 2 ^ 16, (granted (base .outside)).takeRun f 1 .directory 1, ?_, rfl, by simp, ?_⟩
  · rw [State.allocFor, if_neg hq]
    simp only [levelFrames, reduceCtorEq, if_false]
    rw [show (8 * (0 + 1) + 0xFFFF) / 0x10000 = 1 from rfl, hf]
  · simp [frameCount, hbmTop] at hlt; omega

/-! Duties that other engines do for an instruction. -/

/-- An exchange of one record, to the queue at 0x1000000 of module 0, which holds `tail` records; a REPLAY finds it in its ring. -/
def exchanged (f : Fn) (tail : Nat) : State :=
  let s := ringed 4 0 (if f = .replay then 1 else 0) (xch f 1 .go)
  { s with mods := shiftHeader (queueMods 0 tail), hbm := s.hbm.putNum 0x31040 8 0x1000000 }
def toSend : XRec := { maddr := 0x1000000, grp := 0, bytes := List.replicate 64 0 }
def sends (s : State) (f : Fn) (tail : Nat) (r : Ring) : Bool :=
  let o := xch f 1 .go
  let w := word 6 2 4 8
  (s.core 0).findOp 0 == some o && s.bad.isNone && !s.podEarlier 0 o && (s.core 0).releaseReady o.party o.id && decide (s.ref < ticksOf (s.group 0 0).tout) &&
    isReady (s.ringPages 0 0 32 .read [0x40]) && s.ringAt 0 0x40 == some r && r.ok 1 && decide (r.used + 1 < r.cap) &&
    isReady (s.ringPages 0 0 128 .write (r.entries r.tail 1)) && isReady (s.ringPages 0 0 128 .read (r.entries r.head 1)) &&
    exchangeRecords s 0 o w r == [toSend] && toSend.bytes.length == 64 && (s.recordBad 0 r.xgoff toSend).isNone &&
    isPlace 0 0x1000000 (s.podPlace 0 0 toSend.maddr 0x10000) && s.queueHead 0 0x1000000 == some (0, tail, 4) && s.route 0 none == .direct 0 &&
    !s.modPoison 0 0x1000000 12 && !s.modPoison 0 (0x1000400 + 64 * (tail % 4)) 64 && decide (queueUsed 0 tail 4 < 4) &&
    r.xgoff % 8 == 0 && s.modRegion 0 (replyOff r.xgoff s.self (((s.ctx 0).xseq.get (modKey 0 0x1000000) 0) % 2 ^ 16)) 8 == .data
theorem test_meets_WorkDoneForInstructions_exchange : ∀ x ∈ [(Fn.xchPush, 3, 0), (.replay, 0, 1)],
    sends (exchanged x.1 x.2.1) x.1 x.2.1 ⟨0x1000, 4, 0, x.2.2, 0, 0x40000000⟩ = true := by decide +kernel
/-- A read of 64 bytes of module 0 that package 1 asks the courier of port 0 for. -/
def courierState : State :=
  let s := podAt ((((queueMods 0 0).putNum (0x1000000 + 0x10000 * 56 + 4) 4 1).putNum (0x1000000 + 0x10000 * 56 + 8) 4 4).putBytes
    (0x1000000 + 0x10000 * 56 + 0x400) (toLe 1 1 ++ toLe 1 7 ++ toLe 0x40000040 8 ++ toLe 0x50000 8)) (flying .nop (word 0 0 0 0) [])
  { s with mods := s.mods.putNum 0x10 2 64, ctxs := s.ctxs.mapV (fun c => { c with groups := [(0, { formed := true, mask := 3 })] }) }
theorem test_meets_WorkDoneForInstructions_courier :
    (let s := courierState
     let base := queueBase 56
     let x := CourierReq.ofRecord (s.modBytes 0 (base + 0x400) 64)
     s.bad.isNone && (s.port 0).state == 1 && s.order == 2 && moduleAt s.order s.self 0 == 0 && s.queueHead 0 base == some (0, 1, 4) && s.route 0 none == .direct 0 &&
       !s.modPoison 0 base 12 && !s.modPoison 0 (base + 0x400) 64 && x.op == 1 && (match s.maddr 0xFF x.dest with
         | .ok y => y == (0, 0x40000040, none)
         | .error _ => false) && (s.carryBad x 0 0 0x40000040).isNone && s.modReadable 0 0x40000040 64) = true := by decide +kernel
theorem test_meets_WorkDoneForInstructions_drain :
    (let s := drained 0 1
     let r := s.appendRecord 0 0 0 (s.modBytes 0 0x1000400 64)
     drains s 1 && r.1 == .taken && r.2.bad.isNone && r.2.queueHead 0 0x1000000 == some (0, 1, 4) && r.2.route 0 none == .direct 0 && !r.2.modPoison 0 0x1000000 12 &&
       !r.2.modPoison 0 0x1000400 64 && r.2.modRegion 0 (replyOff 0x40000000 0 0) 8 == .data && replyOff 0x40000000 0 0 % 8 == 0) = true := by decide +kernel
theorem test_meets_WorkDoneForInstructions_nodes :
    (∀ x ∈ [({} : GraphNode), { pend := 2, tail := 127 }], let o := flying .nqPush (word 4 2 4 0) [0, 0x40]
      let s := graphed x (withOp o)
      let a := 0x1000 + 64 * x.tail
      let r := s.lcRange 0 a 64 .write
      (inFlight s o (word 4 2 4 0) && o.pos == 0 && (s.core 0).releaseReady o.party o.id && ((s.ctx 0).graphs.find 0).any (fun g => g.node 0 == x &&
        g.enders.isEmpty && decide (x.pend + 1 < tTile g.table 0) && !x.flush && decide (x.pend + x.heldRecords < tCap g.table 0) && tBase g.table 0 == 0x1000) &&
        r.1 == .ok && r.2.bad.isNone && match r.2.xlate r.2.ltlb 0 a with
          | .ok leaf b _ => placeOf leaf b a == .hbm (0x31000 + 64 * x.tail)
          | _ => false) = true) ∧
    (let x : GraphNode := { pend := 1, batches := [aBatch, { aBatch with seq := 1 }] }
     let o := flying .nqFlush (word 4 2 4 0) [0, 0x40]
     let s := graphed x (withOp o)
     inFlight s o (word 4 2 4 0) && ((s.ctx 0).graphs.find 0).any (fun g => g.node 0 == x && decide (tMaxb g.table 0 ≤ x.outstanding) &&
       x.batches.all (fun b => b.launch.isSome))) = true := by decide +kernel
/-- A grid's descriptor at 0x80 and its kernel record at 0x100 (R65). -/
def kernelRecord : List Byte :=
  toLe (64 * 2 ^ 16 + 1) 4 ++ List.replicate 0x2C 0 ++ toLe (64 * 2 ^ 24 + 16 * 2 ^ 16) 4 ++ List.replicate 44 0
def submitting : State :=
  let s := graphed { batches := [{ aBatch with launch := none }] } (scheduled [] (base .outside))
  { s with hbm := (s.hbm.putBytes 0x30080 (launchDesc 0x100 0 1 (1 + 2 ^ 16) 0 0 0 0 0 0)).putBytes 0x30100 kernelRecord }
theorem test_meets_WorkDoneForInstructions_retry :
    (let s := submitting
     ((s.ctx 0).graphs.find 0).any (fun g => let b : Batch := { aBatch with launch := none }
       let r := (s.setSlot 0 0 (g.setNode 0 (g.node 0))).batchLaunch 0 0 0 g b
       g.enders.isEmpty && decide (0 < tTile g.table 0) && (g.node 0).pend == 0 && !(g.node 0).flush && (g.node 0).batches == [b] && r.2.bad.isNone &&
         match r.1 with
         | .ok _ => true
         | _ => false) && s.bad.isNone) = true := by decide +kernel
theorem test_meets_WorkDoneForInstructions_gather :
    (let x := { aCollective false .run 250000 with armed := [(0, 3)] }
     let t := collecting x 3
     let s : State := { t with mods := shiftHeader (FMap.putNum [] (windowBase 3 + 8) 4 (2 ^ 24)) }
     ((s.ctx 0).cols.find 0 == some x) && s.bad.isNone && x.seen.isEmpty && s.reaches 0 && (moduleNumber s 0 (windowBase 3 + 8) 4).testBit 24 &&
       ((s.group 0 0).members s.order).contains 1 && s.self == 0 && !x.done.getLsbD 1 && decide (s.ref < x.since + ticksOf (s.group 0 0).tout)) = true := by decide +kernel
theorem test_meets_WorkDoneForInstructions_contexts : ∀ op ∈ [1, 2],
    (let sg := if op = 1 then 1 else 0
     let t := described408 (ctxDesc (sg + 2 ^ 34 + 3 * 2 ^ 30) 0x300 op 0)
     let s : State := { t with cores := [], ctxs := [(0, { live := true, sgrant := sg, handler := 0x300, quota := 9, htout := 5 })] }
     s.bad.isNone && s.change.isNone && s.descForm 0x30040 && numberAt s .hbm 0x30071 1 == 0 && s.launches.isEmpty && numberAt s .hbm 0x30070 1 == op &&
       numberAt s .hbm 0x30048 8 == 0x300 && numberAt s .hbm 0x30050 8 == 9 && numberAt s .hbm 0x30058 4 == 5 && numberAt s .hbm 0x30060 8 == 0 &&
       numberAt s .hbm 0x30068 8 == 0 && !s.conflict 0 sg 0 && (numberAt s .hbm 0x30040 8) % 2 ^ 24 == sg && !(numberAt s .hbm 0x30040 8).testBit 33 &&
       s.cores.isEmpty) = true := by decide +kernel

/-- Every frame but 4 is in use, so that a search finds frame 4. -/
def tight : State :=
  { granted (paged 0x2E2) with
    mmpq := [request (some .write)], frames := [(0, ⟨4, .table, 200⟩), (5, ⟨frameCount - 5, .table, 200⟩)] }
theorem tight_finds : State.findRun { tight with mmpq := [] } 0 1 = some 4 := by
  have h : ∀ f, State.runOk { tight with mmpq := [] } 0 f 1 = true → f = 4 := by
    intro f hf
    have hlt := runOk_lt hf
    simp [State.runOk, State.frameFree, tight] at hf
    omega
  have ok : State.runOk { tight with mmpq := [] } 0 4 1 = true := by decide +kernel
  cases hf : State.searchRun { tight with mmpq := [] } 0 1 65536 (Config.frameHint { tight with mmpq := [] }.fresh % frameCount / 1 * 1) with
  | some f => simp only [State.findRun, hf, h f (searchRun_ok hf)]
  | none =>
    simp only [State.findRun, hf]
    decide +kernel
theorem test_meets_WorkDoneForInstructions_page :
    (let s := tight
     let q := request (some .write)
     s.bad.isNone && s.mmpq == [q] && !s.shooting 0 0x10000 && s.walk 0 0x10000 == .notres 0x2E2 && s.leafOf 0 0x10000 == some (0x22008, 2 ^ 16, 0x2E2) &&
       q.granted 0x2E2 && leafTy 0x2E2 == 0 && (let u := State.takeRun { s with mmpq := [] } 4 1 .page 1
         u.bad.isNone && u.heldBytes.isEmpty && u.leafOf 0 0x10000 == some (0x22008, 2 ^ 16, 0x2E2) && (u.ctx 0).root % 8 == 0 &&
           ((u.ctx 0).evicted.find 0x10000).isNone && u.kvCopies.isEmpty)) = true := by decide +kernel
theorem test_meets_WorkDoneForInstructions_frames :
    State.allocFor { tight with mmpq := [] } 0 (2 ^ 16 / 2 ^ 16) .page = some (4 * 2 ^ 16, State.takeRun { tight with mmpq := [] } 4 1 .page 1) := by
  have hq : ¬(State.ctx { tight with mmpq := [] } 0).quota < State.framesUsed { tight with mmpq := [] } 0 + 2 ^ 16 / 2 ^ 16 := by decide +kernel
  rw [State.allocFor, if_neg hq]
  simp only [if_true]
  rw [show 2 ^ 16 / 2 ^ 16 = 1 from rfl, tight_finds]

end Sys2Proof.Tests
end

section
/-! What issuing and retiring a word change, and what they leave (R46 to R48): every register, every byte and the rest of the chip stay as
they are, the word's counter rises, and a word of an access stream stands where its warp says. -/

namespace Sys2Proof.Machine

open Sys2Proof.Spec

/-! What an update leaves untouched. -/

theorem sameWarp_refl (x : Warp) : sameWarp x x := by simp [sameWarp]

theorem sameUnit_refl (k : Core) : sameUnit k k := by simp [sameUnit]

theorem sameWarp_trans {x y z : Warp} (h : sameWarp x y) (g : sameWarp y z) : sameWarp x z := by
  unfold sameWarp at *
  grind

theorem sameUnit_trans {x y z : Core} (h : sameUnit x y) (g : sameUnit y z) : sameUnit x z := by
  unfold sameUnit at *
  grind

/-- Two cores agree in every register and in every byte of their memories. -/
structure SameCore (x y : Core) : Prop where
  unit : sameUnit x y
  warps : ∀ w, sameWarp (x.warp w) (y.warp w)
  scratch : y.scratch = x.scratch
  wbuf : y.wbuf = x.wbuf
  shapes : y.shapes = x.shapes

theorem untouched_refl (s : State) : untouched s s :=
  ⟨fun _ => ⟨sameUnit_refl _, fun _ => sameWarp_refl _⟩, fun _ => rfl, by simp [sameChip, sameRest]⟩

theorem untouched_trans {s t u : State} (h : untouched s t) (g : untouched t u) : untouched s u := by
  obtain ⟨hr, hb, hh, hc⟩ := h
  obtain ⟨gr, gb, gh, gc⟩ := g
  refine ⟨fun c => ⟨sameUnit_trans (hr c).1 (gr c).1, fun w => sameWarp_trans ((hr c).2 w) ((gr c).2 w)⟩, fun p => (gb p).trans (hb p),
    gh.trans hh, ?_⟩
  unfold sameRest at *
  grind

theorem untouched_block {s t : State} (h : untouched s t) (c : Nat) : (t.core c).block = (s.core c).block := by
  obtain ⟨hr, -⟩ := h
  obtain ⟨⟨-, -, -, -, -, -, -, -, -, -, -, -, -, hblock⟩, -⟩ := hr c
  exact hblock

theorem untouched_aend {s t : State} (h : untouched s t) (c w : Nat) :
    ((t.core c).warp w).acc.aend = ((s.core c).warp w).acc.aend := by
  obtain ⟨hr, -⟩ := h
  obtain ⟨-, hwarp⟩ := hr c
  obtain ⟨-, -, -, -, -, -, -, -, -, -, -, -, -, -, -, -, -, -, -, haend⟩ := hwarp w
  exact haend

theorem onCore_untouched (s : State) (c : Nat) {f : Core → Core} (h : SameCore (s.core c) (f (s.core c))) :
    untouched s (s.onCore c f) := by
  have core (d : Nat) : SameCore (s.core d) ((s.onCore c f).core d) := by
    by_cases hd : d = c
    · subst hd
      rw [State.core_onCore]
      exact h
    · rw [State.core_onCore_ne _ _ _ _ hd]
      exact ⟨sameUnit_refl _, fun _ => sameWarp_refl _, rfl, rfl, rfl⟩
  refine ⟨fun d => ⟨(core d).unit, (core d).warps⟩, fun p => ?_, ?_⟩
  · cases p with
    | scratch d a => simp only [byteAt, (core d).scratch]
    | buffer d a => simp only [byteAt, (core d).wbuf]
    | shape d a => simp only [byteAt, (core d).shapes]
    | _ => rfl
  · exact (untouched_refl s).2.2

theorem setWarp_sameCore (k : Core) (w : Nat) {x : Warp} (h : sameWarp (k.warp w) x) : SameCore k (k.setWarp w x) where
  unit := sameUnit_refl k
  warps v := by
    by_cases hv : v = w
    · subst hv
      rw [Core.warp_setWarp]
      exact h
    · rw [Core.warp_setWarp_ne _ _ _ _ hv]
      exact sameWarp_refl _
  scratch := rfl
  wbuf := rfl
  shapes := rfl

theorem onWarp_untouched (s : State) (c w : Nat) {f : Warp → Warp} (h : ∀ x, sameWarp x (f x)) : untouched s (s.onWarp c w f) :=
  onCore_untouched s c (setWarp_sameCore _ w (h _))

theorem noteError_untouched (s : State) (cls c : Nat) (addr : Option Nat) : untouched s (s.noteError cls c addr) := untouched_refl s

theorem goto_untouched (e : Env) (s : State) (pc : Word64) (ready : Nat) : untouched s (e.goto s pc ready) := by
  unfold Env.goto
  split
  · exact onWarp_untouched _ _ _ (fun _ => sameWarp_refl _)
  · exact onCore_untouched _ _ ⟨sameUnit_refl _, fun _ => sameWarp_refl _, rfl, rfl, rfl⟩
  · split
    · refine onCore_untouched _ _ ?_
      split <;> exact ⟨sameUnit_refl _, fun _ => sameWarp_refl _, rfl, rfl, rfl⟩
    · refine onWarp_untouched _ _ _ (fun x => ?_)
      split <;> exact sameWarp_refl _

theorem onSplit_untouched (e : Env) (s : State) (f : Split → Split) : untouched s (e.onSplit s f) := by
  unfold Env.onSplit
  split
  · exact untouched_refl s
  · refine onWarp_untouched _ _ _ (fun x => ?_)
    split <;> exact sameWarp_refl _

theorem yieldMark_untouched (e : Env) (s : State) : untouched s (e.yieldMark s) := by
  unfold Env.yieldMark
  split
  · exact onWarp_untouched _ _ _ (fun _ => sameWarp_refl _)
  · exact untouched_refl s
  · exact onSplit_untouched e s _

theorem retire_untouched (e : Env) (s : State) (lat : Nat) (wrs : List Wr) : untouched s (e.retire s lat wrs) :=
  untouched_trans (onCore_untouched _ _ ⟨sameUnit_refl _, fun _ => sameWarp_refl _, rfl, rfl, rfl⟩) (onSplit_untouched e _ _)

theorem flagUp_sameCore (k : Core) (p : Party) (n : Nat) : SameCore k (k.flagUp p n) := by
  unfold Core.flagUp
  split
  · exact ⟨sameUnit_refl _, fun _ => sameWarp_refl _, rfl, rfl, rfl⟩
  · cases p with
    | compute w => exact setWarp_sameCore k w (sameWarp_refl _)
    | access w => exact setWarp_sameCore k w (sameWarp_refl _)
    | matrix => exact ⟨sameUnit_refl _, fun _ => sameWarp_refl _, rfl, rfl, rfl⟩

theorem countSkid_sameCore {x : Core} (k : Core) (h : SameCore x k) (clk : Nat) (p : Party) : SameCore x (k.countSkid clk p) := by
  obtain ⟨hu, hw, hs, hb, hh⟩ := h
  unfold Core.countSkid
  split
  · split <;> exact ⟨hu, hw, hs, hb, hh⟩
  · exact ⟨hu, hw, hs, hb, hh⟩

/-! The steps of issuing. -/

/-- The queues of a warp after those named are popped, one after the other. -/
def Warp.popAll (x : Warp) (qs : List Nat) : FMap Queue :=
  (qs.foldl (fun x q => { x with queues := x.queues.put q (x.queue q).pop {} }) x).queues

theorem foldl_pop (qs : List Nat) (x : Warp) :
    qs.foldl (fun x q => { x with queues := x.queues.put q (x.queue q).pop {} }) x = { x with queues := x.popAll qs } := by
  unfold Warp.popAll
  induction qs generalizing x with
  | nil => rfl
  | cons q qs ih =>
    rw [List.foldl_cons, ih]

/-- The package after the free value of a read through selector 0b11 is drawn. -/
def Env.drawn (e : Env) : State :=
  if (if e.act = 0 then [] else constReads e.fn e.body).isEmpty then e.s else { e.s with fresh := e.s.fresh + 1 }

/-- A warp after its forward queues are popped and a read of CLKLO or TODLO has latched the high half. -/
def Env.popWarp (e : Env) (x : Warp) : Warp :=
  let lats := if e.act = 0 then [] else constReads e.fn e.body
  let qs := if e.st = .compute then wordQueues e.fn e.body else []
  let x := qs.foldl (fun x q => { x with queues := x.queues.put q (x.queue q).pop {} }) x
  let x := if qs.isEmpty then x else { x with acc := { x.acc with slipCount := x.acc.slipCount - qs.length } }
  let x := if lats.contains 0x210 then { x with clkhi := BitVec.ofNat 32 (e.clk / 2 ^ 32) } else x
  if lats.contains 0x212 then { x with todhi := BitVec.ofNat 32 (e.s.todns / 2 ^ 32) } else x

/-- The package after the word's queues are popped; the matrix stream belongs to no warp. -/
def Env.popped (e : Env) : State := if e.st = .matrix then e.drawn else e.drawn.onWarp e.c e.w e.popWarp

/-- The core with the word's counter raised and, in the skid clocks, the word counted. -/
def Env.countCore (e : Env) (k : Core) : Core :=
  if e.handler then k.flagUp e.party e.ctl.setf.toNat else (k.flagUp e.party e.ctl.setf.toNat).countSkid e.clk e.party

/-- The package after the word is counted, and a latent error of its sources noted. -/
def Env.noted (e : Env) : State :=
  if e.latent then (e.popped.onCore e.c e.countCore).noteError 2 e.c (some e.pc.toNat) else e.popped.onCore e.c e.countCore

theorem issued_eq (e : Env) : e.issued = e.goto (e.yieldMark e.noted) (e.pc + 12) (e.clk + 1 + e.ctl.stall.toNat) := rfl

theorem popWarp_eq (e : Env) (x : Warp) : ∃ qs n hi tod,
    e.popWarp x = { x with queues := qs, acc := { x.acc with slipCount := n }, clkhi := hi, todhi := tod } := by
  simp only [Env.popWarp, foldl_pop]
  generalize (if e.act = 0 then [] else constReads e.fn e.body) = lats
  generalize (if e.st = .compute then wordQueues e.fn e.body else []) = qs
  cases qs.isEmpty <;> cases lats.contains 0x210 <;> cases lats.contains 0x212 <;> exact ⟨_, _, _, _, rfl⟩

@[simp] theorem popWarp_held (e : Env) (x : Warp) : (e.popWarp x).acc.held = x.acc.held := by
  obtain ⟨qs, n, hi, tod, h⟩ := popWarp_eq e x
  rw [h]

theorem popWarp_sameWarp (e : Env) (x : Warp) : sameWarp x (e.popWarp x) := by
  obtain ⟨qs, n, hi, tod, h⟩ := popWarp_eq e x
  rw [h]
  exact sameWarp_refl x

theorem drawn_eq (e : Env) : ∃ n, e.drawn = { e.s with fresh := n } := by
  unfold Env.drawn
  cases (if e.act = 0 then [] else constReads e.fn e.body).isEmpty <;> exact ⟨_, rfl⟩

theorem drawn_untouched (e : Env) : untouched e.s e.drawn := by
  obtain ⟨n, h⟩ := drawn_eq e
  rw [h]
  exact untouched_refl e.s

@[simp] theorem drawn_core (e : Env) (c : Nat) : e.drawn.core c = e.s.core c := by
  obtain ⟨n, h⟩ := drawn_eq e
  rw [h]
  rfl

theorem noted_core (e : Env) : e.noted.core e.c = e.countCore (e.popped.core e.c) := by
  rw [← State.core_onCore e.popped e.c e.countCore]
  unfold Env.noted
  split <;> rfl

theorem popped_untouched (e : Env) : untouched e.s e.popped := by
  unfold Env.popped
  split
  · exact drawn_untouched e
  · exact untouched_trans (drawn_untouched e) (onWarp_untouched _ _ _ (popWarp_sameWarp e))

theorem countCore_sameCore (e : Env) (k : Core) : SameCore k (e.countCore k) := by
  unfold Env.countCore
  split
  · exact flagUp_sameCore _ _ _
  · exact countSkid_sameCore _ (flagUp_sameCore _ _ _) _ _

theorem noted_untouched (e : Env) : untouched e.s e.noted := by
  have h := untouched_trans (popped_untouched e) (onCore_untouched e.popped e.c (countCore_sameCore e _))
  unfold Env.noted
  split
  · exact untouched_trans h (noteError_untouched _ _ _ _)
  · exact h

/-- Issuing leaves every register, every byte and the rest of the chip as they are. -/
theorem issued_untouched (e : Env) : untouched e.s e.issued :=
  untouched_trans (noted_untouched e) (untouched_trans (yieldMark_untouched e _) (goto_untouched e _ _ _))

/-! The counters of a stream (R47). -/

theorem onCore_flags (s : State) (c d : Nat) {f : Core → Core} (p : Party) (h : (f (s.core c)).flags p = (s.core c).flags p) :
    ((s.onCore c f).core d).flags p = (s.core d).flags p := by
  by_cases hd : d = c
  · subst hd
    rw [State.core_onCore, h]
  · rw [State.core_onCore_ne _ _ _ _ hd]

theorem setWarp_flags (k : Core) (w : Nat) {x : Warp} (p : Party) (hf : x.f = (k.warp w).f) (ha : x.af = (k.warp w).af) :
    (k.setWarp w x).flags p = k.flags p := by
  cases p with
  | matrix => rfl
  | compute v =>
    by_cases hv : v = w
    · subst hv
      simp [Core.flags, hf]
    · simp [Core.flags, Core.warp_setWarp_ne _ _ _ _ hv]
  | access v =>
    by_cases hv : v = w
    · subst hv
      simp [Core.flags, ha]
    · simp [Core.flags, Core.warp_setWarp_ne _ _ _ _ hv]

theorem onWarp_flags (s : State) (c w d : Nat) {f : Warp → Warp} (p : Party) (h : ∀ x, (f x).f = x.f ∧ (f x).af = x.af) :
    ((s.onWarp c w f).core d).flags p = (s.core d).flags p :=
  onCore_flags s c d p (setWarp_flags _ w p (h _).1 (h _).2)

@[simp] theorem setFlags_flags (k : Core) (p : Party) (f : FMap Nat) : (k.setFlags p f).flags p = f := by
  cases p <;> simp [Core.setFlags, Core.flags]

@[simp] theorem goto_flags (e : Env) (s : State) (pc : Word64) (ready : Nat) (c : Nat) (p : Party) :
    ((e.goto s pc ready).core c).flags p = (s.core c).flags p := by
  unfold Env.goto
  split
  · exact onWarp_flags _ _ _ _ p (fun _ => ⟨rfl, rfl⟩)
  · exact onCore_flags _ _ _ p (by cases p <;> rfl)
  · split
    · refine onCore_flags _ _ _ p ?_
      split
      · cases p <;> rfl
      · rfl
    · refine onWarp_flags _ _ _ _ p (fun x => ?_)
      split <;> exact ⟨rfl, rfl⟩

@[simp] theorem onSplit_flags (e : Env) (s : State) (f : Split → Split) (c : Nat) (p : Party) :
    ((e.onSplit s f).core c).flags p = (s.core c).flags p := by
  unfold Env.onSplit
  split
  · rfl
  · refine onWarp_flags _ _ _ _ p (fun x => ?_)
    split <;> exact ⟨rfl, rfl⟩

@[simp] theorem yieldMark_flags (e : Env) (s : State) (c : Nat) (p : Party) :
    ((e.yieldMark s).core c).flags p = (s.core c).flags p := by
  unfold Env.yieldMark
  split
  · exact onWarp_flags _ _ _ _ p (fun _ => ⟨rfl, rfl⟩)
  · rfl
  · exact onSplit_flags e s _ c p

@[simp] theorem retire_flags (e : Env) (s : State) (lat : Nat) (wrs : List Wr) (c : Nat) (p : Party) :
    ((e.retire s lat wrs).core c).flags p = (s.core c).flags p :=
  (onSplit_flags e _ _ c p).trans (onCore_flags _ _ _ p (by cases p <;> rfl))

theorem popped_flags (e : Env) (c : Nat) (p : Party) : (e.popped.core c).flags p = (e.s.core c).flags p := by
  rw [← drawn_core]
  unfold Env.popped
  split
  · rfl
  · refine onWarp_flags _ _ _ _ p (fun x => ?_)
    obtain ⟨qs, n, hi, tod, h⟩ := popWarp_eq e x
    rw [h]
    exact ⟨rfl, rfl⟩

theorem countSkid_flags (k : Core) (clk : Nat) (p q : Party) : (k.countSkid clk p).flags q = k.flags q := by
  unfold Core.countSkid
  split
  · split
    · cases q <;> rfl
    · rfl
  · rfl

theorem countCore_flags (e : Env) (k : Core) (p : Party) :
    (e.countCore k).flags p = (k.flagUp e.party e.ctl.setf.toNat).flags p := by
  unfold Env.countCore
  split
  · rfl
  · exact countSkid_flags _ _ _ _

/-- The counter that a word names rises when the word issues (R47). -/
theorem issued_flags (e : Env) (hn : e.ctl.setf.toNat ≠ 0) :
    ((e.issued.core e.c).flags e.party).get e.ctl.setf.toNat 0 = ((e.s.core e.c).flags e.party).get e.ctl.setf.toNat 0 + 1 := by
  rw [issued_eq, goto_flags, yieldMark_flags, noted_core, countCore_flags, Core.flagUp, if_neg hn, setFlags_flags,
    FMap.get_put_self, popped_flags]

/-! The results in flight. -/

@[simp] theorem onSplit_pends (e : Env) (s : State) (f : Split → Split) (c : Nat) : ((e.onSplit s f).core c).pends = (s.core c).pends := by
  unfold Env.onSplit
  split
  · rfl
  · by_cases hc : c = e.c
    · subst hc
      simp
    · rw [State.core_onWarp_ne _ _ _ _ _ hc]

/-- Retiring a word adds one result to those in flight of its core (R47, R50). -/
theorem retire_pends (e : Env) (s : State) (lat : Nat) (wrs : List Wr) :
    ((e.retire s lat wrs).core e.c).pends =
      (s.core e.c).pends ++ [{ due := e.clk + lat, party := e.party, flag := e.ctl.setf.toNat, wrs }] := by
  simp [Env.retire]

/-! The site of an access stream. -/

@[simp] theorem goto_actor (e : Env) (s : State) (pc : Word64) (ready : Nat) : (e.goto s pc ready).actor = s.actor := by
  unfold Env.goto
  split
  · rfl
  · rfl
  · split <;> rfl

@[simp] theorem onSplit_actor (e : Env) (s : State) (f : Split → Split) : (e.onSplit s f).actor = s.actor := by
  unfold Env.onSplit
  split <;> rfl

@[simp] theorem yieldMark_actor (e : Env) (s : State) : (e.yieldMark s).actor = s.actor := by
  unfold Env.yieldMark
  split
  · rfl
  · rfl
  · exact onSplit_actor e s _

@[simp] theorem retire_actor (e : Env) (s : State) (lat : Nat) (wrs : List Wr) : (e.retire s lat wrs).actor = s.actor :=
  onSplit_actor e _ _

@[simp] theorem issued_actor (e : Env) : e.issued.actor = e.s.actor := by
  have hd : e.drawn.actor = e.s.actor := by
    obtain ⟨n, h⟩ := drawn_eq e
    rw [h]
  have hp : e.popped.actor = e.drawn.actor := by
    unfold Env.popped
    split <;> rfl
  have hn : e.noted.actor = e.popped.actor := by
    unfold Env.noted
    split <;> rfl
  rw [issued_eq, goto_actor, yieldMark_actor, hn, hp, hd]

/-- The site of a word of an access stream, in terms of its warp. -/
theorem envOf_access {s : State} {fn : Fn} {body : Body} {e : Env} (h : envOf s fn body = some e) (ha : e.st = .access) :
    s.actor = .access e.c e.w ∧ (s.core e.c).block = some e.blk ∧ e.blk.kernel.hasAccess e.w = true ∧
      ((s.core e.c).warp e.w).acc.aend = false ∧ e.held = ((s.core e.c).warp e.w).acc.held := by
  unfold envOf at h
  dsimp only at h
  repeat' split at h
  all_goals cases h
  all_goals simp_all

/-- A word of an access stream that runs stands where its warp says. -/
theorem envOf_eq_access {s : State} {c w : Nat} {b : Block} (fn : Fn) (body : Body) (ha : s.actor = .access c w)
    (hb : (s.core c).block = some b) (hk : b.kernel.hasAccess w = true) (he : ((s.core c).warp w).acc.aend = false) :
    ∃ n, envOf s fn body = some n ∧ n.pc = ((s.core c).warp w).acc.apc ∧ n.ready = ((s.core c).warp w).acc.ready ∧
      n.held = ((s.core c).warp w).acc.held := by
  simp [envOf, ha, hb, hk, he]

theorem goto_access {e : Env} (h : e.st = .access) (s : State) (pc : Word64) (ready : Nat) :
    e.goto s pc ready = s.onWarp e.c e.w (fun x => { x with acc := { x.acc with apc := pc, ready := ready } }) := by
  simp only [Env.goto, h]

theorem yieldMark_access {e : Env} (h : e.st = .access) (s : State) :
    e.yieldMark s = s.onWarp e.c e.w (fun x => { x with acc := { x.acc with ymark := e.ctl.yld } }) := by
  simp only [Env.yieldMark, h]

theorem retire_access {e : Env} (h : e.st = .access) (s : State) (lat : Nat) (wrs : List Wr) :
    e.retire s lat wrs = s.onCore e.c (fun k =>
      { k with pends := k.pends ++ [{ due := e.clk + lat, party := e.party, flag := e.ctl.setf.toNat, wrs }] }) := by
  simp [Env.retire, Env.onSplit, h]

theorem retire_warp_access {e : Env} (h : e.st = .access) (s : State) (lat : Nat) (wrs : List Wr) (w : Nat) :
    ((e.retire s lat wrs).core e.c).warp w = (s.core e.c).warp w := by
  rw [retire_access h, State.core_onCore]
  rfl

theorem countCore_acc (e : Env) (k : Core) (w : Nat) : ((e.countCore k).warp w).acc = (k.warp w).acc := by
  have hf : ((k.flagUp e.party e.ctl.setf.toNat).warp w).acc = (k.warp w).acc := by
    have hw (v : Nat) {x : Warp} (hx : x.acc = (k.warp v).acc) : ((k.setWarp v x).warp w).acc = (k.warp w).acc := by
      by_cases hv : w = v
      · subst hv
        rw [Core.warp_setWarp, hx]
      · rw [Core.warp_setWarp_ne _ _ _ _ hv]
    unfold Core.flagUp
    split
    · rfl
    · cases e.party with
      | compute v => exact hw v rfl
      | access v => exact hw v rfl
      | matrix => rfl
  unfold Env.countCore
  split
  · exact hf
  · rw [← hf]
    unfold Core.countSkid
    split
    · split <;> rfl
    · rfl

/-- Issuing does not hold an access stream. -/
theorem issued_held {e : Env} (h : e.st = .access) :
    ((e.issued.core e.c).warp e.w).acc.held = ((e.s.core e.c).warp e.w).acc.held := by
  have hp : ((e.popped.core e.c).warp e.w).acc.held = ((e.s.core e.c).warp e.w).acc.held := by
    simp [Env.popped, h]
  simp [issued_eq, goto_access h, yieldMark_access h, noted_core, countCore_acc, hp]

/-! What a word at its site has passed. -/

theorem formOk_of_trap_none {e : Env} (h : e.trap = none) : validIn e.st e.fn = true ∧ formOk e.st e.fn e.body = true := by
  have hw : e.wordTrap = none := by
    have hf : e.formTrap = none := (Option.or_eq_none_iff.1 h).1
    unfold Env.formTrap at hf
    split at hf
    · cases hf
    · assumption
  simp only [Env.wordTrap] at hw
  split at hw
  · cases hw
  · split at hw
    · cases hw
    · simp_all

/-- The TYPE of an R-form word that is no ILLEGAL_FORM is one that its entry accepts (R42, R43). -/
theorem ty_mem_of_formOk {st : Stream} {fn : Fn} {w : RWord} {tys : List Nat} (h : formOk st fn (.r w) = true)
    (ht : (formOf fn (.r w)).types = some tys) : w.ty ∈ tys := by
  simp only [formOk, ht, Bool.and_eq_true, List.contains_eq_mem, decide_eq_true_eq] at h
  obtain ⟨⟨⟨⟨⟨⟨⟨-, hty⟩, -⟩, -⟩, -⟩, -⟩, -⟩, -⟩ := h
  exact hty

end Sys2Proof.Machine

namespace Sys2Proof.Spec

open Sys2Proof.Machine

/-- The site of a word whose function is known. -/
theorem Site.envOf_eq {i : Instr} {s : State} {e : Env} {f : Fn} (h : Site i s e) (hf : fnOf i = some f) :
    envOf s f (bodyOf i) = some e := by
  rw [Option.some.inj (hf.symm.trans h.fn)]
  exact h.env

theorem Site.validIn {i : Instr} {s : State} {e : Env} (h : Site i s e) : validIn e.st e.fn = true :=
  (formOk_of_trap_none h.clean).1

/-- The TYPE of an R-form word at its site is one that its entry accepts (R42, R43). -/
theorem Site.ty_mem {i : Instr} {fn : Fn} {w : RWord} {s : State} {e : Env} {tys : List Nat} (h : Site i s e) (hf : fnOf i = some fn)
    (hb : bodyOf i = .r w) (ht : (formOf fn (.r w)).types = some tys) : w.ty ∈ tys := by
  obtain ⟨hfn, hbody⟩ := envOf_fn (h.envOf_eq hf)
  have hok := (formOk_of_trap_none h.clean).2
  rw [hfn, hbody, hb] at hok
  exact ty_mem_of_formOk hok ht

theorem Site.held_eq_none {i : Instr} {s : State} {e : Env} (h : Site i s e) : e.held = none := by
  have ha := h.able
  simp only [Env.issuable, Bool.and_eq_true, Option.isNone_iff_eq_none] at ha
  obtain ⟨⟨⟨⟨⟨⟨⟨-, hheld⟩, -⟩, -⟩, -⟩, -⟩, -⟩, -⟩ := ha
  exact hheld

/-- Words that leave the same package have the same results in flight. -/
theorem after_injective {e : Env} {lat : Nat} {xs ys : List Wr} (h : after e lat xs = after e lat ys) : xs = ys := by
  have hp := congrArg (fun t => (t.core e.c).pends) (Host.Outcome.next.inj h)
  simpa [retire_pends] using hp

/-- A transfer of an access stream: nothing else changes, the word is counted, and the stream stands at the target. -/
theorem jump_access {i : Instr} {s : State} {e : Env} (h : Site i s e) (ha : e.st = .access) (pc : Word64) :
    let t := e.jump (e.quick e.issued) pc
    untouched s t ∧ counted s e t ∧ standsAt e t pc (landsAt e) := by
  intro t
  obtain ⟨hact, hblk, hacc, hend, hheld⟩ := envOf_access h.env ha
  have hs : e.s = s := envOf_s h.env
  have hu : untouched s t := by
    rw [← hs]
    exact untouched_trans (issued_untouched e) (untouched_trans (retire_untouched e _ _ _) (goto_untouched e _ _ _))
  refine ⟨hu, fun hn => ?_, ?_⟩
  · rw [← hs, ← issued_flags e hn]
    simp [t, Env.jump, Env.quick]
  · have htact : t.actor = .access e.c e.w := by simp [t, Env.jump, Env.quick, hs, hact]
    have hapc : ((t.core e.c).warp e.w).acc.apc = pc := by simp [t, Env.jump, goto_access ha]
    have hready : ((t.core e.c).warp e.w).acc.ready = landsAt e := by simp [t, Env.jump, goto_access ha, landsAt, Env.branchReady]
    have hfree : ((t.core e.c).warp e.w).acc.held = none := by
      have hi := issued_held ha
      rw [hs, ← hheld, h.held_eq_none] at hi
      simp [t, Env.jump, Env.quick, goto_access ha, retire_warp_access ha, hi]
    obtain ⟨n, hn, hnpc, hnready, hnheld⟩ := envOf_eq_access e.fn e.body htact ((untouched_block hu e.c).trans hblk) hacc
      ((untouched_aend hu e.c e.w).trans hend)
    exact ⟨n, hn, hnpc.trans hapc, hnready.trans hready, hnheld.trans hfree⟩

end Sys2Proof.Spec
end

section
/-! The 64-bit operations of the model on numbers, as the operations on bit vectors and exact integers that R70, R102 and R179 give. -/

namespace Sys2Proof.Machine

theorem ofNat_sub_wrapped {b : Nat} (a : Nat) (hb : b < 2 ^ 64) :
    BitVec.ofNat 64 (a + (2 ^ 64 - b)) = BitVec.ofNat 64 a - BitVec.ofNat 64 b := by
  apply BitVec.eq_of_toNat_eq
  simp only [BitVec.toNat_ofNat, BitVec.toNat_sub]
  omega

theorem ofNat_shift_left {b : Nat} (a : Nat) (hb : b < 2 ^ 64) :
    BitVec.ofNat 64 (if 64 ≤ b then 0 else a * 2 ^ b) = BitVec.ofNat 64 a <<< (BitVec.ofNat 64 b).toNat := by
  rw [BitVec.toNat_ofNat, Nat.mod_eq_of_lt hb]
  split
  · next h => rw [BitVec.shiftLeft_eq_zero h]
  · apply BitVec.eq_of_toNat_eq
    simp [Nat.shiftLeft_eq]

theorem tyWidth_of_mem {ty : Nat} (h : ty ∈ [6, 7]) : tyWidth ty = 64 := by
  simp only [List.mem_cons, List.not_mem_nil, or_false] at h
  obtain rfl | rfl := h <;> rfl

theorem ofNat_wrapInt (x : Int) : BitVec.ofNat 64 (wrapInt 64 x) = BitVec.ofInt 64 x := by
  apply BitVec.eq_of_toNat_eq
  rw [BitVec.toNat_ofNat, BitVec.toNat_ofInt, wrapInt]
  omega

theorem sshiftRight_min (x : BitVec 64) (n : Nat) : x.sshiftRight (min n 63) = x.sshiftRight n := by
  rcases Nat.lt_or_ge n 64 with h | h
  · rw [Nat.min_eq_left (Nat.le_of_lt_succ h)]
  · ext i hi
    rw [Nat.min_eq_right (by omega), BitVec.getElem_sshiftRight, BitVec.getElem_sshiftRight, dif_neg (by omega : ¬ n + i < 64)]
    split
    · obtain rfl : i = 0 := by omega
      rfl
    · rfl

/-- Dividing the signed value by a power of two, rounding down, is the arithmetic shift. -/
theorem ofNat_shift_arithmetic (a n : Nat) :
    BitVec.ofNat 64 (wrapInt 64 ((sgn 64 a).fdiv (2 ^ (if n < 63 then n else 63) : Nat))) = (BitVec.ofNat 64 a).sshiftRight n := by
  have hm : (if n < 63 then n else 63) = min n 63 := by split <;> omega
  rw [hm, ofNat_wrapInt, Int.fdiv_eq_ediv_of_nonneg _ (Int.natCast_nonneg _), ← Int.shiftRight_eq_div_pow, sgn,
    ← BitVec.sshiftRight_eq, sshiftRight_min]

theorem ofNat_shift_logical (a n : Nat) :
    BitVec.ofNat 64 (if 64 ≤ n then 0 else a % 2 ^ 64 / 2 ^ n) = BitVec.ofNat 64 a >>> n := by
  split
  · next h => rw [BitVec.ushiftRight_eq_zero h]
  · apply BitVec.eq_of_toNat_eq
    rw [BitVec.toNat_ushiftRight, BitVec.toNat_ofNat, BitVec.toNat_ofNat, Nat.shiftRight_eq_div_pow]
    exact Nat.mod_eq_of_lt (Nat.lt_of_le_of_lt (Nat.div_le_self _ _) (Nat.mod_lt _ (by decide)))

/-- The model's right shift of a 64-bit TYPE, arithmetic or logical by its sign, with the count modulo 2^32. -/
theorem ofNat_opShr {ty : Nat} (h : ty ∈ [6, 7]) (a b : Nat) :
    BitVec.ofNat 64 (opShr ty false a b 0).1 =
      if tySigned ty then (BitVec.ofNat 64 a).sshiftRight ((BitVec.ofNat 64 b).toNat % 2 ^ 32)
      else BitVec.ofNat 64 a >>> ((BitVec.ofNat 64 b).toNat % 2 ^ 32) := by
  rw [BitVec.toNat_ofNat, Nat.mod_mod_of_dvd b (by decide)]
  unfold opShr intVal
  rw [tyWidth_of_mem h]
  split
  · exact ofNat_shift_arithmetic a (b % 2 ^ 32)
  · exact ofNat_shift_logical a (b % 2 ^ 32)

theorem intCond_eq_intHolds (cc : Nat) (a b : Int) : intCond cc a b = Spec.intHolds cc a b := by
  have hle (x y : Int) : decide (x ≤ y) = !decide (y < x) := (decide_eq_decide.2 Int.not_lt.symm).trans decide_not
  match cc with
  | 0 => rfl
  | 1 => exact decide_not
  | 2 => rfl
  | 3 => exact hle a b
  | 4 => rfl
  | _ + 5 => exact hle b a

theorem intVal_eq_val {ty : Nat} (h : tyWidth ty = 64) (x : Nat) : intVal ty 64 x = Spec.val ty x := by
  unfold intVal Spec.val sgn
  rw [h, BitVec.toNat_ofNat]

theorem immInt_eq_imm (x : BitVec 32) (ty : Nat) : immInt x ty = Spec.imm ty x := by
  unfold immInt Spec.imm
  split
  · rfl
  · split
    · next h => subst h; exact Nat.mod_eq_of_lt (by simp [tyWidth]; omega)
    · rfl

theorem branchTarget_eq_target (pc : Word64) (x : BitVec 32) : branchTarget pc x = Spec.target pc x := by
  unfold branchTarget Spec.target
  rw [BitVec.ofInt_add, BitVec.ofInt_mul, BitVec.ofInt_natCast, BitVec.ofNat_toNat, BitVec.setWidth_eq,
    ← BitVec.toInt_signExtend_of_le (v := 64) (by decide), BitVec.ofInt_toInt]
  rfl

end Sys2Proof.Machine
end

section
/-! The scalar words and branches of the access stream (R178 to R180), one clause of O19 after the other. Each holds as stated, but that
of the R-form words, which holds where B has no more than 64 bits. -/

namespace Sys2Proof.Spec

open Sys2Proof.Machine

/-- A scalar word that acts writes D two clocks later (R179). -/
theorem accR_acts {i : Instr} {fn : Fn} {w : RWord} {s : State} {e : Env} (h : Acts i s e) (hf : fnOf i = some fn)
    (hb : bodyOf i = .r w) (f : Nat → Nat → Nat) :
    accR fn w f s = after e 2 [.a e.w w.d.toNat (BitVec.ofNat 64 (f (e.srcA true 0) (e.srcB true 0)))] :=
  runFixed_acts (hb ▸ h.envOf_eq hf) h.able h.clean h.sound h.active rfl

theorem accR_writes {i : Instr} {fn : Fn} {w : RWord} {s : State} {e : Env} {f : Nat → Nat → Nat} {v : Word64} (h : Acts i s e)
    (hf : fnOf i = some fn) (hb : bodyOf i = .r w) (hv : BitVec.ofNat 64 (f (e.srcA true 0) (e.srcB true 0)) = v) :
    accR fn w f s = after e 2 [.a e.w w.d.toNat v] := hv ▸ accR_acts h hf hb f

/-- The I-form of a scalar word that acts writes D two clocks later (R178, R179). -/
theorem accI_acts {i : Instr} {fn : Fn} {w : IWord} {s : State} {e : Env} (h : Acts i s e) (hf : fnOf i = some fn)
    (hb : bodyOf i = .i w) (f : Nat → Nat → Nat) :
    accI fn w f s = after e 2 [.a e.w w.d.toNat (BitVec.ofNat 64 (f (e.wp.areg w.a.toNat) (immInt w.imm w.modi.toNat)))] :=
  runFixed_acts (hb ▸ h.toSite.envOf_eq hf) h.able h.clean h.sound h.active rfl

/-- The R-form scalar words whose B has no more than 64 bits. -/
theorem exec_accForms {f : (RWord → Instr) × (Nat → BitVec 64 → BitVec 64 → BitVec 64)} (hf : f ∈ accForms) {w : RWord} {s : State}
    {e : Env} (h : Acts (f.1 w) s e) (hb : e.srcB true 0 < 2 ^ 64) :
    exec (f.1 w) s =
      after e 2 [.a e.w w.d.toNat (f.2 w.ty (BitVec.ofNat 64 (e.srcA true 0)) (BitVec.ofNat 64 (e.srcB true 0)))] := by
  simp only [accForms, List.mem_cons, List.not_mem_nil, or_false] at hf
  obtain rfl | rfl | rfl | rfl | rfl | rfl | rfl := hf
  · exact accR_writes (f := fun a b => a + b) h rfl rfl (BitVec.ofNat_add _ _)
  · exact accR_writes (f := fun a b => a + (2 ^ 64 - b)) h rfl rfl (ofNat_sub_wrapped _ hb)
  · exact accR_writes (f := fun a b => a * b) h rfl rfl (BitVec.ofNat_mul _ _)
  · exact accR_writes (f := fun a b => a &&& b) h rfl rfl (BitVec.ofNat_and ..)
  · exact accR_writes (f := fun a b => if 64 ≤ b then 0 else a * 2 ^ b) h rfl rfl (ofNat_shift_left _ hb)
  · exact accR_writes (f := fun a b => (opShr w.ty false a b 0).1) h rfl rfl (ofNat_opShr (h.toSite.ty_mem rfl rfl rfl) _ _)
  · exact accR_writes (f := fun a _ => a) h rfl rfl rfl

theorem exec_aaddImm {w : IWord} {s : State} {e : Env} (h : Acts (.aaddImm w) s e) :
    exec (.aaddImm w) s = after e 2 [.a e.w w.d.toNat (e.wp.acc.a.get w.a.toNat 0 + BitVec.ofNat 64 (imm w.modi.toNat w.imm))] := by
  have hx : exec (.aaddImm w) s = accI .aaddImm w (fun a b => a + b) s := rfl
  rw [hx, accI_acts h rfl rfl, immInt_eq_imm, BitVec.ofNat_add, Warp.areg, BitVec.ofNat_toNat, BitVec.setWidth_eq]

theorem exec_amovImm {w : IWord} {s : State} {e : Env} (h : Acts (.amovImm w) s e) :
    exec (.amovImm w) s = after e 2 [.a e.w w.d.toNat (BitVec.ofNat 64 (imm w.modi.toNat w.imm))] := by
  have hx : exec (.amovImm w) s = accI .amovImm w (fun _ b => b) s := rfl
  rw [hx, accI_acts h rfl rfl, immInt_eq_imm]

/-- ACMP writes a condition bit (R179). -/
theorem exec_acmp {w : RWord} {s : State} {e : Env} (h : Acts (.acmp w) s e) :
    exec (.acmp w) s =
      after e 2 [.c e.w w.d.toNat (intHolds (w.fld 2 0) (val w.ty (e.srcA true 0)) (val w.ty (e.srcB true 0)))] := by
  have hw : tyWidth w.ty = 64 := tyWidth_of_mem (h.toSite.ty_mem rfl rfl rfl)
  have hx : exec (.acmp w) s = runFixed .acmp (.r w) (fun _ => 2) (fun _ => none) (fun e =>
      [.c e.w w.d.toNat (intCond (w.fld 2 0) (intVal w.ty 64 (e.srcA true 0)) (intVal w.ty 64 (e.srcB true 0)))]) s := rfl
  rw [hx, ← intCond_eq_intHolds, ← intVal_eq_val hw, ← intVal_eq_val hw]
  exact runFixed_acts (h.toSite.envOf_eq rfl) h.able h.clean h.sound h.active rfl

theorem Site.st_of_abr {w : IWord} {s : State} {e : Env} (h : Site (.abr w) s e) : e.st = .access := by
  have hv := h.validIn
  rw [← Option.some.inj (h.fn : some Fn.abr = some e.fn)] at hv
  cases hst : e.st with
  | access => rfl
  | _ =>
    rw [hst] at hv
    exact absurd hv (by decide)

/-- ABR whose guard does not hold only issues (R45, R180). -/
theorem exec_abr_idle {w : IWord} {s : State} {e : Env} (h : Site (.abr w) s e) (hl : e.act = 0) :
    exec (.abr w) s = after e 1 [] :=
  whenActive_idle (h.envOf_eq rfl) h.able h.clean h.sound hl

/-- ABR whose guard holds goes to its target, where the stream may issue from t + 4 on (R180). -/
theorem exec_abr_taken {w : IWord} {s : State} {e : Env} (h : Site (.abr w) s e) (hl : e.act ≠ 0) :
    ∃ t, exec (.abr w) s = .next t ∧ untouched s t ∧ counted s e t ∧ standsAt e t (target e.pc w.imm) (landsAt e) := by
  refine ⟨e.jump (e.quick e.issued) (target e.pc w.imm), ?_, jump_access h h.st_of_abr _⟩
  have hx : exec (.abr w) s =
      runWord .abr (.i w) (whenActive (fun e s => .ok (e.jump (e.quick s) (branchTarget e.pc w.imm)))) s := rfl
  have henv : envOf s .abr (.i w) = some e := h.envOf_eq rfl
  rw [hx, runWord_issues henv h.able h.clean, whenActive_on hl, branchTarget_eq_target]
  exact done_ok (by simp [Env.jump, Env.quick, envOf_s h.env, h.sound])

/-- A difference whose subtrahend has more than 64 bits is A itself. -/
theorem exec_asub_of_le {w : RWord} {s : State} {e : Env} (h : Acts (.asub w) s e) (hb : 2 ^ 64 ≤ e.srcB true 0) :
    exec (.asub w) s = after e 2 [.a e.w w.d.toNat (BitVec.ofNat 64 (e.srcA true 0))] := by
  have hx : exec (.asub w) s = accR .asub w (fun a b => a + (2 ^ 64 - b)) s := rfl
  rw [hx, accR_acts h rfl rfl, Nat.sub_eq_zero_of_le hb, Nat.add_zero]

end Sys2Proof.Spec

/-! The refutation. ASUB computes a + (2^64 − b) on numbers, where the difference is cut off at 0. A state keeps the coordinates of a
block as numbers without a bound, and a special register reads them as they stand, where R41 gives it 32 bits. -/

namespace Sys2Proof.WideSubtrahend

open Sys2Proof.Machine Sys2Proof.Spec

/-- The access stream of warp 0 on core 0, in a block whose X coordinate is 2^64 + 1. -/
def state : State :=
  ({ State.reset with actor := .access 0 0 } : State).onCore 0
    (fun k => { k with block := some { blk := (2 ^ 64 + 1, 0, 0), kernel := { accmask := 1 } } })

/-- ASUB.N64 A1, A0, BLKX: A by selector 0b00, B the special register 0x08 by selector 0b11. -/
def word : RWord := ⟨1, 0, 0x208, BitVec.ofNat 26 (3 * 2 ^ 22 + 7 * 2 ^ 18), ⟨0x0F, 0, 0, 0, 0, false, false⟩⟩

/-- The word stands at a site in that state. -/
theorem envOf_isSome : (envOf state .asub (.r word)).isSome = true := by decide

/-- That site. -/
def site : Env := (envOf state .asub (.r word)).get envOf_isSome

theorem acts : Acts (.asub word) state site where
  fn := by decide
  env := (Option.some_get envOf_isSome).symm
  able := by decide
  clean := by decide
  sound := by decide
  active := by decide

theorem srcA_eq : site.srcA true 0 = 0 := by decide
theorem srcB_eq : site.srcB true 0 = 2 ^ 64 + 1 := by decide

end Sys2Proof.WideSubtrahend

open Sys2Proof Machine Spec WideSubtrahend

/-- Refutes O19: ASUB of 0 and a block coordinate of 2^64 + 1 gives 0, where the statement has −1 modulo 2^64. A launch
descriptor's fields are too narrow for such a block; the statement quantifies over every state. -/
theorem not_accessScalarInstructions : ¬ Obligations.AccessScalarInstructions := by
  unfold Obligations.AccessScalarInstructions
  rintro ⟨scalar, -⟩
  have claimed := scalar (.asub, fun _ a b => a - b) (by simp [accForms]) word state site acts
  rw [exec_asub_of_le acts (by rw [srcB_eq]; decide), srcA_eq, srcB_eq] at claimed
  have written := after_injective claimed
  simp at written
end

section
/-! Issuing a word of a compute stream (R46, R47, R50): the matrix stream is left alone, no result in flight is lost, and the split, or the
handler, that issued the word stands at the next one. -/

namespace Sys2Proof.Machine

open Sys2Proof.Spec

/-! Where the splits of a core stand. -/

/-- The pc, the next clock of issue, and the hold by an operation, of a split of a warp or of the handler split. -/
def Core.standing (k : Core) (w slot : Nat) (handler : Bool) : Option (Word64 × Nat × Option Nat) :=
  if handler then (k.halt.bind (·.handler)).map (fun x => (x.pc, x.ready, x.held))
  else ((k.warp w).splits.find slot).map (fun x => (x.pc, x.ready, x.held))

theorem standing_congr {x y : Core} (hh : y.halt.bind (·.handler) = x.halt.bind (·.handler))
    (hs : ∀ w, (y.warp w).splits = (x.warp w).splits) (w slot : Nat) (handler : Bool) :
    y.standing w slot handler = x.standing w slot handler := by
  simp only [Core.standing, hh, hs]

/-- Two cores agree in the matrix stream, in the results in flight, and in where every split stands. -/
structure SameStreams (x y : Core) : Prop where
  mst : y.mst = x.mst
  pends : y.pends = x.pends
  standing : ∀ w slot handler, y.standing w slot handler = x.standing w slot handler

theorem sameStreams_refl (k : Core) : SameStreams k k := ⟨rfl, rfl, fun _ _ _ => rfl⟩

theorem sameStreams_trans {x y z : Core} (h : SameStreams x y) (g : SameStreams y z) : SameStreams x z :=
  ⟨g.mst.trans h.mst, g.pends.trans h.pends, fun w n b => (g.standing w n b).trans (h.standing w n b)⟩

theorem setWarp_standing_ne (k : Core) {w v : Nat} (h : v ≠ w) (x : Warp) (slot : Nat) (handler : Bool) :
    (k.setWarp w x).standing v slot handler = k.standing v slot handler := by
  simp only [Core.standing, Core.setWarp_halt, Core.warp_setWarp_ne _ _ _ _ h]

theorem setWarp_sameStreams (k : Core) (w : Nat) {x : Warp} (h : x.splits = (k.warp w).splits) : SameStreams k (k.setWarp w x) := by
  refine ⟨rfl, rfl, standing_congr rfl (fun v => ?_)⟩
  by_cases hv : v = w
  · subst hv
    rw [Core.warp_setWarp, h]
  · rw [Core.warp_setWarp_ne _ _ _ _ hv]

/-- A change of a split that moves neither its pc nor its clock of issue nor its hold. -/
theorem onSplit_sameStreams (e : Env) (s : State) {f : Split → Split}
    (h : ∀ p, (f p).pc = p.pc ∧ (f p).ready = p.ready ∧ (f p).held = p.held) :
    SameStreams (s.core e.c) ((e.onSplit s f).core e.c) := by
  unfold Env.onSplit
  split
  · exact sameStreams_refl _
  · rw [State.core_onWarp]
    refine ⟨rfl, rfl, fun w slot handler => ?_⟩
    by_cases hw : w = e.w
    · subst hw
      cases hp : ((s.core e.c).warp e.w).splits.find e.slot with
      | none => exact (setWarp_sameStreams _ _ rfl).standing _ _ _
      | some p =>
        cases handler with
        | true => rfl
        | false =>
          by_cases hn : slot = e.slot
          · subst hn
            simp [Core.standing, FMap.find_set, hp, h p]
          · simp [Core.standing, FMap.find_set, hn]
    · exact setWarp_standing_ne _ hw _ _ _

/-! The steps of issuing. -/

theorem popped_sameStreams (e : Env) : SameStreams (e.s.core e.c) (e.popped.core e.c) := by
  unfold Env.popped
  split
  · rw [drawn_core]
    exact sameStreams_refl _
  · rw [State.core_onWarp, drawn_core]
    obtain ⟨qs, n, hi, tod, h⟩ := popWarp_eq e ((e.s.core e.c).warp e.w)
    exact setWarp_sameStreams _ _ (by rw [h])

theorem countSkid_sameStreams (k : Core) (clk : Nat) (p : Party) : SameStreams k (k.countSkid clk p) := by
  unfold Core.countSkid
  split
  · next h hk =>
    split
    · exact ⟨rfl, rfl, standing_congr (by simp [hk]) (fun _ => rfl)⟩
    · exact sameStreams_refl k
  · exact sameStreams_refl k

theorem countCore_sameStreams {e : Env} (hst : e.st = .compute) (k : Core) : SameStreams k (e.countCore k) := by
  have hparty : e.party = .compute e.w := by simp [Env.party, hst]
  have hf (n : Nat) : SameStreams k (k.flagUp e.party n) := by
    rw [hparty]
    unfold Core.flagUp
    split
    · exact sameStreams_refl k
    · exact setWarp_sameStreams k e.w rfl
  unfold Env.countCore
  split
  · exact hf _
  · exact sameStreams_trans (hf _) (countSkid_sameStreams _ _ _)

theorem yieldMark_sameStreams {e : Env} (hst : e.st = .compute) (s : State) :
    SameStreams (s.core e.c) ((e.yieldMark s).core e.c) := by
  simp only [Env.yieldMark, hst]
  exact onSplit_sameStreams e s (fun _ => ⟨rfl, rfl, rfl⟩)

/-- Going to a place moves the split that goes there, and only it. -/
theorem goto_standing {e : Env} (hst : e.st = .compute) (s : State) (pc : Word64) (ready : Nat) :
    ((e.goto s pc ready).core e.c).standing e.w e.slot e.handler =
      ((s.core e.c).standing e.w e.slot e.handler).map (fun x => (pc, ready, x.2.2)) := by
  cases hh : e.handler with
  | true =>
    cases hk : (s.core e.c).halt with
    | none => simp [Env.goto, hst, hh, hk, Core.standing]
    | some h => cases hx : h.handler <;> simp [Env.goto, hst, hh, hk, hx, Core.standing]
  | false =>
    cases hp : ((s.core e.c).warp e.w).splits.find e.slot <;> simp [Env.goto, hst, hh, hp, Core.standing, FMap.find_set]

theorem goto_mst_pends {e : Env} (hst : e.st = .compute) (s : State) (pc : Word64) (ready : Nat) :
    ((e.goto s pc ready).core e.c).mst = (s.core e.c).mst ∧ ((e.goto s pc ready).core e.c).pends = (s.core e.c).pends := by
  simp only [Env.goto, hst]
  split
  · rw [State.core_onCore]
    split <;> exact ⟨rfl, rfl⟩
  · rw [State.core_onWarp]
    exact ⟨rfl, rfl⟩

/-- Up to the step to the next word, issuing keeps the streams as they were. -/
theorem marked_sameStreams {e : Env} (hst : e.st = .compute) : SameStreams (e.s.core e.c) ((e.yieldMark e.noted).core e.c) := by
  have hn : SameStreams (e.s.core e.c) (e.noted.core e.c) := by
    rw [noted_core]
    exact sameStreams_trans (popped_sameStreams e) (countCore_sameStreams hst _)
  exact sameStreams_trans hn (yieldMark_sameStreams hst _)

theorem issued_standing {e : Env} (hst : e.st = .compute) :
    (e.issued.core e.c).standing e.w e.slot e.handler =
      ((e.s.core e.c).standing e.w e.slot e.handler).map (fun x => (e.pc + 12, e.clk + 1 + e.ctl.stall.toNat, x.2.2)) := by
  rw [issued_eq, goto_standing hst, (marked_sameStreams hst).standing]

theorem issued_mst_pends {e : Env} (hst : e.st = .compute) :
    (e.issued.core e.c).mst = (e.s.core e.c).mst ∧ (e.issued.core e.c).pends = (e.s.core e.c).pends := by
  obtain ⟨hm, hp⟩ := goto_mst_pends hst (e.yieldMark e.noted) (e.pc + 12) (e.clk + 1 + e.ctl.stall.toNat)
  have h := marked_sameStreams hst
  exact ⟨issued_eq e ▸ hm.trans h.mst, issued_eq e ▸ hp.trans h.pends⟩

theorem retire_mst_standing (e : Env) (s : State) (lat : Nat) (wrs : List Wr) :
    ((e.retire s lat wrs).core e.c).mst = (s.core e.c).mst ∧
      ((e.retire s lat wrs).core e.c).standing e.w e.slot e.handler = (s.core e.c).standing e.w e.slot e.handler := by
  have h := onSplit_sameStreams e (s.onCore e.c (fun k =>
    { k with pends := k.pends ++ [{ due := e.clk + lat, party := e.party, flag := e.ctl.setf.toNat, wrs }] }))
    (f := fun p => { p with landed := max p.landed (e.clk + lat) }) (fun _ => ⟨rfl, rfl, rfl⟩)
  rw [State.core_onCore] at h
  exact ⟨h.mst, h.standing e.w e.slot e.handler⟩

/-! The site of a word of a compute stream. -/

theorem envOf_core {s : State} {fn : Fn} {body : Body} {e : Env} (h : envOf s fn body = some e) : e.k = s.core e.c ∧ e.clk = s.clk := by
  unfold envOf at h
  dsimp only at h
  repeat' split at h
  all_goals cases h
  all_goals exact ⟨rfl, rfl⟩

/-- The site of a word of a compute stream, in terms of its core. -/
theorem envOf_compute {s : State} {fn : Fn} {body : Body} {e : Env} (h : envOf s fn body = some e) (hst : e.st = .compute) :
    s.actor = (if e.handler then .handler e.c else .compute e.c e.w e.slot) ∧ (s.core e.c).block = some e.blk ∧
      (s.core e.c).standing e.w e.slot e.handler = some (e.pc, e.ready, e.held) := by
  unfold envOf at h
  dsimp only at h
  repeat' split at h
  all_goals cases h
  all_goals simp_all [Core.standing]

/-- A split that stands somewhere in a block has its site there. -/
theorem envOf_eq_standing {s : State} {c w slot : Nat} {handler : Bool} {b : Block} {x : Word64 × Nat × Option Nat} (fn : Fn)
    (body : Body) (ha : s.actor = if handler then .handler c else .compute c w slot) (hb : (s.core c).block = some b)
    (hx : (s.core c).standing w slot handler = some x) :
    ∃ n, envOf s fn body = some n ∧ (n.pc, n.ready, n.held) = x := by
  cases handler with
  | true =>
    simp only [Core.standing, if_true, Option.map_eq_some_iff, Option.bind_eq_some_iff] at hx
    obtain ⟨y, ⟨h, hh, hy⟩, rfl⟩ := hx
    exact ⟨_, by simp [envOf, ha, hb, hh, hy]; rfl, rfl⟩
  | false =>
    simp only [Core.standing, Bool.false_eq_true, if_false, Option.map_eq_some_iff] at hx
    obtain ⟨y, hy, rfl⟩ := hx
    exact ⟨_, by simp [envOf, ha, hb, hy]; rfl, rfl⟩

@[simp] theorem raise_bad (e : Env) (s : State) (rank : Nat) (t : Trap) : (e.raise s rank t).bad = s.bad := by
  unfold Env.raise raiseAt
  dsimp only
  split <;> split <;> rfl

end Sys2Proof.Machine

namespace Sys2Proof.Spec

open Sys2Proof.Machine

/-- What a word of a compute stream that completes at t + 1 leaves, before what it does beyond that. -/
structure Quick (s : State) (e : Env) (u : State) : Prop where
  untouched : untouched s u
  counted : counted s e u
  lands : lands s e u 1 []
  mst : (u.core e.c).mst = (s.core e.c).mst
  actor : u.actor = s.actor
  standing : (u.core e.c).standing e.w e.slot e.handler = some (e.pc + 12, s.clk + 1 + e.ctl.stall.toNat, none)

theorem Site.quick {i : Instr} {s : State} {e : Env} (h : Site i s e) (hst : e.st = .compute) : Quick s e (e.quick e.issued) := by
  have hs : e.s = s := envOf_s h.env
  obtain ⟨-, hclk⟩ := envOf_core h.env
  obtain ⟨-, -, hstand⟩ := envOf_compute h.env hst
  obtain ⟨him, hip⟩ := issued_mst_pends hst
  obtain ⟨hrm, hrs⟩ := retire_mst_standing e e.issued 1 []
  refine ⟨?_, fun hn => ?_, ?_, ?_, ?_, ?_⟩
  · rw [← hs]
    exact untouched_trans (issued_untouched e) (retire_untouched e _ _ _)
  · rw [← hs, ← issued_flags e hn, Env.quick, retire_flags]
  · rw [lands, Env.quick, retire_pends, hip, hs, hclk]
  · rw [← hs]
    exact hrm.trans him
  · rw [← hs]
    exact (retire_actor e _ _ _).trans (issued_actor e)
  · rw [Env.quick, hrs, issued_standing hst, hs, hstand, hclk, h.held_eq_none]
    rfl

/-- A word whose split stands at the next word has moved there. -/
theorem Site.moved_of_standing {i : Instr} {s t : State} {e : Env} (h : Site i s e) (hst : e.st = .compute) (ha : t.actor = s.actor)
    (hb : (t.core e.c).block = (s.core e.c).block)
    (hx : (t.core e.c).standing e.w e.slot e.handler = some (e.pc + 12, s.clk + 1 + e.ctl.stall.toNat, none)) : moved s e t := by
  obtain ⟨hact, hblk, -⟩ := envOf_compute h.env hst
  obtain ⟨n, hn, hpos⟩ := envOf_eq_standing e.fn e.body (ha.trans hact) (hb.trans hblk) hx
  simp only [Prod.mk.injEq] at hpos
  exact ⟨n, hn, hpos⟩

end Sys2Proof.Spec
end

section
/-! BAR.INIT (R296). -/

namespace Sys2Proof

theorem FMap.get_mapV {α β : Type} (m : FMap α) (f : α → β) (k : Nat) (d : α) : (m.mapV f).get k (f d) = f (m.get k d) := by
  have hf : (m.mapV f).find k = (m.find k).map f := by
    induction m with
    | nil => rfl
    | cons p m ih =>
      obtain ⟨i, x⟩ := p
      simp only [FMap.mapV, List.map_cons, FMap.find] at *
      split
      · rfl
      · exact ih
  simp [FMap.get, hf]

theorem getLsbD_putBit_false {w : Nat} (m : BitVec w) (i j : Nat) :
    (putBit m i false).getLsbD j = (m.getLsbD j && decide (j ≠ i)) := by
  by_cases hj : j < w
  · have hbit : (BitVec.ofNat w (2 ^ i)).getLsbD j = decide (i = j) := by
      rw [BitVec.getLsbD_ofNat, Nat.testBit_two_pow, decide_eq_true hj, Bool.true_and]
    simp only [putBit, Bool.false_eq_true, if_false, BitVec.getLsbD_and, BitVec.getLsbD_not, hbit, hj, decide_true, Bool.true_and,
      ne_eq, decide_not, eq_comm]
  · rw [BitVec.getLsbD_of_ge _ _ (Nat.le_of_not_lt hj), BitVec.getLsbD_of_ge _ _ (Nat.le_of_not_lt hj), Bool.false_and]

theorem getLsbD_putBit_false_self {w : Nat} (m : BitVec w) (i : Nat) : (putBit m i false).getLsbD i = false := by
  simp [getLsbD_putBit_false]

theorem getLsbD_putBit_false_ne {w : Nat} (m : BitVec w) {i j : Nat} (h : j ≠ i) :
    (putBit m i false).getLsbD j = m.getLsbD j := by
  simp [getLsbD_putBit_false, h]

end Sys2Proof

namespace Sys2Proof.Machine

open Sys2Proof.Spec

/-! What a change of barriers leaves. -/

/-- Of the registers only barrier `b`, and the parity bits and arrived flags of the parties, differ in two cores. -/
structure SameButBarrier (b : Nat) (x y : Core) : Prop where
  unit : sameUnit { x with bars := y.bars } y
  bars : ∀ i, i ≠ b → y.bar i = x.bar i
  warps : ∀ w, sameWarp { x.warp w with lp := (y.warp w).lp, arvd := (y.warp w).arvd, alp := (y.warp w).alp,
                                        aarvd := (y.warp w).aarvd } (y.warp w)
  scratch : y.scratch = x.scratch
  wbuf : y.wbuf = x.wbuf
  shapes : y.shapes = x.shapes

theorem sameButBarrier_refl (b : Nat) (k : Core) : SameButBarrier b k k :=
  ⟨sameUnit_refl k, fun _ _ => rfl, fun _ => sameWarp_refl _, rfl, rfl, rfl⟩

/-- A change of a core's barrier after a step that touches no register changes only that barrier. -/
theorem onlyBarrier_onCore {s u : State} (h : untouched s u) (c b : Nat) {f : Core → Core}
    (hf : SameButBarrier b (u.core c) (f (u.core c))) : onlyBarrier s (u.onCore c f) c b := by
  obtain ⟨hreg, hbytes, hchip⟩ := h
  have core (d : Nat) : SameButBarrier b (u.core d) ((u.onCore c f).core d) ∧ (d ≠ c → (u.onCore c f).core d = u.core d) := by
    by_cases hd : d = c
    · subst hd
      rw [State.core_onCore]
      exact ⟨hf, fun hne => absurd rfl hne⟩
    · rw [State.core_onCore_ne _ _ _ _ hd]
      exact ⟨sameButBarrier_refl b _, fun _ => rfl⟩
  have bars (d i : Nat) (hi : ¬(d = c ∧ i = b)) : ((u.onCore c f).core d).bar i = (s.core d).bar i := by
    have hu : (u.core d).bar i = (s.core d).bar i := by
      obtain ⟨⟨-, -, -, -, -, -, -, -, -, -, hbars, -⟩, -⟩ := hreg d
      rw [Core.bar, hbars, Core.bar]
    by_cases hd : d = c
    · rw [(core d).1.bars i (fun hb => hi ⟨hd, hb⟩), hu]
    · rw [(core d).2 hd, hu]
  refine ⟨fun p => ?_, hchip, fun d => ⟨?_, bars d, fun w => ?_⟩⟩
  · rw [← hbytes p]
    cases p with
    | scratch d a => simp only [byteAt, (core d).1.scratch]
    | buffer d a => simp only [byteAt, (core d).1.wbuf]
    | shape d a => simp only [byteAt, (core d).1.shapes]
    | _ => rfl
  · have hu := (hreg d).1
    have hv := (core d).1.unit
    unfold sameUnit at *
    grind
  · have hu := (hreg d).2 w
    have hv := (core d).1.warps w
    unfold sameWarp at *
    grind

theorem untouched_lpOf {s u : State} (h : untouched s u) {c : Nat} (hm : (u.core c).mst = (s.core c).mst) (p : Party) :
    (u.core c).lpOf p = (s.core c).lpOf p := by
  obtain ⟨hreg, -⟩ := h
  obtain ⟨-, hwarps⟩ := hreg c
  have hw (w : Nat) := hwarps w
  unfold sameWarp at hw
  cases p with
  | compute w => simp only [Core.lpOf, hw w]
  | access w => simp only [Core.lpOf, hw w]
  | matrix => simp only [Core.lpOf, hm]

/-! The barrier that BAR.INIT leaves. -/

/-- A warp whose parity bits and arrived flags for barrier `b` are 0. -/
def Warp.clearBarrier (x : Warp) (b : Nat) : Warp :=
  { x with lp := putBit x.lp b false, arvd := putBit x.arvd b false, alp := putBit x.alp b false,
           aarvd := putBit x.aarvd b false }

/-- A core after BAR.INIT of barrier `b` with count `n`. -/
def Core.initBarrier (k : Core) (b n : Nat) : Core :=
  { k with
    bars := k.bars.put b { expect := n } {},
    warps := k.warps.mapV (·.clearBarrier b),
    mst := { k.mst with lp := putBit k.mst.lp b false, arvd := putBit k.mst.arvd b false } }

@[simp] theorem initBarrier_warp (k : Core) (b n w : Nat) : (k.initBarrier b n).warp w = (k.warp w).clearBarrier b := by
  have hd : ({} : Warp).clearBarrier b = {} := by simp [Warp.clearBarrier, putBit]
  have h := FMap.get_mapV k.warps (·.clearBarrier b) w {}
  rwa [hd] at h

@[simp] theorem initBarrier_bar (k : Core) (b n : Nat) : (k.initBarrier b n).bar b = { expect := n } := FMap.get_put_self _ _ _ _

theorem initBarrier_lpOf (k : Core) (b n : Nat) (p : Party) :
    (k.initBarrier b n).lpOf p = (putBit (k.lpOf p).1 b false, putBit (k.lpOf p).2 b false) := by
  cases p with
  | compute w => simp only [Core.lpOf, initBarrier_warp]; rfl
  | access w => simp only [Core.lpOf, initBarrier_warp]; rfl
  | matrix => rfl

theorem initBarrier_flags (k : Core) (b n : Nat) (p : Party) : (k.initBarrier b n).flags p = k.flags p := by
  cases p with
  | compute w => simp only [Core.flags, initBarrier_warp]; rfl
  | access w => simp only [Core.flags, initBarrier_warp]; rfl
  | matrix => rfl

theorem initBarrier_standing (k : Core) (b n w slot : Nat) (handler : Bool) :
    (k.initBarrier b n).standing w slot handler = k.standing w slot handler := by
  refine standing_congr (x := k) (y := k.initBarrier b n) rfl (fun v => ?_) w slot handler
  rw [initBarrier_warp]
  rfl

theorem initBarrier_sameButBarrier (k : Core) (b n : Nat) : SameButBarrier b k (k.initBarrier b n) where
  unit := sameUnit_refl _
  bars i hi := FMap.get_put_ne _ _ _ hi
  warps w := by
    rw [initBarrier_warp]
    exact sameWarp_refl _
  scratch := rfl
  wbuf := rfl
  shapes := rfl

end Sys2Proof.Machine

namespace Sys2Proof.Spec

open Sys2Proof.Machine

theorem Site.st_of_barInit {w : RWord} {s : State} {e : Env} (h : Site (.barInit w) s e) : e.st = .compute := by
  have hv := h.validIn
  rw [← Option.some.inj (h.fn : some Fn.barInit = some e.fn)] at hv
  cases hst : e.st with
  | compute => rfl
  | _ =>
    rw [hst] at hv
    exact absurd hv (by decide)

/-- A BAR.INIT that acts raises a trap, of the count before one of the barrier, or initialises its barrier (R296). -/
theorem exec_barInit {w : RWord} {s : State} {e : Env} (h : Acts (.barInit w) s e) :
    exec (.barInit w) s = .next (
      if e.srcB false 0 = 0 ∨ 255 < e.srcB false 0 then e.raise s 7 (plain .barCount)
      else if (e.k.bar w.a.toNat).n ≠ 0 ∨ e.k.waitsOn w.a.toNat = true ∨ s.willArrive e.c w.a.toNat = true then
        e.raise s 7 (plain .barBusy)
      else (e.quick e.issued).onCore e.c (·.initBarrier w.a.toNat (e.srcB false 0))) := by
  have hs : e.s = s := envOf_s h.env
  have hx : exec (.barInit w) s = execBarInit w s := rfl
  have henv : envOf s .barInit (.r w) = some e := h.toSite.envOf_eq rfl
  rw [hx, execBarInit, runWord_issues henv h.able h.clean, whenActive_on h.active]
  dsimp only
  rw [hs]
  by_cases hcount : e.srcB false 0 = 0 ∨ 255 < e.srcB false 0
  · rw [if_pos hcount, if_pos hcount]
    exact done_ok ((raise_bad _ _ _ _).trans h.sound)
  · rw [if_neg hcount, if_neg hcount]
    by_cases hbusy : (e.k.bar w.a.toNat).n ≠ 0 ∨ e.k.waitsOn w.a.toNat = true ∨ s.willArrive e.c w.a.toNat = true
    · rw [if_pos hbusy, if_pos hbusy]
      exact done_ok ((raise_bad _ _ _ _).trans h.sound)
    · rw [if_neg hbusy, if_neg hbusy]
      exact done_ok (by simp only [Env.quick, onCore_bad, retire_bad, issued_bad, hs, h.sound])

end Sys2Proof.Spec

open Sys2Proof Machine Spec

/-- Settles O42: the word issues and completes at t + 1, and of its core nothing changes but the barrier and the parties' bits for it. -/
theorem barrierInit : Obligations.BarrierInit := by
  unfold Obligations.BarrierInit
  intro w s e h
  have hrun := exec_barInit h
  refine ⟨fun hcount => ?_, fun hlow hhigh hbusy => ?_, fun hlow hhigh hfree => ?_⟩
  · rw [hrun, if_pos hcount]
  · rw [hrun, if_neg (by omega), if_pos hbusy]
  · rw [if_neg (by omega), if_neg hfree] at hrun
    have hst := h.toSite.st_of_barInit
    have hq := h.toSite.quick hst
    obtain ⟨hk, -⟩ := envOf_core h.env
    refine ⟨_, hrun, h.toSite.moved_of_standing hst hq.actor ?_ ?_, fun hn => ?_, ?_,
      onlyBarrier_onCore hq.untouched _ _ (initBarrier_sameButBarrier _ _ _), ?_, fun p => ?_⟩
    · rw [State.core_onCore]
      exact untouched_block hq.untouched e.c
    · rw [State.core_onCore, initBarrier_standing, hq.standing]
    · rw [State.core_onCore, initBarrier_flags, hq.counted hn]
    · rw [lands, State.core_onCore]
      exact hq.lands
    · rw [State.core_onCore, initBarrier_bar]
    · rw [State.core_onCore, initBarrier_lpOf, untouched_lpOf hq.untouched hq.mst, hk]
      exact ⟨getLsbD_putBit_false_self _ _, getLsbD_putBit_false_self _ _,
        fun i _ hi => ⟨getLsbD_putBit_false_ne _ hi, getLsbD_putBit_false_ne _ hi⟩⟩
end

section
/-! TRAP (R371): the halt that it begins in a stream of a core (R364), and the end of a stack core's command or kernel (R266). -/

namespace Sys2Proof.Machine

/-- A trap of a stream of a core that is not halted, but a storage error, begins a halt in its clock and does nothing else (R364). -/
theorem raise_of_running {e : Env} {s : State} {rank : Nat} {t : Trap} (hh : e.handler = false) (hk : (s.core e.c).halt = none)
    (hc : t.cause ≠ .dataError) :
    e.raise s rank t = ({ s with raised := some ⟨rank, t⟩ } : State).onCore e.c (fun k =>
      { k with halt := some { found := s.clk, party := e.party, slot := e.slot, pair2 := s.second, pc := e.pc,
                              trap := (s.core e.c).retryDone e.party e.slot e.pc t },
               haltclk := s.clk }) := by
  have hcore : ({ s with raised := some ⟨rank, t⟩ } : State).core e.c = s.core e.c := rfl
  simp only [Env.raise, raiseAt, hh, hc, false_and, if_false, Bool.false_eq_true, State.onCore, hcore, hk]

/-- How the model ends a command or a kernel is what R266 and R269 say. -/
theorem finish_eq_endedAt (x : SCore) (status pc : Nat) (result : Word64) :
    x.finish status pc result = Spec.endedAt x pc status result := by
  unfold SCore.finish Spec.endedAt
  cases x.job <;> rfl

end Sys2Proof.Machine

namespace Sys2Proof.Spec

open Sys2Proof.Machine

/-- A TRAP that acts in a stream of a core raises the cause TRAP with its CODE (R371). -/
theorem exec_trap {w : RWord} {s : State} {e : Env} (h : Acts (.trap w) s e) :
    exec (.trap w) s = .next (e.raise s 7 { cause := .trap, aux := BitVec.ofNat 32 (w.fld 15 0) }) := by
  have hx : exec (.trap w) s = execTrap w s := rfl
  have henv : envOf s .trap (.r w) = some e := h.toSite.envOf_eq rfl
  rw [hx, execTrap, envOf_onStack henv, if_neg Bool.false_ne_true, runWord_issues henv h.able h.clean, whenActive_on h.active]
  exact done_ok ((raise_bad _ _ _ _).trans h.sound)

/-- A TRAP that acts in a stack core ends its command or kernel with the status of TRAP (R266, R371). -/
theorem exec_trap_stack {w : RWord} {s : State} {e : SEnv} (h : StackActs (.trap w) s e) :
    exec (.trap w) s = .next (s.setSc e.g e.k (endedAt e.sc e.sc.pc 0x9B 0)) := by
  have hx : exec (.trap w) s = execTrap w s := rfl
  have henv : senvOf s .trap (.r w) = some e := by
    rw [Option.some.inj (h.fn : some Fn.trap = some e.fn)]
    exact h.env
  rw [hx, execTrap, senvOf_onStack henv, if_pos rfl, runStack, runStackWhen_issues henv h.able h.clean h.guard rfl,
    ← finish_eq_endedAt]
  exact done_ok h.sound

end Sys2Proof.Spec
end

section
/-! What the issue of a handler's word leaves of its core beyond its registers (R366): the splits, the trap state and the TLB. -/

namespace Sys2Proof.Machine

open Sys2Proof.Spec

/-- A core differs from another in its warps alone, and in none of their splits. -/
structure SameButWarps (x y : Core) : Prop where
  core : y = { x with warps := y.warps }
  splits : ∀ w, (y.warp w).splits = (x.warp w).splits

theorem sameButWarps_refl (k : Core) : SameButWarps k k := ⟨rfl, fun _ => rfl⟩

theorem sameButWarps_trans {x y z : Core} (h : SameButWarps x y) (g : SameButWarps y z) : SameButWarps x z :=
  ⟨g.core.trans (congrArg (fun k : Core => { k with warps := z.warps }) h.core), fun w => (g.splits w).trans (h.splits w)⟩

theorem setWarp_sameButWarps (k : Core) (w : Nat) {x : Warp} (h : x.splits = (k.warp w).splits) : SameButWarps k (k.setWarp w x) := by
  refine ⟨rfl, fun v => ?_⟩
  by_cases hv : v = w
  · subst hv
    rw [Core.warp_setWarp, h]
  · rw [Core.warp_setWarp_ne _ _ _ _ hv]

theorem popped_sameButWarps (e : Env) : SameButWarps (e.s.core e.c) (e.popped.core e.c) := by
  unfold Env.popped
  split
  · rw [drawn_core]
    exact sameButWarps_refl _
  · rw [State.core_onWarp, drawn_core]
    obtain ⟨qs, n, hi, tod, h⟩ := popWarp_eq e ((e.s.core e.c).warp e.w)
    exact setWarp_sameButWarps _ _ (by rw [h])

theorem flagUp_sameButWarps (k : Core) (w n : Nat) : SameButWarps k (k.flagUp (.compute w) n) := by
  unfold Core.flagUp
  split
  · exact sameButWarps_refl k
  · exact setWarp_sameButWarps k w rfl

/-- The site of a word of the handler, in terms of its core's halt. -/
theorem envOf_handler {s : State} {fn : Fn} {body : Body} {e : Env} (h : envOf s fn body = some e) (hh : e.handler = true) :
    e.st = .compute ∧ ∃ t x, (s.core e.c).halt = some t ∧ t.handler = some x ∧ x.warp = e.w := by
  unfold envOf at h
  dsimp only at h
  repeat' split at h
  all_goals cases h
  all_goals simp_all

theorem noted_sameButWarps {e : Env} (hst : e.st = .compute) (hh : e.handler = true) :
    SameButWarps (e.s.core e.c) (e.noted.core e.c) := by
  have hparty : e.party = .compute e.w := by simp [Env.party, hst]
  rw [noted_core, Env.countCore, if_pos hh, hparty]
  exact sameButWarps_trans (popped_sameButWarps e) (flagUp_sameButWarps _ _ _)

/-- A handler's word that completes at t + 1 changes of its core its warps, the results in flight and the place of the handler. -/
theorem quick_core_handler {e : Env} {h : Halt} {x : HSplit} (hst : e.st = .compute) (hh : e.handler = true)
    (hk : (e.s.core e.c).halt = some h) (hx : h.handler = some x) :
    ∃ y, SameButWarps (e.s.core e.c) y ∧ (e.quick e.issued).core e.c = { y with
      pends := ((e.quick e.issued).core e.c).pends
      halt := some { h with handler := some { x with pc := e.pc + 12, ready := e.clk + 1 + e.ctl.stall.toNat } } } := by
  have hy := noted_sameButWarps hst hh
  have hhalt : (e.noted.core e.c).halt = some h := by
    rw [hy.core]
    exact hk
  refine ⟨_, hy, ?_⟩
  simp [Env.quick, Env.retire, issued_eq, Env.goto, Env.yieldMark, Env.onSplit, hst, hh, hhalt, hx]

/-- A core `y` in which the handler runs on warp `w`, with the block, the registers of the warps and the request for pre-emption of `x`,
and with its trap state but for KVPROG, which a return past a trap may change (R252). -/
structure KeepsHandler (x y : Core) (w : Nat) : Prop where
  handler : ∃ h z, y.halt = some h ∧ h.handler = some z ∧ z.warp = w
  preempt : y.preempt = x.preempt
  sys : ∀ i, i ≠ 0x00E → y.sysReg i = x.sysReg i
  block : y.block = x.block
  warps : ∀ v, sameWarp (x.warp v) (y.warp v)

end Sys2Proof.Machine

namespace Sys2Proof.Spec

open Sys2Proof.Machine

/-- What a handler's word that completes at t + 1 leaves, before what it does beyond that. -/
structure HandlerQuick (s : State) (e : Env) (u : State) : Prop where
  untouched : untouched s u
  keeps : KeepsHandler (s.core e.c) (u.core e.c) e.w
  tlb : (u.core e.c).tlb = (s.core e.c).tlb
  splits : ∀ v, ((u.core e.c).warp v).splits = ((s.core e.c).warp v).splits

theorem Handles.quick {i : Instr} {s : State} {e : Env} {h : Halt} (hh : Handles i s e h) : HandlerQuick s e (e.quick e.issued) := by
  have hs : e.s = s := envOf_s hh.env
  obtain ⟨hst, g, x, hhalt, hx, hw⟩ := envOf_handler hh.env hh.handler
  obtain ⟨y, hy, hcore⟩ := quick_core_handler hst hh.handler (hs ▸ hhalt) hx
  rw [hs] at hy
  obtain ⟨hreg, hbytes, hchip⟩ := (hh.toSite.quick hst).untouched
  obtain ⟨⟨-, -, -, -, -, -, -, -, -, -, -, hsys, -, hblock⟩, hwarps⟩ := hreg e.c
  refine ⟨⟨hreg, hbytes, hchip⟩, ⟨?_, ?_, fun i _ => ?_, hblock, hwarps⟩, ?_, fun v => ?_⟩
  · rw [hcore]
    exact ⟨_, _, rfl, rfl, hw⟩
  · rw [hcore]
    exact (congrArg Core.preempt hy.core : y.preempt = _)
  · rw [Core.sysReg, hsys, Core.sysReg]
  · rw [hcore]
    exact (congrArg Core.tlb hy.core : y.tlb = _)
  · rw [hcore]
    exact hy.splits v

end Sys2Proof.Spec
end

section
/-! What a fetch reads (R55, R387): bytes of the memories and the tables of its context. -/

namespace Sys2Proof

theorem FMap.getBytes_congr {m n : FMap Byte} (h : ∀ a, n.get a 0 = m.get a 0) (a len : Nat) :
    n.getBytes a len = m.getBytes a len := by
  induction len generalizing a with
  | zero => rfl
  | succ len ih => rw [FMap.getBytes, FMap.getBytes, h, ih]

end Sys2Proof

namespace Sys2Proof.Machine

open Sys2Proof.Spec

theorem walkFrom_congr {m n : FMap Byte} (h : ∀ a, n.get a 0 = m.get a 0) (va levels table : Nat) :
    walkFrom n va levels table = walkFrom m va levels table := by
  induction levels generalizing table with
  | zero => rfl
  | succ levels ih =>
    have hnum (a : Nat) : n.num a 8 = m.num a 8 := congrArg leNat (FMap.getBytes_congr h a 8)
    simp only [walkFrom, hnum, ih]

theorem xlate_of_sameBytes {s t : State} (hb : sameBytes s t) (hc : t.ctxs = s.ctxs) (tlb : List TlbEntry) (asid va : Nat) :
    t.xlate tlb asid va = s.xlate tlb asid va := by
  have hhbm (a : Nat) : t.hbm.get a 0 = s.hbm.get a 0 := hb (.hbm a)
  simp only [State.xlate, State.walk, State.ctx, hc, walkFrom_congr hhbm]

theorem readPlace_of_sameBytes {s t : State} (hb : sameBytes s t) (p : Place) (n : Nat) :
    t.readPlace none p n = s.readPlace none p n := by
  cases p with
  | hbm a => exact FMap.getBytes_congr (fun a => hb (.hbm a)) a n
  | host a => exact FMap.getBytes_congr (fun a => hb (.host a)) a n
  | window m a => exact FMap.getBytes_congr (fun a => hb (.module a)) (modKey m a) n

/-- A fetch finds the same word in packages with the same bytes and the same contexts. -/
theorem fetchWord_of_sameBytes {s t : State} (hb : sameBytes s t) (hc : t.ctxs = s.ctxs) (tlb : List TlbEntry) (asid va : Nat)
    (ho : Bool) : t.fetchWord tlb asid va ho = s.fetchWord tlb asid va ho := by
  have hpart (va n : Nat) : t.fetchPart tlb asid ho va n = s.fetchPart tlb asid ho va n := by
    simp only [State.fetchPart, xlate_of_sameBytes hb hc, readPlace_of_sameBytes hb]
  simp only [State.fetchWord, hpart]

end Sys2Proof.Machine
end

section
/-! The end of a halt (R372): the shadows are back in the handler warp, and the instances of the core run again. -/

namespace Sys2Proof.Machine

open Sys2Proof.Spec

/-- A change of a core that leaves its memories alone changes no byte. -/
theorem onCore_sameBytes (s : State) (c : Nat) {f : Core → Core}
    (h : ∀ k, (f k).scratch = k.scratch ∧ (f k).wbuf = k.wbuf ∧ (f k).shapes = k.shapes) : sameBytes s (s.onCore c f) := by
  have core (d : Nat) : ((s.onCore c f).core d).scratch = (s.core d).scratch ∧ ((s.onCore c f).core d).wbuf = (s.core d).wbuf ∧
      ((s.onCore c f).core d).shapes = (s.core d).shapes := by
    by_cases hd : d = c
    · subst hd
      rw [State.core_onCore]
      exact h _
    · rw [State.core_onCore_ne _ _ _ _ hd]
      exact ⟨rfl, rfl, rfl⟩
  intro p
  cases p with
  | scratch d a =>
    obtain ⟨hs, -, -⟩ := core d
    simp only [byteAt, hs]
  | buffer d a =>
    obtain ⟨-, hs, -⟩ := core d
    simp only [byteAt, hs]
  | shape d a =>
    obtain ⟨-, -, hs⟩ := core d
    simp only [byteAt, hs]
  | _ => rfl

theorem sameBytes_trans {s t u : State} (h : sameBytes s t) (g : sameBytes t u) : sameBytes s u := fun p => (g p).trans (h p)

theorem onCore_sameChip (s : State) (c : Nat) (f : Core → Core) : sameChip s (s.onCore c f) := by
  obtain ⟨-, -, hchip⟩ := untouched_refl s
  exact hchip

theorem sameChip_trans {s t u : State} (h : sameChip s t) (g : sameChip t u) : sameChip s u := by
  unfold sameChip sameRest at *
  grind

@[simp] theorem endHalt_bad (s : State) (c : Nat) : (endHalt s c).bad = s.bad := rfl

/-- With no pre-emption outstanding the end of a halt writes the shadows back and leaves no halt. -/
theorem endHalt_eq {s : State} {c : Nat} {h : Halt} {x : HSplit} (hk : (s.core c).halt = some h) (hx : h.handler = some x)
    (hp : (s.core c).preempt = none) : endHalt s c = s.onCore c (fun k => { k.unshadow x.warp with halt := none }) := by
  have hp' : ((s.core c).unshadow x.warp).preempt = none := hp
  simp only [endHalt, State.onCore, hk, hx, hp']

theorem unshadow_sameButWarps (k : Core) (hw : Nat) : SameButWarps k (k.unshadow hw) := setWarp_sameButWarps k hw rfl

/-- The handler warp holds its shadows again (R372). -/
theorem unshadowed_of_keepsHandler {s t : State} {c w : Nat} {k : Core} (hk : KeepsHandler (s.core c) k w)
    (ht : (t.core c).warp w = (k.unshadow w).warp w) : unshadowed s t c w := by
  obtain ⟨-, -, hsys, hb, hwarps⟩ := hk
  obtain ⟨hv, hs, hp, hrest⟩ := hwarps w
  have hkernel : k.kernel = (s.core c).kernel := by simp only [Core.kernel, hb]
  have hrange : List.range 4 = [0, 1, 2, 3] := rfl
  unfold unshadowed
  simp only [ht, Core.unshadow, Core.warp_setWarp, hkernel, hs, hp, hrange, List.foldl_cons, List.foldl_nil]
  refine ⟨fun i hi => ?_, fun i hi => ?_, ?_, ?_, fun i hi => ?_, ?_, ?_⟩
  · obtain rfl | rfl | rfl | rfl : i = 0 ∨ i = 1 ∨ i = 2 ∨ i = 3 := by omega
    all_goals simp [FMap.get_put, hsys]
  · simp (disch := omega) only [FMap.get_put_ne]
  · simp [FMap.get_put, hsys]
  · simp [hsys]
  · simp (disch := omega) only [FMap.get_put_ne]
  · simp only [hsys 0x016 (by decide), flagsMask]
  · obtain ⟨hstack, hen, hlive, -, hrest⟩ := hrest
    exact ⟨hv, rfl, rfl, hstack, hen, hlive, rfl, hrest⟩

/-- What the end of a halt of core `c` leaves of the package `u`, where the handler on warp `w` was entered with the trap state of the
package `s`. -/
structure HaltEnded (s u : State) (c w : Nat) (t : State) : Prop where
  halt : (t.core c).halt = none
  bytes : sameBytes u t
  chip : sameChip u t
  shadows : unshadowed s t c w
  splits : ∀ v, ((t.core c).warp v).splits = ((u.core c).warp v).splits

theorem endHalt_haltEnded {s u : State} {c w : Nat} (hk : KeepsHandler (s.core c) (u.core c) w) (hp : (s.core c).preempt = none) :
    HaltEnded s u c w (endHalt u c) := by
  obtain ⟨h, x, hhalt, hx, hw⟩ := hk.handler
  have heq := endHalt_eq hhalt hx (hk.preempt.trans hp)
  rw [hw] at heq
  have hcore : (endHalt u c).core c = { (u.core c).unshadow w with halt := none } := by rw [heq, State.core_onCore]
  refine ⟨?_, ?_, onCore_sameChip u c _, unshadowed_of_keepsHandler hk ?_, fun v => ?_⟩
  · rw [hcore]
  · rw [heq]
    exact onCore_sameBytes u c (fun _ => ⟨rfl, rfl, rfl⟩)
  · rw [hcore]
    rfl
  · rw [hcore]
    exact (unshadow_sameButWarps _ w).splits v

end Sys2Proof.Machine
end

section
/-! RTT.NEXT (R372): the split that trapped stands at the word, or the pair, that follows. -/

namespace Sys2Proof.Machine

open Sys2Proof.Spec

/-- A warp whose split `slot` stands at `pc`, in no barrier hold. -/
def Warp.resumeAt (x : Warp) (slot : Nat) (pc : Word64) : Warp :=
  match x.splits.find slot with
  | some p => { x with splits := x.splits.set slot { p with pc := pc, bar := none } }
  | none => x

/-- A package in which the trapping word of a halt of warp `v` counts as issued, before the halt ends. -/
def pastTrap (s : State) (c v : Nat) (h : Halt) : State :=
  (s.onWarp c v (·.resumeAt h.slot (s.afterTrap c h))).onCore c (fun k => (k.dropReplay h.party h.slot).clearValid)

theorem resumeAt_sameWarp (x : Warp) (slot : Nat) (pc : Word64) : sameWarp x (x.resumeAt slot pc) := by
  unfold Warp.resumeAt
  split <;> exact sameWarp_refl x

theorem resumeAt_splits {x : Warp} {slot : Nat} {p : Split} (pc : Word64) (h : x.splits.find slot = some p) :
    (x.resumeAt slot pc).splits.find slot = some { p with pc := pc, bar := none } := by
  simp [Warp.resumeAt, h, FMap.find_set]

theorem afterTrap_of_second {h : Halt} (hp : h.pair2 = true) (s : State) (c : Nat) : s.afterTrap c h = h.pc + 12 := by
  simp [State.afterTrap, hp]

theorem afterTrap_of_fetched {s : State} {c v : Nat} {h : Halt} {bs : List Byte} (hv : h.party = .compute v) (hp : h.pair2 = false)
    (hc : h.trap.cause ≠ .barOrphan) (hf : s.fetchWord (s.core c).tlb (s.core c).asid h.pc.toNat false = some bs) :
    s.afterTrap c h = if (wordOfBytes bs).getLsbD 0 then h.pc + 24 else h.pc + 12 := by
  simp [State.afterTrap, hv, hp, hc, hf]

/-- Where a return goes past a trap depends on what a step that touches nothing leaves, and on the TLB. -/
theorem afterTrap_of_untouched {s u : State} {c : Nat} (hu : untouched s u) (ht : (u.core c).tlb = (s.core c).tlb) (h : Halt) :
    u.afterTrap c h = s.afterTrap c h := by
  have hasid : (u.core c).asid = (s.core c).asid := by simp only [Core.asid, untouched_block hu]
  obtain ⟨-, hbytes, -, -, -, -, hctxs, -⟩ := hu
  simp only [State.afterTrap, ht, hasid, fetchWord_of_sameBytes hbytes hctxs]

/-- Dropping what was kept for a retry changes no system register but KVPROG. -/
theorem dropReplay_clearValid_eq (k : Core) (p : Party) (slot : Nat) : ∃ m rs,
    (k.dropReplay p slot).clearValid = { k with sys := m, replays := rs } ∧ ∀ i, i ≠ 0x00E → m.get i 0 = k.sys.get i 0 := by
  unfold Core.dropReplay Core.clearValid
  dsimp only
  split <;> exact ⟨_, _, rfl, fun i hi => by simp [Core.putSys, FMap.get_put_ne _ _ _ hi]⟩

theorem pastTrap_core (s : State) (c v : Nat) (h : Halt) : ∃ m rs,
    (pastTrap s c v h).core c = { (s.core c).setWarp v (((s.core c).warp v).resumeAt h.slot (s.afterTrap c h)) with
      sys := m, replays := rs } ∧
    ∀ i, i ≠ 0x00E → m.get i 0 = (s.core c).sys.get i 0 := by
  rw [pastTrap, State.core_onCore, State.core_onWarp]
  exact dropReplay_clearValid_eq _ _ _

theorem pastTrap_keepsHandler {s : State} {c v w : Nat} {h : Halt} {x : Core} (hk : KeepsHandler x (s.core c) w) :
    KeepsHandler x ((pastTrap s c v h).core c) w := by
  obtain ⟨m, rs, hcore, hm⟩ := pastTrap_core s c v h
  obtain ⟨hhandler, hpreempt, hsys, hblock, hwarps⟩ := hk
  rw [hcore]
  refine ⟨hhandler, hpreempt, fun i hi => (hm i hi).trans (hsys i hi), hblock, fun u => ?_⟩
  exact sameWarp_trans (hwarps u) ((setWarp_sameCore _ v (resumeAt_sameWarp _ _ _)).warps u)

theorem pastTrap_splits {s : State} {c v : Nat} {h : Halt} {p : Split} (hp : ((s.core c).warp v).splits.find h.slot = some p) :
    (((pastTrap s c v h).core c).warp v).splits.find h.slot = some { p with pc := s.afterTrap c h, bar := none } := by
  obtain ⟨m, rs, hcore, -⟩ := pastTrap_core s c v h
  rw [hcore, ← resumeAt_splits _ hp]
  exact congrArg (fun x : Warp => x.splits.find h.slot) (Core.warp_setWarp _ _ _)

theorem pastTrap_sameBytes (s : State) (c v : Nat) (h : Halt) : sameBytes s (pastTrap s c v h) := by
  have hwarp : sameBytes s (s.onWarp c v (·.resumeAt h.slot (s.afterTrap c h))) := onCore_sameBytes s c (fun _ => ⟨rfl, rfl, rfl⟩)
  refine sameBytes_trans hwarp (onCore_sameBytes _ c (fun k => ?_))
  obtain ⟨m, rs, hdrop, -⟩ := dropReplay_clearValid_eq k h.party h.slot
  rw [hdrop]
  exact ⟨rfl, rfl, rfl⟩

theorem pastTrap_sameChip (s : State) (c v : Nat) (h : Halt) : sameChip s (pastTrap s c v h) :=
  sameChip_trans (onCore_sameChip s c _) (onCore_sameChip _ c _)

end Sys2Proof.Machine

namespace Sys2Proof.Spec

open Sys2Proof.Machine

/-- An RTT.NEXT of a halt that a word of a compute stream raised goes past that word and ends the halt (R372). -/
theorem exec_rttNext {w : RWord} {s : State} {e : Env} {h : Halt} {v : Nat} (hh : Handles (.rttNext w) s e h)
    (hv : h.party = .compute v) (hp : h.trap.cause ≠ .preempt) (hr : h.trap.cause ≠ .resume) :
    exec (.rttNext w) s = .next (endHalt (pastTrap (e.quick e.issued) e.c v h) e.c) := by
  have hx : exec (.rttNext w) s = execRttNext w s := rfl
  have henv : envOf s .rttNext (.r w) = some e := hh.toSite.envOf_eq rfl
  have hat : h.atWord = true := by simp [Halt.atWord, hp, hr, hv]
  have hbad : (endHalt (pastTrap (e.quick e.issued) e.c v h) e.c).bad = none := by
    simp [pastTrap, Env.quick, envOf_s henv, hh.sound]
  rw [hx, execRttNext, sysWord, runWhen_issues henv hh.able hh.clean (by simp), whenActive_on hh.active]
  simp only [hh.halt, hat, Bool.not_true, Bool.false_eq_true, if_false]
  rw [← done_ok hbad, pastTrap]
  simp only [hv]
  rfl

/-- After RTT.NEXT the split that trapped stands after the trap, the shadows are back, and the halt has ended (R372). -/
theorem rttNext_resumes {w : RWord} {s : State} {e : Env} {h : Halt} {v : Nat} {p : Split} (hh : Handles (.rttNext w) s e h)
    (hpre : e.k.preempt = none) (hp : h.trap.cause ≠ .preempt) (hr : h.trap.cause ≠ .resume) (hv : h.party = .compute v)
    (hsplit : (e.k.warp v).splits.find h.slot = some p) :
    ∃ t, exec (.rttNext w) s = .next t ∧ (t.core e.c).halt = none ∧ sameBytes s t ∧ sameChip s t ∧ unshadowed s t e.c e.w ∧
      ((t.core e.c).warp v).splits.find h.slot = some { p with pc := s.afterTrap e.c h, bar := none } := by
  obtain ⟨hk, -⟩ := envOf_core hh.env
  obtain ⟨hu, hkeeps, htlb, hsplits⟩ := hh.quick
  have hend := endHalt_haltEnded (pastTrap_keepsHandler (v := v) (h := h) hkeeps) (hk ▸ hpre)
  have hafter := afterTrap_of_untouched hu htlb h
  obtain ⟨-, hbytes, hchip⟩ := hu
  refine ⟨_, exec_rttNext hh hv hp hr, hend.halt, sameBytes_trans hbytes (sameBytes_trans (pastTrap_sameBytes _ _ _ _) hend.bytes),
    sameChip_trans hchip (sameChip_trans (pastTrap_sameChip _ _ _ _) hend.chip), hend.shadows, ?_⟩
  rw [hend.splits, pastTrap_splits (p := p) (by rw [hsplits, ← hk, hsplit]), hafter]

end Sys2Proof.Spec

open Sys2Proof Machine Spec

/-- Settles O24: TRAP begins its halt, or ends the command of a stack core, and RTT.NEXT leaves the split at the place that
`State.afterTrap` finds with the halt ended. -/
theorem trapAndContinuePastIt : Obligations.TrapAndContinuePastIt := by
  unfold Obligations.TrapAndContinuePastIt
  refine ⟨fun w s e h hh hk => ?_, fun w s e h => exec_trap_stack h, fun w s e h v p hh hpre hp hr hv hsplit => ?_⟩
  · obtain ⟨hcore, -⟩ := envOf_core h.env
    have hcause : Cause.trap ≠ .dataError := by decide
    rw [exec_trap h, raise_of_running hh (hcore ▸ hk) hcause, ← hcore]
  · obtain ⟨hcore, -⟩ := envOf_core hh.env
    obtain ⟨t, hrun, hend, hbytes, hchip, hshadows, hfound⟩ := rttNext_resumes hh hpre hp hr hv hsplit
    refine ⟨t, _, hrun, hend, hbytes, hchip, hshadows, hfound, rfl, fun h2 => afterTrap_of_second h2 s e.c, fun bs h2 hc hf => ?_⟩
    rw [hcore] at hf
    exact afterTrap_of_fetched hv h2 hc hf
end
